-- ==== Sys2Proof/Word.lean ====
section
/-!
DEFINITION. The word types of the machine and the sparse-map type used for register files and tables (R5, R34).
-/
namespace Sys2Proof

/-- A 32-bit register value or instruction word (R34). -/
abbrev Word := BitVec 32
/-- One byte of memory: a location (R120). -/
abbrev Byte := BitVec 8
/-- One bit per lane of a group, lane 0 in bit 0 (R9). -/
abbrev Mask := BitVec 32
/-- A 128-bit buffer record (R81, R83). -/
abbrev Rec := BitVec 128
/-- Sparse data by number: register files, tables of groups, blocks, copies and the like. -/
abbrev KMap (α : Type) := List (Nat × α)

end Sys2Proof
end

