-- ==== Sys2Proof/Syntax.lean ====
section
/-!
DEFINITION. The one inductive of instructions: a constructor for every row of the opcode table. An encoded row carries its
encoding's fields, each at its own width (R149, R152, R155, R246, R266); a row for an event of the machine carries what
the event needs to be named (spec/95_what_each_step_holds.md). A word no row describes is `reservedEncoding`.
-/
namespace Sys2Proof

inductive Instr
  /-- ADD, R175: Vector 32-bit wrapping sum of A and B in each guarded exec lane. -/
  | add (b : BitVec 7) (a : BitVec 7) (d : BitVec 7) (g : BitVec 3)
  /-- ADD_G, R175: Group-wide twin of add on g registers under a gp guard. -/
  | addG (b : BitVec 7) (a : BitVec 7) (d : BitVec 7) (g : BitVec 3)
  /-- SUB, R175: Vector wrapping difference A minus B. -/
  | sub (b : BitVec 7) (a : BitVec 7) (d : BitVec 7) (g : BitVec 3)
  /-- SUB_G, R175: Group-wide twin of sub. -/
  | subG (b : BitVec 7) (a : BitVec 7) (d : BitVec 7) (g : BitVec 3)
  /-- MUL, R175: Vector low 32 bits of A times B. -/
  | mul (b : BitVec 7) (a : BitVec 7) (d : BitVec 7) (g : BitVec 3)
  /-- MUL_G, R175: Group-wide twin of mul. -/
  | mulG (b : BitVec 7) (a : BitVec 7) (d : BitVec 7) (g : BitVec 3)
  /-- MULHI_N, R175: Vector high 32 bits of the unsigned product. -/
  | mulhiN (b : BitVec 7) (a : BitVec 7) (d : BitVec 7) (g : BitVec 3)
  /-- MULHI_N_G, R175: Group-wide twin of mulhi.n. -/
  | mulhiNG (b : BitVec 7) (a : BitVec 7) (d : BitVec 7) (g : BitVec 3)
  /-- MULHI_I, R175: Vector high 32 bits of the signed product. -/
  | mulhiI (b : BitVec 7) (a : BitVec 7) (d : BitVec 7) (g : BitVec 3)
  /-- MULHI_I_G, R175: Group-wide twin of mulhi.i. -/
  | mulhiIG (b : BitVec 7) (a : BitVec 7) (d : BitVec 7) (g : BitVec 3)
  /-- MAD, R175: Vector low 32 bits of A times B plus the destination's prior value. -/
  | mad (b : BitVec 7) (a : BitVec 7) (d : BitVec 7) (g : BitVec 3)
  /-- MAD_G, R175: Group-wide twin of mad. -/
  | madG (b : BitVec 7) (a : BitVec 7) (d : BitVec 7) (g : BitVec 3)
  /-- MIN_I, R175: Vector signed minimum. -/
  | minI (b : BitVec 7) (a : BitVec 7) (d : BitVec 7) (g : BitVec 3)
  /-- MIN_I_G, R175: Group-wide twin of min.i. -/
  | minIG (b : BitVec 7) (a : BitVec 7) (d : BitVec 7) (g : BitVec 3)
  /-- MAX_I, R175: Vector signed maximum. -/
  | maxI (b : BitVec 7) (a : BitVec 7) (d : BitVec 7) (g : BitVec 3)
  /-- MAX_I_G, R175: Group-wide twin of max.i. -/
  | maxIG (b : BitVec 7) (a : BitVec 7) (d : BitVec 7) (g : BitVec 3)
  /-- MIN_N, R175: Vector unsigned minimum. -/
  | minN (b : BitVec 7) (a : BitVec 7) (d : BitVec 7) (g : BitVec 3)
  /-- MIN_N_G, R175: Group-wide twin of min.n. -/
  | minNG (b : BitVec 7) (a : BitVec 7) (d : BitVec 7) (g : BitVec 3)
  /-- MAX_N, R175: Vector unsigned maximum. -/
  | maxN (b : BitVec 7) (a : BitVec 7) (d : BitVec 7) (g : BitVec 3)
  /-- MAX_N_G, R175: Group-wide twin of max.n. -/
  | maxNG (b : BitVec 7) (a : BitVec 7) (d : BitVec 7) (g : BitVec 3)
  /-- AND, R175: Vector bitwise AND. -/
  | and (b : BitVec 7) (a : BitVec 7) (d : BitVec 7) (g : BitVec 3)
  /-- AND_G, R175: Group-wide twin of and. -/
  | andG (b : BitVec 7) (a : BitVec 7) (d : BitVec 7) (g : BitVec 3)
  /-- OR, R175: Vector bitwise OR. -/
  | or (b : BitVec 7) (a : BitVec 7) (d : BitVec 7) (g : BitVec 3)
  /-- OR_G, R175: Group-wide twin of or. -/
  | orG (b : BitVec 7) (a : BitVec 7) (d : BitVec 7) (g : BitVec 3)
  /-- XOR, R175: Vector bitwise XOR. -/
  | xor (b : BitVec 7) (a : BitVec 7) (d : BitVec 7) (g : BitVec 3)
  /-- XOR_G, R175: Group-wide twin of xor. -/
  | xorG (b : BitVec 7) (a : BitVec 7) (d : BitVec 7) (g : BitVec 3)
  /-- ANDN, R175: Vector A AND NOT B. -/
  | andn (b : BitVec 7) (a : BitVec 7) (d : BitVec 7) (g : BitVec 3)
  /-- ANDN_G, R175: Group-wide twin of andn. -/
  | andnG (b : BitVec 7) (a : BitVec 7) (d : BitVec 7) (g : BitVec 3)
  /-- SHL, R176: Vector left shift by min(B, 32). -/
  | shl (b : BitVec 7) (a : BitVec 7) (d : BitVec 7) (g : BitVec 3)
  /-- SHL_G, R176: Group-wide twin of shl. -/
  | shlG (b : BitVec 7) (a : BitVec 7) (d : BitVec 7) (g : BitVec 3)
  /-- SHR, R176: Vector logical right shift by min(B, 32). -/
  | shr (b : BitVec 7) (a : BitVec 7) (d : BitVec 7) (g : BitVec 3)
  /-- SHR_G, R176: Group-wide twin of shr. -/
  | shrG (b : BitVec 7) (a : BitVec 7) (d : BitVec 7) (g : BitVec 3)
  /-- SAR, R176: Vector arithmetic right shift by min(B, 32). -/
  | sar (b : BitVec 7) (a : BitVec 7) (d : BitVec 7) (g : BitVec 3)
  /-- SAR_G, R176: Group-wide twin of sar. -/
  | sarG (b : BitVec 7) (a : BitVec 7) (d : BitVec 7) (g : BitVec 3)
  /-- BFE_N, R177: Vector zero-extended bit-field extract under a pos/width control word. -/
  | bfeN (b : BitVec 7) (a : BitVec 7) (d : BitVec 7) (g : BitVec 3)
  /-- BFE_N_G, R177: Group-wide twin of bfe.n. -/
  | bfeNG (b : BitVec 7) (a : BitVec 7) (d : BitVec 7) (g : BitVec 3)
  /-- BFE_I, R177: Vector sign-extended bit-field extract. -/
  | bfeI (b : BitVec 7) (a : BitVec 7) (d : BitVec 7) (g : BitVec 3)
  /-- BFE_I_G, R177: Group-wide twin of bfe.i. -/
  | bfeIG (b : BitVec 7) (a : BitVec 7) (d : BitVec 7) (g : BitVec 3)
  /-- BFI, R177: Vector bit-field insert of A into the base of a register pair under its control word. -/
  | bfi (b : BitVec 7) (a : BitVec 7) (d : BitVec 7) (g : BitVec 3)
  /-- BFI_G, R177: Group-wide twin of bfi. -/
  | bfiG (b : BitVec 7) (a : BitVec 7) (d : BitVec 7) (g : BitVec 3)
  /-- BYTEMIX, R178: Vector byte selection, zeroing, sign fill or ones under a selector. -/
  | bytemix (b : BitVec 7) (a : BitVec 7) (d : BitVec 7) (g : BitVec 3)
  /-- BYTEMIX_G, R178: Group-wide twin of bytemix. -/
  | bytemixG (b : BitVec 7) (a : BitVec 7) (d : BitVec 7) (g : BitVec 3)
  /-- SEL, R179: Vector select of A or B by the predicate in the guard field, in every exec lane. -/
  | sel (b : BitVec 7) (a : BitVec 7) (d : BitVec 7) (p : BitVec 3)
  /-- SEL_G, R179: Group-wide twin of sel selecting by a gp predicate. -/
  | selG (b : BitVec 7) (a : BitVec 7) (d : BitVec 7) (p : BitVec 3)
  /-- DIV_N, R180: Vector unsigned division with the zero-divisor results of R99. -/
  | divN (b : BitVec 7) (a : BitVec 7) (d : BitVec 7) (g : BitVec 3)
  /-- DIV_N_G, R180: Group-wide twin of div.n. -/
  | divNG (b : BitVec 7) (a : BitVec 7) (d : BitVec 7) (g : BitVec 3)
  /-- REM_N, R180: Vector unsigned remainder. -/
  | remN (b : BitVec 7) (a : BitVec 7) (d : BitVec 7) (g : BitVec 3)
  /-- REM_N_G, R180: Group-wide twin of rem.n. -/
  | remNG (b : BitVec 7) (a : BitVec 7) (d : BitVec 7) (g : BitVec 3)
  /-- DIV_I, R180: Vector signed division truncating toward zero. -/
  | divI (b : BitVec 7) (a : BitVec 7) (d : BitVec 7) (g : BitVec 3)
  /-- DIV_I_G, R180: Group-wide twin of div.i. -/
  | divIG (b : BitVec 7) (a : BitVec 7) (d : BitVec 7) (g : BitVec 3)
  /-- REM_I, R180: Vector signed remainder with the dividend's sign. -/
  | remI (b : BitVec 7) (a : BitVec 7) (d : BitVec 7) (g : BitVec 3)
  /-- REM_I_G, R180: Group-wide twin of rem.i. -/
  | remIG (b : BitVec 7) (a : BitVec 7) (d : BitVec 7) (g : BitVec 3)
  /-- ADD_64, R181: Vector 64-bit sum of register pairs. -/
  | add64 (b : BitVec 7) (a : BitVec 7) (d : BitVec 7) (g : BitVec 3)
  /-- ADD_64_G, R181: Group-wide twin of add.64. -/
  | add64G (b : BitVec 7) (a : BitVec 7) (d : BitVec 7) (g : BitVec 3)
  /-- SUB_64, R181: Vector 64-bit difference of register pairs. -/
  | sub64 (b : BitVec 7) (a : BitVec 7) (d : BitVec 7) (g : BitVec 3)
  /-- SUB_64_G, R181: Group-wide twin of sub.64. -/
  | sub64G (b : BitVec 7) (a : BitVec 7) (d : BitVec 7) (g : BitVec 3)
  /-- CMP, R183: Vector compare of two registers writing a predicate and recording a provenance. -/
  | cmp (b : BitVec 7) (a : BitVec 7) (c : BitVec 4) (p : BitVec 3) (g : BitVec 3)
  /-- CMP_G, R183: Group-wide compare writing a gp predicate. -/
  | cmpG (b : BitVec 7) (a : BitVec 7) (c : BitVec 4) (p : BitVec 3) (g : BitVec 3)
  /-- CMPI, R183: Vector compare with an immediate, writing a predicate and provenance. -/
  | cmpi (i : BitVec 7) (a : BitVec 7) (c : BitVec 4) (p : BitVec 3) (g : BitVec 3)
  /-- CMPI_G, R183: Group-wide compare with an immediate. -/
  | cmpiG (i : BitVec 7) (a : BitVec 7) (c : BitVec 4) (p : BitVec 3) (g : BitVec 3)
  /-- MOV, R184: Vector move whose shadow is the source's view. -/
  | mov (a : BitVec 7) (d : BitVec 7) (g : BitVec 3)
  /-- MOV_G, R184: Group-wide move. -/
  | movG (a : BitVec 7) (d : BitVec 7) (g : BitVec 3)
  /-- NOT, R184: Vector bitwise NOT. -/
  | not (a : BitVec 7) (d : BitVec 7) (g : BitVec 3)
  /-- NOT_G, R184: Group-wide NOT. -/
  | notG (a : BitVec 7) (d : BitVec 7) (g : BitVec 3)
  /-- NEG, R184: Vector wrapping negation. -/
  | neg (a : BitVec 7) (d : BitVec 7) (g : BitVec 3)
  /-- NEG_G, R184: Group-wide negation. -/
  | negG (a : BitVec 7) (d : BitVec 7) (g : BitVec 3)
  /-- ABS, R184: Vector wrapping absolute value. -/
  | abs (a : BitVec 7) (d : BitVec 7) (g : BitVec 3)
  /-- ABS_G, R184: Group-wide absolute value. -/
  | absG (a : BitVec 7) (d : BitVec 7) (g : BitVec 3)
  /-- POPC, R184: Vector population count. -/
  | popc (a : BitVec 7) (d : BitVec 7) (g : BitVec 3)
  /-- POPC_G, R184: Group-wide population count. -/
  | popcG (a : BitVec 7) (d : BitVec 7) (g : BitVec 3)
  /-- CLZ, R184: Vector count of leading zeros. -/
  | clz (a : BitVec 7) (d : BitVec 7) (g : BitVec 3)
  /-- CLZ_G, R184: Group-wide count of leading zeros. -/
  | clzG (a : BitVec 7) (d : BitVec 7) (g : BitVec 3)
  /-- BREV, R184: Vector bit reversal. -/
  | brev (a : BitVec 7) (d : BitVec 7) (g : BitVec 3)
  /-- BREV_G, R184: Group-wide bit reversal. -/
  | brevG (a : BitVec 7) (d : BitVec 7) (g : BitVec 3)
  /-- CVT_I8_I32, R184: Vector signed saturation to i8. -/
  | cvtI8I32 (a : BitVec 7) (d : BitVec 7) (g : BitVec 3)
  /-- CVT_I8_I32_G, R184: Group-wide saturation to i8. -/
  | cvtI8I32G (a : BitVec 7) (d : BitVec 7) (g : BitVec 3)
  /-- CVT_N8_I32, R184: Vector saturation of a signed value to n8. -/
  | cvtN8I32 (a : BitVec 7) (d : BitVec 7) (g : BitVec 3)
  /-- CVT_N8_I32_G, R184: Group-wide saturation to n8. -/
  | cvtN8I32G (a : BitVec 7) (d : BitVec 7) (g : BitVec 3)
  /-- CVT_I16_I32, R184: Vector saturation to i16. -/
  | cvtI16I32 (a : BitVec 7) (d : BitVec 7) (g : BitVec 3)
  /-- CVT_I16_I32_G, R184: Group-wide saturation to i16. -/
  | cvtI16I32G (a : BitVec 7) (d : BitVec 7) (g : BitVec 3)
  /-- CVT_N16_I32, R184: Vector saturation of a signed value to n16. -/
  | cvtN16I32 (a : BitVec 7) (d : BitVec 7) (g : BitVec 3)
  /-- CVT_N16_I32_G, R184: Group-wide saturation to n16. -/
  | cvtN16I32G (a : BitVec 7) (d : BitVec 7) (g : BitVec 3)
  /-- CVT_N32_I32, R184: Vector clamp of a signed value at zero. -/
  | cvtN32I32 (a : BitVec 7) (d : BitVec 7) (g : BitVec 3)
  /-- CVT_N32_I32_G, R184: Group-wide clamp at zero. -/
  | cvtN32I32G (a : BitVec 7) (d : BitVec 7) (g : BitVec 3)
  /-- CVT_I32_N32, R184: Vector saturation of an unsigned value to i32. -/
  | cvtI32N32 (a : BitVec 7) (d : BitVec 7) (g : BitVec 3)
  /-- CVT_I32_N32_G, R184: Group-wide saturation to i32. -/
  | cvtI32N32G (a : BitVec 7) (d : BitVec 7) (g : BitVec 3)
  /-- CVT_N8_N32, R184: Vector saturation of an unsigned value to n8. -/
  | cvtN8N32 (a : BitVec 7) (d : BitVec 7) (g : BitVec 3)
  /-- CVT_N8_N32_G, R184: Group-wide unsigned saturation to n8. -/
  | cvtN8N32G (a : BitVec 7) (d : BitVec 7) (g : BitVec 3)
  /-- CVT_N16_N32, R184: Vector saturation of an unsigned value to n16. -/
  | cvtN16N32 (a : BitVec 7) (d : BitVec 7) (g : BitVec 3)
  /-- CVT_N16_N32_G, R184: Group-wide unsigned saturation to n16. -/
  | cvtN16N32G (a : BitVec 7) (d : BitVec 7) (g : BitVec 3)
  /-- PAND, R185: Predicate AND, second operand from the guard field, in every exec lane. -/
  | pand (a : BitVec 3) (d : BitVec 3) (b : BitVec 3)
  /-- PAND_G, R185: Group predicate AND. -/
  | pandG (a : BitVec 3) (d : BitVec 3) (b : BitVec 3)
  /-- POR, R185: Predicate OR. -/
  | por (a : BitVec 3) (d : BitVec 3) (b : BitVec 3)
  /-- POR_G, R185: Group predicate OR. -/
  | porG (a : BitVec 3) (d : BitVec 3) (b : BitVec 3)
  /-- PXOR, R185: Predicate XOR. -/
  | pxor (a : BitVec 3) (d : BitVec 3) (b : BitVec 3)
  /-- PXOR_G, R185: Group predicate XOR. -/
  | pxorG (a : BitVec 3) (d : BitVec 3) (b : BitVec 3)
  /-- PANDN, R185: Predicate A AND NOT B. -/
  | pandn (a : BitVec 3) (d : BitVec 3) (b : BitVec 3)
  /-- PANDN_G, R185: Group predicate AND NOT. -/
  | pandnG (a : BitVec 3) (d : BitVec 3) (b : BitVec 3)
  /-- PNOT, R185: Guarded predicate NOT. -/
  | pnot (a : BitVec 3) (d : BitVec 3) (g : BitVec 3)
  /-- PNOT_G, R185: Group predicate NOT. -/
  | pnotG (a : BitVec 3) (d : BitVec 3) (g : BitVec 3)
  /-- PMOV, R185: Guarded predicate move. -/
  | pmov (a : BitVec 3) (d : BitVec 3) (g : BitVec 3)
  /-- PMOV_G, R185: Group predicate move. -/
  | pmovG (a : BitVec 3) (d : BitVec 3) (g : BitVec 3)
  /-- PSET, R185: Guarded predicate set true where a register is nonzero. -/
  | pset (a : BitVec 7) (d : BitVec 3) (g : BitVec 3)
  /-- PSET_G, R185: Group predicate set from a g register. -/
  | psetG (a : BitVec 7) (d : BitVec 3) (g : BitVec 3)
  /-- ADDI, R182: Vector add of an immediate. -/
  | addi (i : BitVec 7) (a : BitVec 7) (d : BitVec 7) (g : BitVec 3)
  /-- ADDI_G, R182: Group-wide add of an immediate. -/
  | addiG (i : BitVec 7) (a : BitVec 7) (d : BitVec 7) (g : BitVec 3)
  /-- MULI, R182: Vector multiply by an immediate. -/
  | muli (i : BitVec 7) (a : BitVec 7) (d : BitVec 7) (g : BitVec 3)
  /-- MULI_G, R182: Group-wide multiply by an immediate. -/
  | muliG (i : BitVec 7) (a : BitVec 7) (d : BitVec 7) (g : BitVec 3)
  /-- ANDI, R182: Vector AND with an immediate. -/
  | andi (i : BitVec 7) (a : BitVec 7) (d : BitVec 7) (g : BitVec 3)
  /-- ANDI_G, R182: Group-wide AND with an immediate. -/
  | andiG (i : BitVec 7) (a : BitVec 7) (d : BitVec 7) (g : BitVec 3)
  /-- ORI, R182: Vector OR with an immediate. -/
  | ori (i : BitVec 7) (a : BitVec 7) (d : BitVec 7) (g : BitVec 3)
  /-- ORI_G, R182: Group-wide OR with an immediate. -/
  | oriG (i : BitVec 7) (a : BitVec 7) (d : BitVec 7) (g : BitVec 3)
  /-- XORI, R182: Vector XOR with an immediate. -/
  | xori (i : BitVec 7) (a : BitVec 7) (d : BitVec 7) (g : BitVec 3)
  /-- XORI_G, R182: Group-wide XOR with an immediate. -/
  | xoriG (i : BitVec 7) (a : BitVec 7) (d : BitVec 7) (g : BitVec 3)
  /-- SHLI, R182: Vector left shift by an unsigned immediate. -/
  | shli (i : BitVec 7) (a : BitVec 7) (d : BitVec 7) (g : BitVec 3)
  /-- SHLI_G, R182: Group-wide left shift by an immediate. -/
  | shliG (i : BitVec 7) (a : BitVec 7) (d : BitVec 7) (g : BitVec 3)
  /-- SHRI, R182: Vector logical right shift by an immediate. -/
  | shri (i : BitVec 7) (a : BitVec 7) (d : BitVec 7) (g : BitVec 3)
  /-- SHRI_G, R182: Group-wide logical right shift by an immediate. -/
  | shriG (i : BitVec 7) (a : BitVec 7) (d : BitVec 7) (g : BitVec 3)
  /-- SARI, R182: Vector arithmetic right shift by an immediate. -/
  | sari (i : BitVec 7) (a : BitVec 7) (d : BitVec 7) (g : BitVec 3)
  /-- SARI_G, R182: Group-wide arithmetic right shift by an immediate. -/
  | sariG (i : BitVec 7) (a : BitVec 7) (d : BitVec 7) (g : BitVec 3)
  /-- FADD, R186: FP32 sum rounded once under fmt.rnd. -/
  | fadd (b : BitVec 7) (a : BitVec 7) (d : BitVec 7) (g : BitVec 3)
  /-- FSUB, R186: FP32 difference rounded once. -/
  | fsub (b : BitVec 7) (a : BitVec 7) (d : BitVec 7) (g : BitVec 3)
  /-- FMUL, R186: FP32 product rounded once. -/
  | fmul (b : BitVec 7) (a : BitVec 7) (d : BitVec 7) (g : BitVec 3)
  /-- FFMA, R186: FP32 fused multiply-add into the destination's prior value, one rounding. -/
  | ffma (b : BitVec 7) (a : BitVec 7) (d : BitVec 7) (g : BitVec 3)
  /-- FMIN, R186: FP32 minimum under R109. -/
  | fmin (b : BitVec 7) (a : BitVec 7) (d : BitVec 7) (g : BitVec 3)
  /-- FMAX, R186: FP32 maximum under R109. -/
  | fmax (b : BitVec 7) (a : BitVec 7) (d : BitVec 7) (g : BitVec 3)
  /-- PKADD_F16, R187: Packed FP16 pair addition. -/
  | pkaddF16 (b : BitVec 7) (a : BitVec 7) (d : BitVec 7) (g : BitVec 3)
  /-- PKMUL_F16, R187: Packed FP16 pair multiplication. -/
  | pkmulF16 (b : BitVec 7) (a : BitVec 7) (d : BitVec 7) (g : BitVec 3)
  /-- PKFMA_F16, R187: Packed FP16 pair fused multiply-add. -/
  | pkfmaF16 (b : BitVec 7) (a : BitVec 7) (d : BitVec 7) (g : BitVec 3)
  /-- PKADD_BF16, R187: Packed BF16 pair addition. -/
  | pkaddBf16 (b : BitVec 7) (a : BitVec 7) (d : BitVec 7) (g : BitVec 3)
  /-- PKMUL_BF16, R187: Packed BF16 pair multiplication. -/
  | pkmulBf16 (b : BitVec 7) (a : BitVec 7) (d : BitVec 7) (g : BitVec 3)
  /-- PKFMA_BF16, R187: Packed BF16 pair fused multiply-add. -/
  | pkfmaBf16 (b : BitVec 7) (a : BitVec 7) (d : BitVec 7) (g : BitVec 3)
  /-- FCMP, R188: FP32 compare writing a predicate with invalid provenance. -/
  | fcmp (b : BitVec 7) (a : BitVec 7) (c : BitVec 4) (p : BitVec 3) (g : BitVec 3)
  /-- FNEG, R189: Invert the sign bit. -/
  | fneg (a : BitVec 7) (d : BitVec 7) (g : BitVec 3)
  /-- FABS, R189: Clear the sign bit. -/
  | fabs (a : BitVec 7) (d : BitVec 7) (g : BitVec 3)
  /-- FRCP, R189: Correctly rounded FP32 reciprocal. -/
  | frcp (a : BitVec 7) (d : BitVec 7) (g : BitVec 3)
  /-- FSQRT, R189: Correctly rounded FP32 square root. -/
  | fsqrt (a : BitVec 7) (d : BitVec 7) (g : BitVec 3)
  /-- FRSQ, R189: Correctly rounded FP32 reciprocal square root. -/
  | frsq (a : BitVec 7) (d : BitVec 7) (g : BitVec 3)
  /-- FEXP2, R189: Correctly rounded FP32 base-2 exponential. -/
  | fexp2 (a : BitVec 7) (d : BitVec 7) (g : BitVec 3)
  /-- FLOG2, R189: Correctly rounded FP32 base-2 logarithm. -/
  | flog2 (a : BitVec 7) (d : BitVec 7) (g : BitVec 3)
  /-- FRINT, R189: Round FP32 to an integral value under fmt.rnd. -/
  | frint (a : BitVec 7) (d : BitVec 7) (g : BitVec 3)
  /-- CVT_F32_I32, R190: Convert a signed integer to FP32. -/
  | cvtF32I32 (a : BitVec 7) (d : BitVec 7) (g : BitVec 3)
  /-- CVT_F32_N32, R190: Convert an unsigned integer to FP32. -/
  | cvtF32N32 (a : BitVec 7) (d : BitVec 7) (g : BitVec 3)
  /-- CVT_I32_F32, R190: Convert FP32 to a saturated signed integer. -/
  | cvtI32F32 (a : BitVec 7) (d : BitVec 7) (g : BitVec 3)
  /-- CVT_N32_F32, R190: Convert FP32 to a saturated unsigned integer. -/
  | cvtN32F32 (a : BitVec 7) (d : BitVec 7) (g : BitVec 3)
  /-- CVT_F16_F32, R190: Round FP32 to FP16. -/
  | cvtF16F32 (a : BitVec 7) (d : BitVec 7) (g : BitVec 3)
  /-- CVT_BF16_F32, R190: Round FP32 to BF16. -/
  | cvtBf16F32 (a : BitVec 7) (d : BitVec 7) (g : BitVec 3)
  /-- CVT_F32_F16, R190: Widen FP16 to FP32 exactly. -/
  | cvtF32F16 (a : BitVec 7) (d : BitVec 7) (g : BitVec 3)
  /-- CVT_F32_BF16, R190: Widen BF16 to FP32 exactly. -/
  | cvtF32Bf16 (a : BitVec 7) (d : BitVec 7) (g : BitVec 3)
  /-- CVT_E4M3_F32, R190: Convert FP32 to E4M3 under fmt.f8ov. -/
  | cvtE4m3F32 (a : BitVec 7) (d : BitVec 7) (g : BitVec 3)
  /-- CVT_E5M2_F32, R190: Convert FP32 to E5M2 under fmt.f8ov. -/
  | cvtE5m2F32 (a : BitVec 7) (d : BitVec 7) (g : BitVec 3)
  /-- CVT_F32_E4M3, R190: Widen E4M3 to FP32 exactly. -/
  | cvtF32E4m3 (a : BitVec 7) (d : BitVec 7) (g : BitVec 3)
  /-- CVT_F32_E5M2, R190: Widen E5M2 to FP32 exactly. -/
  | cvtF32E5m2 (a : BitVec 7) (d : BitVec 7) (g : BitVec 3)
  /-- CVT_BF16_F16, R190: Round FP16 to BF16. -/
  | cvtBf16F16 (a : BitVec 7) (d : BitVec 7) (g : BitVec 3)
  /-- CVT_F16_BF16, R190: Round BF16 to FP16. -/
  | cvtF16Bf16 (a : BitVec 7) (d : BitVec 7) (g : BitVec 3)
  /-- CVT_I8_F32, R190: Convert FP32 to a sign-extended saturated i8. -/
  | cvtI8F32 (a : BitVec 7) (d : BitVec 7) (g : BitVec 3)
  /-- CVT_N8_F32, R190: Convert FP32 to a saturated n8. -/
  | cvtN8F32 (a : BitVec 7) (d : BitVec 7) (g : BitVec 3)
  /-- XPICK, R193: Each receiver takes A from a lane position within its segment. -/
  | xpick (b : BitVec 7) (a : BitVec 7) (d : BitVec 7) (g : BitVec 3)
  /-- XRISE, R193: Each receiver takes A from n lanes below, or keeps its fill at a segment edge. -/
  | xrise (b : BitVec 7) (a : BitVec 7) (d : BitVec 7) (g : BitVec 3)
  /-- XFALL, R193: Each receiver takes A from n lanes above, or keeps its fill. -/
  | xfall (b : BitVec 7) (a : BitVec 7) (d : BitVec 7) (g : BitVec 3)
  /-- XFLIP, R193: Each receiver takes A from the lane at an XOR pattern within its segment. -/
  | xflip (b : BitVec 7) (a : BitVec 7) (d : BitVec 7) (g : BitVec 3)
  /-- QSWAP_H, R194: Receivers take A of their horizontal quad partner. -/
  | qswapH (a : BitVec 7) (d : BitVec 7) (g : BitVec 3)
  /-- QSWAP_V, R194: Receivers take A of their vertical quad partner. -/
  | qswapV (a : BitVec 7) (d : BitVec 7) (g : BitVec 3)
  /-- QSWAP_D, R194: Receivers take A of their diagonal quad partner. -/
  | qswapD (a : BitVec 7) (d : BitVec 7) (g : BitVec 3)
  /-- QBCAST_0, R194: Receivers take A of lane 4q of their quad. -/
  | qbcast0 (a : BitVec 7) (d : BitVec 7) (g : BitVec 3)
  /-- QBCAST_1, R194: Receivers take A of lane 4q+1 of their quad. -/
  | qbcast1 (a : BitVec 7) (d : BitVec 7) (g : BitVec 3)
  /-- QBCAST_2, R194: Receivers take A of lane 4q+2 of their quad. -/
  | qbcast2 (a : BitVec 7) (d : BitVec 7) (g : BitVec 3)
  /-- QBCAST_3, R194: Receivers take A of lane 4q+3 of their quad. -/
  | qbcast3 (a : BitVec 7) (d : BitVec 7) (g : BitVec 3)
  /-- XALL, R195: Poll: true in every receiver when every contributor holds true. -/
  | xall (a : BitVec 3) (d : BitVec 3) (g : BitVec 3)
  /-- XANY, R195: Poll: true when some contributor holds true. -/
  | xany (a : BitVec 3) (d : BitVec 3) (g : BitVec 3)
  /-- XSAME, R195: Poll: true when all contributors hold the same value. -/
  | xsame (a : BitVec 3) (d : BitVec 3) (g : BitVec 3)
  /-- XMASK, R195: Write the mask of contributors whose predicate is true. -/
  | xmask (a : BitVec 3) (d : BitVec 7) (g : BitVec 3)
  /-- XEQ, R196: Write each receiver the mask of contributors holding its own value. -/
  | xeq (a : BitVec 7) (d : BitVec 7) (g : BitVec 3)
  /-- XEQALL, R196: Write the mask of all contributors when they hold one value, else 0. -/
  | xeqall (a : BitVec 7) (d : BitVec 7) (g : BitVec 3)
  /-- XCOUNT, R195: Write the count of contributors whose predicate is true. -/
  | xcount (a : BitVec 3) (d : BitVec 7) (g : BitVec 3)
  /-- RDX_ADD, R197: Reduce a v register over contributors by wrapping sum into a g register. -/
  | rdxAdd (a : BitVec 7) (d : BitVec 7) (g : BitVec 3)
  /-- RDX_MIN_I, R197: Signed minimum reduction. -/
  | rdxMinI (a : BitVec 7) (d : BitVec 7) (g : BitVec 3)
  /-- RDX_MAX_I, R197: Signed maximum reduction. -/
  | rdxMaxI (a : BitVec 7) (d : BitVec 7) (g : BitVec 3)
  /-- RDX_MIN_N, R197: Unsigned minimum reduction. -/
  | rdxMinN (a : BitVec 7) (d : BitVec 7) (g : BitVec 3)
  /-- RDX_MAX_N, R197: Unsigned maximum reduction. -/
  | rdxMaxN (a : BitVec 7) (d : BitVec 7) (g : BitVec 3)
  /-- RDX_AND, R197: Bitwise AND reduction. -/
  | rdxAnd (a : BitVec 7) (d : BitVec 7) (g : BitVec 3)
  /-- RDX_OR, R197: Bitwise OR reduction. -/
  | rdxOr (a : BitVec 7) (d : BitVec 7) (g : BitVec 3)
  /-- RDX_XOR, R197: Bitwise XOR reduction. -/
  | rdxXor (a : BitVec 7) (d : BitVec 7) (g : BitVec 3)
  /-- RDX_FADD, R197: Exact FP32 sum of contributors rounded once. -/
  | rdxFadd (a : BitVec 7) (d : BitVec 7) (g : BitVec 3)
  /-- RDX_FMIN, R197: FP32 minimum reduction under R109. -/
  | rdxFmin (a : BitVec 7) (d : BitVec 7) (g : BitVec 3)
  /-- RDX_FMAX, R197: FP32 maximum reduction under R109. -/
  | rdxFmax (a : BitVec 7) (d : BitVec 7) (g : BitVec 3)
  /-- READLANE, R198: Copy lane n of a v register into a g register under a gp guard. -/
  | readlane (n : BitVec 5) (a : BitVec 7) (d : BitVec 7) (g : BitVec 3)
  /-- WRITELANE, R198: Write a g register into lane n of a v register. -/
  | writelane (n : BitVec 5) (a : BitVec 7) (d : BitVec 7) (g : BitVec 3)
  /-- READFIRST, R198: Copy the lowest non-helper exec lane of a v register into a g register. -/
  | readfirst (a : BitVec 7) (d : BitVec 7) (g : BitVec 3)
  /-- LD_X1, R222: Load one element per active lane through a record, after the plumb stage and checks. -/
  | ldX1 (s : BitVec 1) (o : BitVec 6) (i : BitVec 7) (d : BitVec 7) (b : BitVec 3)
  /-- LD_X2, R222: Load two consecutive elements per active lane. -/
  | ldX2 (s : BitVec 1) (o : BitVec 6) (i : BitVec 7) (d : BitVec 7) (b : BitVec 3)
  /-- LD_X4, R222: Load four consecutive elements per active lane. -/
  | ldX4 (s : BitVec 1) (o : BitVec 6) (i : BitVec 7) (d : BitVec 7) (b : BitVec 3)
  /-- ST_X1, R222: Store one element per active lane. -/
  | stX1 (s : BitVec 1) (o : BitVec 6) (i : BitVec 7) (d : BitVec 7) (b : BitVec 3)
  /-- ST_X2, R222: Store two consecutive elements per active lane. -/
  | stX2 (s : BitVec 1) (o : BitVec 6) (i : BitVec 7) (d : BitVec 7) (b : BitVec 3)
  /-- ST_X4, R222: Store four consecutive elements per active lane. -/
  | stX4 (s : BitVec 1) (o : BitVec 6) (i : BitVec 7) (d : BitVec 7) (b : BitVec 3)
  /-- ATOM, R225: Per-lane read-modify-write of the selected op, optionally returning the old value. -/
  | atom (s : BitVec 1) (c : BitVec 1) (r : BitVec 1) (p : BitVec 4) (i : BitVec 7) (d : BitVec 7) (b : BitVec 3)
  /-- RED, R225: Per-lane reduction without return, performed at the home slice. -/
  | red (s : BitVec 1) (c : BitVec 1) (p : BitVec 4) (i : BitVec 7) (d : BitVec 7) (b : BitVec 3)
  /-- RED_DET, R226: Order-independent addition through an exact-sum entry at the home slice. -/
  | redDet (s : BitVec 1) (c : BitVec 1) (p : BitVec 4) (i : BitVec 7) (d : BitVec 7) (b : BitVec 3)
  /-- LDG, R223: Group-wide load of one element into a g register. -/
  | ldg (s : BitVec 1) (o : BitVec 6) (i : BitVec 7) (d : BitVec 7) (b : BitVec 3)
  /-- STG, R223: Group-wide store of one element from a g register. -/
  | stg (s : BitVec 1) (o : BitVec 6) (i : BitVec 7) (d : BitVec 7) (b : BitVec 3)
  /-- ATOMG, R225: Group-wide atomic on one element with g registers. -/
  | atomg (s : BitVec 1) (c : BitVec 1) (r : BitVec 1) (p : BitVec 4) (i : BitVec 7) (d : BitVec 7) (b : BitVec 3)
  /-- LD_ACQ, R229: Load one element per active lane as an acquire at the encoded scope. -/
  | ldAcq (s : BitVec 1) (c : BitVec 3) (i : BitVec 7) (d : BitVec 7) (b : BitVec 3)
  /-- ST_REL, R229: Store one element per active lane as a release at the encoded scope. -/
  | stRel (s : BitVec 1) (c : BitVec 3) (i : BitVec 7) (d : BitVec 7) (b : BitVec 3)
  /-- FENCE_ACQ, R230: Hold later accesses until earlier reads have their values. -/
  | fenceAcq (s : BitVec 1) (c : BitVec 3)
  /-- FENCE_REL, R230: Hold later writes and releases until earlier accesses are visible at the scope. -/
  | fenceRel (s : BitVec 1) (c : BitVec 3)
  /-- FENCE_AR, R230: Acquire-release fence, totally ordered with other fence.ar at its scope. -/
  | fenceAr (s : BitVec 1) (c : BitVec 3)
  /-- ICINV, R231: Discard fetched instruction bytes, the core instruction cache and the verdict cache. -/
  | icinv (s : BitVec 1)
  /-- CINV, R232: Write back and drop lines within a record's reach at L1 or L2 scope. -/
  | cinv (s : BitVec 1) (c : BitVec 3) (b : BitVec 3)
  /-- PREFETCH, R233: Hint request of each active lane's line into L1, L2 or LLC. -/
  | prefetch (s : BitVec 1) (c : BitVec 3) (i : BitVec 7) (b : BitVec 3)
  /-- ST_SPILL, R234: Store a register and its group shadow and pin into a 136-byte spill slot. -/
  | stSpill (s : BitVec 1) (i : BitVec 7) (d : BitVec 7) (b : BitVec 3)
  /-- LD_SPILL, R235: Reload a register from a spill slot, accepting its interval only if every live value fits. -/
  | ldSpill (s : BitVec 1) (i : BitVec 7) (d : BitVec 7) (b : BitVec 3)
  /-- LDREC, R237: Reinstate root record n into a b register. -/
  | ldrec (n : BitVec 3) (d : BitVec 3)
  /-- RSUB, R238: Derive a narrower valid record from a descriptor in g registers, or trap. -/
  | rsub (n : BitVec 6) (s : BitVec 3) (d : BitVec 3)
  /-- RDREC, R239: Read a record's four words into g registers. -/
  | rdrec (s : BitVec 3) (d : BitVec 7)
  /-- IWIDEN, R240: Widen a register's shadow to include [lo, hi] and pin it. -/
  | iwiden (n : BitVec 7) (x : BitVec 7) (s : BitVec 1)
  /-- IUNPIN, R241: Clear a register's pin, keeping its shadow. -/
  | iunpin (x : BitVec 7) (s : BitVec 1)
  /-- ISHADOW, R242: Read a register's view, pin and narrowing status into g registers. -/
  | ishadow (x : BitVec 7) (d : BitVec 7) (s : BitVec 1)
  /-- ITOP, R241: Clear a register's pin and set its shadow to TOP. -/
  | itop (x : BitVec 7) (s : BitVec 1)
  /-- ICHK, R243: Check a register against a record's extent, trapping or narrowing its shadow. -/
  | ichk (x : BitVec 7) (b : BitVec 3) (s : BitVec 1)
  /-- BRC_V, R200: Conditional branch on a vector predicate that may split the fragment and refine shadows. -/
  | brcV (d : BitVec 8) (t : BitVec 12) (p : BitVec 3)
  /-- BRC_G, R200: Uniform branch on a group predicate refining group shadows. -/
  | brcG (t : BitVec 12) (p : BitVec 3)
  /-- BRA, R201: Unconditional PC-relative jump of the whole fragment. -/
  | bra (o : BitVec 23)
  /-- CALL, R201: PC-relative call writing lk in each exec lane. -/
  | call (o : BitVec 23)
  /-- RET, R204: Return each exec lane to its lk, splitting by distinct targets. -/
  | ret
  /-- CALLI, R203: Indirect call splitting per target, checking each callee's budget word. -/
  | calli (a : BitVec 7)
  /-- EXIT, R205: End guarded exec lanes, turning them into helper lanes where their quad lives. -/
  | exit (g : BitVec 3)
  /-- YIELD, R206: Hint that the quadrant prefer another fragment next clock. -/
  | yield
  /-- BRK, R207: Raise the breakpoint trap with a code. -/
  | brk (c : BitVec 7)
  /-- TRAP, R207: Raise the software trap when any exec lane's guard is true. -/
  | trap (c : BitVec 7) (g : BitVec 3)
  /-- SETFMT, R208: Write the running fragment's fmt. -/
  | setfmt (a : BitVec 7)
  /-- GETFMT, R208: Read the running fragment's fmt into a g register. -/
  | getfmt (d : BitVec 7)
  /-- SETEXEC, R22: Write exec as the value ANDed with the member mask. -/
  | setexec (a : BitVec 7)
  /-- GETEXEC, R208: Read exec into a g register. -/
  | getexec (d : BitVec 7)
  /-- BAR_SYNC, R209: Arrive at a block barrier and wait for its phase to complete. -/
  | barSync (i : BitVec 7) (n : BitVec 7)
  /-- BAR_ARRIVE, R209: Arrive at a block barrier and continue. -/
  | barArrive (i : BitVec 7) (n : BitVec 7)
  /-- CBAR_SYNC, R210: Arrive at the cluster barrier in the L2 and wait. -/
  | cbarSync
  /-- KGET, R214: Read a block register with a two-clock delay. -/
  | kget (k : BitVec 4) (d : BitVec 7)
  /-- KSET, R214: Write a block register. -/
  | kset (k : BitVec 4) (s : BitVec 7)
  /-- KADD, R214: Atomically add to a block register returning its prior value. -/
  | kadd (k : BitVec 4) (d : BitVec 7)
  /-- KCAS, R214: Compare-and-swap a block register returning its prior value. -/
  | kcas (k : BitVec 4) (d : BitVec 7)
  /-- MBAR_INIT, R213: Initialise an mbar word with phase 0 and its expected count. -/
  | mbarInit (s : BitVec 1) (i : BitVec 7) (d : BitVec 7) (b : BitVec 3)
  /-- MBAR_ARRIVE, R213: Decrement an mbar's remaining count, flipping its phase at the last arrival. -/
  | mbarArrive (s : BitVec 1) (i : BitVec 7) (d : BitVec 7) (b : BitVec 3)
  /-- MBAR_WAIT, R213: Continue if the mbar's phase differs from the given parity, else wait. -/
  | mbarWait (s : BitVec 1) (i : BitVec 7) (d : BitVec 7) (b : BitVec 3)
  /-- MBAR_TEST, R213: Write whether the mbar's phase differs from the given parity. -/
  | mbarTest (s : BitVec 1) (i : BitVec 7) (d : BitVec 7) (b : BitVec 3)
  /-- GANG, R248: Write the gang register. -/
  | gang (a : BitVec 7)
  /-- MMA, R254: Check operands and arrive at a keystone for a float matrix multiply-accumulate. -/
  | mma (s : BitVec 1) (m : BitVec 5) (b : BitVec 3) (c : BitVec 4) (v : BitVec 7)
  /-- TMMA, R254: Check operands and arrive at a keystone for an INT8 by ternary multiply-accumulate. -/
  | tmma (s : BitVec 1) (m : BitVec 5) (b : BitVec 3) (c : BitVec 4) (v : BitVec 7)
  /-- MZERO, R260: Zero a tile and clear its status word. -/
  | mzero (s : BitVec 1) (m : BitVec 5)
  /-- MLD, R262: Load a scaled 32x64 block of a scratchpad tile into an accumulator tile. -/
  | mld (s : BitVec 1) (m : BitVec 5) (b : BitVec 3) (c : BitVec 5) (t : BitVec 1)
  /-- MST, R263: Store or add a scaled accumulator tile into a scratchpad tile, optionally row-indexed. -/
  | mst (s : BitVec 1) (m : BitVec 5) (b : BitVec 3) (c : BitVec 5) (a : BitVec 1) (i : BitVec 6)
  /-- MRD, R264: Read eight tile columns into v registers. -/
  | mrd (s : BitVec 1) (m : BitVec 5) (d : BitVec 7) (q : BitVec 3)
  /-- MRD_ST, R264: Read a tile's status word into a g register. -/
  | mrdSt (s : BitVec 1) (m : BitVec 5) (d : BitVec 7)
  /-- MWR, R265: Write eight tile columns from v registers. -/
  | mwr (s : BitVec 1) (m : BitVec 5) (v : BitVec 7) (q : BitVec 3)
  /-- COPY, R272: Check and issue a tensor copy, entering its range locks. -/
  | copy (s : BitVec 1) (c : BitVec 7) (g : BitVec 3)
  /-- CSTEP, R286: Raise the block's stage counter, releasing schedule stages. -/
  | cstep (s : BitVec 1) (a : BitVec 7) (g : BitVec 3)
  /-- CWAIT, R281: Continue if a counter reaches a target, else wait for it. -/
  | cwait (s : BitVec 1) (c : BitVec 7) (g : BitVec 3)
  /-- CTEST, R282: Write a group predicate with whether a counter reached its target. -/
  | ctest (s : BitVec 1) (c : BitVec 7) (p : BitVec 3)
  /-- CADD, R283: Add a 64-bit value to a counter as a read-modify-write. -/
  | cadd (s : BitVec 1) (c : BitVec 7)
  /-- SPAWN, R294: Form a frame of one record per active lane, increment the join counter and push it. -/
  | spawn (s : BitVec 1) (c : BitVec 7) (v : BitVec 7) (g : BitVec 3)
  /-- JOIN, R300: Continue if the join counter is zero, else park as its single waiter. -/
  | join (s : BitVec 1) (c : BitVec 7) (g : BitVec 3)
  /-- EXIT_J, R299: Decrement each active lane's join counter as a release, then end the lanes. -/
  | exitJ (s : BitVec 1)
  /-- RINV, R302: Send one beacon per active lane, reporting acceptance in a predicate. -/
  | rinv (s : BitVec 1) (n : BitVec 7) (v : BitVec 7) (p : BitVec 3)
  /-- RINV_T, R302: Send beacons and trap if any is refused. -/
  | rinvT (s : BitVec 1) (n : BitVec 7) (v : BitVec 7) (p : BitVec 3)
  /-- ARM, R306: Check and arm a cairn over a region at its home slice. -/
  | arm (s : BitVec 1) (c : BitVec 7) (d : BitVec 7)
  /-- DISARM, R311: Free a cairn named by its handle. -/
  | disarm (s : BitVec 1) (h : BitVec 7) (d : BitVec 7)
  /-- POST, R295: Place one task record per active lane into the node's bin. -/
  | post (s : BitVec 1) (c : BitVec 7) (v : BitVec 7) (g : BitVec 3)
  /-- LIT, R153: Join a 24-bit payload to the following instruction's immediate as one instruction. -/
  | lit (p : BitVec 24)
  /-- RTE_FIX, R347: End the handler and replay or re-issue under the fix disposition. -/
  | rteFix
  /-- RTE_SKIP, R347: End the handler and continue past the trapping instruction. -/
  | rteSkip
  /-- RTE_RETRY, R347: End the handler with retry, executed as fix. -/
  | rteRetry
  /-- RTE_KILL, R348: End every group of the block and abort its copies. -/
  | rteKill
  /-- SREAD, R340: Read a system register into a g register. -/
  | sread (n : BitVec 7) (d : BitVec 7) (h : BitVec 3)
  /-- SWRITE, R340: Write a system register, effective 64 clocks later. -/
  | swrite (n : BitVec 7) (s : BitVec 7) (h : BitVec 3)
  /-- SAVE_GROUP, R351: Wait for the group to drain, then write its group image. -/
  | saveGroup (i : BitVec 7) (b : BitVec 3)
  /-- SAVE_BLOCK, R352: Wait for all group saves and copies, then write the block image. -/
  | saveBlock (i : BitVec 7) (b : BitVec 3)
  /-- RESTORE_GROUP, R353: Load a group image into the user state without check. -/
  | restoreGroup (i : BitVec 7) (b : BitVec 3)
  /-- RESTORE_BLOCK, R353: Load the block image, reinstating saved copies without range locks. -/
  | restoreBlock (i : BitVec 7) (b : BitVec 3)
  /-- PGREF_READ, R355: Read a frame's reference count. -/
  | pgrefRead (a : BitVec 7) (d : BitVec 7)
  /-- PGREF_INC, R355: Atomically increment a frame's reference count, saturating. -/
  | pgrefInc (a : BitVec 7) (d : BitVec 7)
  /-- PGREF_DEC, R355: Atomically decrement a frame's count, freeing it at zero. -/
  | pgrefDec (a : BitVec 7) (d : BitVec 7)
  /-- CRESUME, R356: Withdraw a suspended copy's trap, relock and resume it at its watermark. -/
  | cresume (a : BitVec 7) (d : BitVec 7)
  /-- NOP32, R154: No operation, read as a budget word at a calli target. -/
  | nop32 (x : BitVec 24)
  /-- CLAUSE_HEADER, R155: Begin a clause, holding issue until its wait-mask flags are zero and setting its flag slots. -/
  | clauseHeader (s : BitVec 1) (y : BitVec 1) (b : BitVec 4) (a : BitVec 4) (w : BitVec 12)
  /-- MOV_16, R191: 16-bit move of s2 into d. -/
  | mov16 (s : BitVec 5) (d : BitVec 6)
  /-- ADD_16, R152: 16-bit d = d + s2. -/
  | add16 (s : BitVec 5) (d : BitVec 6)
  /-- SUB_16, R152: 16-bit d = d - s2. -/
  | sub16 (s : BitVec 5) (d : BitVec 6)
  /-- ADDI_16, R152: 16-bit add of a signed 5-bit immediate. -/
  | addi16 (i : BitVec 5) (d : BitVec 6)
  /-- AND_16, R152: 16-bit AND. -/
  | and16 (s : BitVec 5) (d : BitVec 6)
  /-- OR_16, R152: 16-bit OR. -/
  | or16 (s : BitVec 5) (d : BitVec 6)
  /-- XOR_16, R152: 16-bit XOR. -/
  | xor16 (s : BitVec 5) (d : BitVec 6)
  /-- SHLI_16, R152: 16-bit left shift by an immediate. -/
  | shli16 (i : BitVec 5) (d : BitVec 6)
  /-- SHRI_16, R152: 16-bit logical right shift by an immediate. -/
  | shri16 (i : BitVec 5) (d : BitVec 6)
  /-- SARI_16, R152: 16-bit arithmetic right shift by an immediate. -/
  | sari16 (i : BitVec 5) (d : BitVec 6)
  /-- MIN_I_16, R152: 16-bit signed minimum. -/
  | minI16 (s : BitVec 5) (d : BitVec 6)
  /-- MAX_I_16, R152: 16-bit signed maximum. -/
  | maxI16 (s : BitVec 5) (d : BitVec 6)
  /-- FADD_16, R152: 16-bit FP32 sum. -/
  | fadd16 (s : BitVec 5) (d : BitVec 6)
  /-- FSUB_16, R152: 16-bit FP32 difference. -/
  | fsub16 (s : BitVec 5) (d : BitVec 6)
  /-- FMUL_16, R152: 16-bit FP32 product. -/
  | fmul16 (s : BitVec 5) (d : BitVec 6)
  /-- FMAX_16, R152: 16-bit FP32 maximum. -/
  | fmax16 (s : BitVec 5) (d : BitVec 6)
  /-- GROUP_START, R12: A launch group begins at its entry point with its initial state after placement and scratchpad zeroing. -/
  | groupStart (k : Nat)
  /-- TASK_GROUP_START, R292: A task group begins with its records in lanes, after an acquire at its creator's scope. -/
  | taskGroupStart (k : Nat)
  /-- RESUME_START, R387: A saved block's groups start at shvec with the pre-emption trap, cause 3. -/
  | resumeStart (k : Nat)
  /-- FRAGMENT_PROCEED, R19: A waiting fragment proceeds past its reconvergence address without fusing. -/
  | fragmentProceed (k e : Nat)
  /-- FRAGMENT_ROTATION, R21: Every 2,048 clocks a spilled fragment is exchanged with a table fragment. -/
  | fragmentRotation (k : Nat)
  /-- GROUP_END, R32: A group with no live lane ends once its issued instructions complete, freeing its allocation. -/
  | groupEnd (k : Nat)
  /-- LAUNCH_END, R374: After a launch's last cluster and system-scope visibility, write status, add the counter and signal. -/
  | launchEnd (l : Nat)
  /-- LOAD_COMPLETION, R161: A load's values and shadow are written, its pending bits clear and its flag falls. -/
  | loadCompletion (id : Nat)
  /-- STORE_COMPLETION, R161: A store's bytes are translated and accepted, and its flag falls. -/
  | storeCompletion (id : Nat)
  /-- ATOMIC_COMPLETION, R225: A returning atomic's old values are written and its flag falls. -/
  | atomicCompletion (id : Nat)
  /-- REDUCTION_COMPLETION, R226: Every operation of a reduction or non-returning atomic is accepted at its home slice. -/
  | reductionCompletion (id : Nat)
  /-- FENCE_COMPLETION, R230: A fence's ordering has been performed. -/
  | fenceCompletion (id : Nat)
  /-- CINV_COMPLETION, R232: A cache invalidation has been performed. -/
  | cinvCompletion (id : Nat)
  /-- MATRIX_COMPLETION, R247: A member's mma or tmma destination tile is written whole and freed from busy. -/
  | matrixCompletion (id : Nat)
  /-- TILE_OP_COMPLETION, R247: An mzero, mld, mst, mrd or mwr reaches its completion point. -/
  | tileOpCompletion (id : Nat)
  /-- KEYSTONE_JOINT_ISSUE, R250: All members have arrived, signatures match and the array and a range-lock entry are free. -/
  | keystoneJointIssue (core n : Nat)
  /-- B_STREAM_END, R257: The last B byte is read and the matrix range-lock entry is removed. -/
  | bStreamEnd (id : Nat)
  /-- COPY_COMPLETION, R273: A copy's bytes are visible, N is added to its counter and its locks and flag clear. -/
  | copyCompletion (block n : Nat)
  /-- COPY_SUSPEND, R275: A copy meets a failing page and suspends at its watermark with a pending trap. -/
  | copySuspend (block n : Nat)
  /-- COPY_ABORT, R277: A poisoned or double-bit source byte aborts the copy with the copy-error trap. -/
  | copyAbort (block n : Nat)
  /-- STAGE_ISSUE, R285: The engine issues a released schedule stage as a copy. -/
  | stageIssue (block n : Nat)
  /-- CADD_COMPLETION, R283: A cadd's counter update is performed. -/
  | caddCompletion (id : Nat)
  /-- SPAWN_COMPLETION, R294: A spawn's frame is pushed and its join count added, or the task trap is raised. -/
  | spawnCompletion (id : Nat)
  /-- POST_COMPLETION, R295: A post's records are placed in the bin, or the task trap is raised. -/
  | postCompletion (id : Nat)
  /-- BIN_TIMER_EXPIRY, R289: A bin's timer expires and the bin becomes ready. -/
  | binTimerExpiry (die part node : Nat)
  /-- RING_DRAIN, R289: The home die moves records from a node's ring into its bin as room appears. -/
  | ringDrain (part node : Nat)
  /-- QUARRY_TAKE, R296: A core takes its newest frame when it can place it, or a continuation frame at once. -/
  | quarryTake (core : Nat)
  /-- STEAL_REQUEST, R297: An idle core asks its distributor for a victim and the chosen frame is marked in transit. -/
  | stealRequest (core : Nat)
  /-- STEAL_ARRIVAL, R298: A stolen frame reaches the thief, is freed at the victim and its group placed. -/
  | stealArrival (core : Nat)
  /-- BEACON_COMPLETION, R305: Every beacon of rinv or rinv.t is accepted or refused; predicate, flag and trap follow. -/
  | beaconCompletion (id : Nat)
  /-- ARM_COMPLETION, R307: The home slice acknowledges arm, writing the handle or raising cairn-full. -/
  | armCompletion (id : Nat)
  /-- DISARM_COMPLETION, R311: The home slice acknowledges disarm. -/
  | disarmCompletion (id : Nat)
  /-- ARRIVAL_NOTE, R308: A slice's forwarded byte count reaches the cairn's home slice. -/
  | arrivalNote (slice handle : Nat)
  /-- CAIRN_POST_RETRY, R309: A post action that found the ring full is retried every 256 LLC clocks. -/
  | cairnPostRetry (handle : Nat)
  /-- TRAP_ENTRY, R341: A trap is taken: record written, registers banked, handler entered at shvec. -/
  | trapEntry (k e : Nat)
  /-- WATCHDOG_EXPIRY, R364: A block idle with every fragment waiting for the watchdog period takes trap 0x15. -/
  | watchdogExpiry (block : Nat)
  /-- PLACEMENT_ATTEMPT, R381: A distributor serves the first item of its waiting list and chooses cores. -/
  | placementAttempt (die : Nat)
  /-- CLUSTER_COMMIT, R382: Eight clocks after the last reservation the cluster's blocks become resident together. -/
  | clusterCommit (die : Nat)
  /-- TIME_SLICE_EXPIRY, R386: A shared core pair's slice ends and the holder's blocks are pre-empted. -/
  | timeSliceExpiry (pair : Nat)
  /-- REMOTE_READ, R447: A remote sector read packet arrives and is served or forwarded. -/
  | remoteRead (n : Nat)
  /-- REMOTE_WRITE, R447: A remote sector write packet arrives and is accepted at its home slice. -/
  | remoteWrite (n : Nat)
  /-- REMOTE_ATOMIC, R447: A remote atomic packet arrives and is performed at its home slice. -/
  | remoteAtomic (n : Nat)
  /-- REMOTE_REDUCTION, R447: A remote red or red.det packet arrives and is performed. -/
  | remoteReduction (n : Nat)
  /-- BEACON, R303: A beacon packet arrives and each record is accepted into a bin or ring, or refused. -/
  | beacon (n : Nat)
  /-- REFUSAL, R447: A refusal packet reaches the sender. -/
  | refusal (n : Nat)
  /-- READ_RESPONSE, R447: A read response packet returns sector data to the requester. -/
  | readResponse (n : Nat)
  /-- ACKNOWLEDGEMENT, R449: An acknowledgement packet reports accepted writes, reductions or beacons. -/
  | acknowledgement (n : Nat)
  /-- ATOMIC_RESPONSE, R447: An atomic response packet returns the old value. -/
  | atomicResponse (n : Nat)
  /-- RESERVED_PACKET, R447: A packet of reserved type is dropped and counted. -/
  | reservedPacket (n : Nat)
  /-- LINK_NAK_REPLAY, R445: A nak makes the sender replay flits from the one after ack. -/
  | linkNakReplay (port ack : Nat)
  /-- LINK_TRAINING_DONE, R446: Training exchanges device numbers and the port goes up. -/
  | linkTrainingDone (port peer : Nat)
  /-- LINK_TRAINING_FAIL, R446: No device answers within 50 µs and the port goes down. -/
  | linkTrainingFail (port : Nat)
  /-- PORT_ENABLE, R446: Writing mport enable starts training. -/
  | portEnable (port : Nat)
  /-- PORT_RETRAIN, R446: Writing mport retrain trains a down port again. -/
  | portRetrain (port : Nat)
  /-- PORT_DISABLE, R446: Clearing enable takes the port down once sent flits are acknowledged. -/
  | portDisable (port : Nat)
  /-- MROUTE_WRITE, R448: A route entry write takes effect after earlier packets to that destination are answered. -/
  | mrouteWrite (j : Nat) (v : Word)
  /-- DIRECTORY_WRITE_CONFLICT, R429: A write to a shared line splits its region entry and sends invalidations. -/
  | directoryWriteConflict (dir line writer : Nat)
  /-- INVALIDATION_ANSWER, R429: An invalidated or already-evicted answer is counted, granting the write at the last. -/
  | invalidationAnswer (dir line holder : Nat)
  /-- EVICTION_NOTICE, R429: An L1 dropping a clean line notifies the directory. -/
  | evictionNotice (dir line holder : Nat)
  /-- REGION_MERGE, R430: Two quiet sibling entries merge after 65,536 L2 clocks. -/
  | regionMerge (dir base size : Nat)
  /-- ACTIVATION_ALERT, R421: A stack's activation-count alert holds the bank and issues refresh management. -/
  | activationAlert (bank : Nat)
  /-- PER_BANK_REFRESH, R421: A bank's per-bank refresh falls due. -/
  | perBankRefresh (bank : Nat)
  /-- MIGRATION_DOORBELL, R407: A write to the migration ring tail starts consumption of commands. -/
  | migrationDoorbell (part : Nat)
  /-- MIGRATION_COPY_DONE, R409: A migration's transfer finishes; the new PTE, counts, status and counter are written. -/
  | migrationCopyDone (n : Nat)
  /-- MIGRATION_ABORT, R410: A failed transfer restores the old PTE and writes status 2. -/
  | migrationAbort (n : Nat)
  /-- DOMAIN_DRAIN, R434: Writing sdctl drain starts writing back and dropping the domain's lines. -/
  | domainDrain (part d : Nat)
  /-- DOMAIN_DRAIN_DONE, R434: The drain finishes and busy clears. -/
  | domainDrainDone (part d : Nat)
  /-- DOMAIN_COMMIT, R435: Writing sdctl commit checks the staged descriptors and starts moving lines. -/
  | domainCommit (part d : Nat)
  /-- DOMAIN_COMMIT_DONE, R436: Moving lines are written back, staged copies become active and refused requests replay. -/
  | domainCommitDone (part d : Nat)
  /-- SQ_TAIL_WRITE, R368: The host's tail write exposes new entries or halts the queue on overrun. -/
  | sqTailWrite (q : Nat) (v : Word)
  /-- QUEUE_ENTRY_NOP, R369: A no-operation entry is consumed with no effect. -/
  | queueEntryNop (q : Nat)
  /-- QUEUE_ENTRY_LAUNCH, R370: A launch entry is consumed, its record read and its clusters queued, or it is refused. -/
  | queueEntryLaunch (q : Nat)
  /-- QUEUE_ENTRY_TASK, R378: A task entry places its record in the node's bin on its home die. -/
  | queueEntryTask (q : Nat)
  /-- QUEUE_ENTRY_CAIRN_ARM, R379: A cairn-arming entry arms a cairn and writes its result word. -/
  | queueEntryCairnArm (q : Nat)
  /-- QUEUE_ENTRY_CAIRN_DISARM, R379: A disarming entry frees a cairn and writes the result. -/
  | queueEntryCairnDisarm (q : Nat)
  /-- TASK_ENTRY_RETRY, R371: A task entry facing a full ring is retried every 256 LLC clocks. -/
  | taskEntryRetry (q : Nat)
  /-- SQ_RESUME, R371: Writing sqctl resume clears sqerr and passes over or retries the refused entry. -/
  | sqResume (q : Nat) (v : Word)
  /-- HOST_PREEMPTION_REQUEST, R441: A write to spreqh pre-empts every resident block of the named launch. -/
  | hostPreemptionRequest (part : Nat) (v : Word)
  /-- PARTITION_CONFIGURE, R443: mpstate write 1 takes an absent partition to configuring. -/
  | partitionConfigure (p : Nat)
  /-- PARTITION_ABANDON, R443: mpstate write 0 returns a configuring partition to absent. -/
  | partitionAbandon (p : Nat)
  /-- PARTITION_ACTIVATE, R443: mpstate write 2 activates a configured partition with a unique key. -/
  | partitionActivate (p : Nat)
  /-- PARTITION_DRAIN, R443: mpstate write 3 kills the partition's blocks and discards its work. -/
  | partitionDrain (p : Nat)
  /-- PARTITION_DRAINED, R443: Once every block has ended and packets are answered the partition becomes absent. -/
  | partitionDrained (p : Nat)
  /-- FRAME_OWNERSHIP_GO, R442: mfctl go writes frame ownership, scrubbing first when asked. -/
  | frameOwnershipGo (v : Word)
  /-- FRAME_SCRUB_DONE, R442: The scrub of the named frames finishes and busy clears. -/
  | frameScrubDone
  /-- HOST_WRITE, R142: A host write arrives through a host port and becomes visible at device scope. -/
  | hostWrite (port addr : Nat) (data : List (BitVec 8))
  /-- HOST_READ, R424: A host read of device memory arrives and is served. -/
  | hostRead (port addr len : Nat)
  /-- MODULE_RESET, R452: Power-on or PERST# runs the reset steps in order. -/
  | moduleReset
  /-- RECOVERY_GO_IMAGE, R455: mrec go with kind 0 verifies a firmware image, writes a slot and resets. -/
  | recoveryGoImage
  /-- RECOVERY_GO_RECORD, R457: mrec go with kind 1 verifies a configuration record, writes a slot and resets. -/
  | recoveryGoRecord
  /-- RECOVERY_GO_TOKEN, R456: mrec go with kind 2 verifies a reprovisioning token and rewrites the stored minimum. -/
  | recoveryGoToken
  /-- RECOVERY_ENTER, R455: mrec bit 31 resets the module into recovery. -/
  | recoveryEnter
  /-- GOVERNOR_SAMPLE, R461: Every 10 µs the governor measures power and adjusts island clocks. -/
  | governorSample (island mhz : Nat) (cause : BitVec 3)
  /-- THERMAL_THROTTLE, R462: A sensor at 105 °C lowers its island's clock until it reads 100 °C. -/
  | thermalThrottle (island temp : Nat)
  /-- THERMAL_SHUTDOWN, R462: A sensor at 115 °C stops every clock and asserts the fault pin. -/
  | thermalShutdown (island temp : Nat)
  /-- GET_VERSION, R458: SPDM request for supported versions. -/
  | getVersion (req : List (BitVec 8))
  /-- GET_CAPABILITIES, R458: SPDM request for capabilities. -/
  | getCapabilities (req : List (BitVec 8))
  /-- NEGOTIATE_ALGORITHMS, R458: SPDM algorithm negotiation. -/
  | negotiateAlgorithms (req : List (BitVec 8))
  /-- GET_DIGESTS, R458: SPDM request for certificate digests. -/
  | getDigests (req : List (BitVec 8))
  /-- GET_CERTIFICATE, R458: SPDM request for the identity certificate. -/
  | getCertificate (req : List (BitVec 8))
  /-- CHALLENGE, R458: SPDM challenge signed with the identity key. -/
  | challenge (req : List (BitVec 8))
  /-- GET_MEASUREMENTS, R458: SPDM request for the four measurements. -/
  | getMeasurements (req : List (BitVec 8))
  /-- KEY_EXCHANGE, R458: SPDM ML-KEM-768 key exchange opening a session. -/
  | keyExchange (req : List (BitVec 8))
  /-- FINISH, R458: SPDM session finish. -/
  | finish (req : List (BitVec 8))
  /-- END_SESSION, R458: SPDM session end. -/
  | endSession (req : List (BitVec 8))
  /-- IDE_KM, R458: IDE key programming within an SPDM session. -/
  | ideKm (stream : Nat) (data : List (BitVec 8))
  /-- REGISTER_WRITE, R340: A write to any register without behaviour of its own. -/
  | registerWrite (window offset : Nat) (v : Word)
  /-- FLIT, R445: A 128-byte flit arrives at a link receiver and is accepted in sequence or discarded with a nak, and its ack and credit fields are taken. -/
  | flit (port : Nat) (bytes : List (BitVec 8))
  /-- HOST_SNOOP, R424: A host CXL.cache snoop of a line held modified at a slice is answered with the rounded exact sum, which closes the entry. -/
  | hostSnoop (line : Nat)
  /-- SAVE_RESTORE_COMPLETION, R350: A save or restore finishes moving its image at 512 bytes per clock, which lets a waiting rte proceed or frees the core's block resources. -/
  | saveRestoreCompletion (id : Nat)
  /-- RESERVED_ENCODING, R162: A fragment issues a word with a reserved major or an unassigned minor and raises the illegal-encoding trap before any effect. -/
  | reservedEncoding (w : BitVec 32)
  deriving DecidableEq, Repr

end Sys2Proof
end

