-- ==== Sys2Proof/WellFormed.lean ====
section
/-!
DEFINITION. Which instructions are well formed: the field checks of R165 step 3 that look at the word alone (R35, R100, R149,
R150, R163, R202, R224, R228, R236, R246, R266, R349), and which 32-bit words no row of the opcode table describes (R162, R164).
-/
namespace Sys2Proof
namespace WellFormed

/-- A vector destination names v0–v95 (R35). -/
def vd (f : BitVec 7) : Bool := f.toNat ≤ 95
/-- A group-wide destination names g0–g63 (R35). -/
def gd (f : BitVec 7) : Bool := f.toNat ≤ 63
/-- A group-wide source names g0–g63 or zero (R35). -/
def gs (f : BitVec 7) : Bool := f.toNat ≤ 63 || f.toNat == 127
/-- An even number (R100). -/
def even {n : Nat} (f : BitVec n) : Bool := f.toNat % 2 == 0
/-- A vector pair destination (R100). -/
def vdp (f : BitVec 7) : Bool := even f && vd f
/-- A vector pair source: an even v, a broadcast pair, or zero (R100). -/
def vsp (f : BitVec 7) : Bool := even f || f.toNat == 127
/-- A group-wide pair destination (R100). -/
def gdp (f : BitVec 7) : Bool := even f && gd f
/-- A group-wide pair source (R100). -/
def gsp (f : BitVec 7) : Bool := gdp f || f.toNat == 127
/-- A number up to a bound (R202, R293, R302). -/
def upTo {n : Nat} (k : Nat) (f : BitVec n) : Bool := f.toNat ≤ k
/-- A block of four g registers (R236, R280). -/
def g4 (f : BitVec 7) : Bool := f.toNat % 4 == 0 && gd f
/-- A multiple of four in a six-bit field (R236). -/
def mult4 (f : BitVec 6) : Bool := f.toNat % 4 == 0
/-- A block of eight g registers (R266). -/
def g8 (f : BitVec 7) : Bool := f.toNat % 8 == 0 && gd f
/-- The condition codes of cmp and cmpi (R163). -/
def cond (c : BitVec 4) : Bool := c.toNat ≤ 9
/-- The condition codes of fcmp (R163). -/
def fcond (c : BitVec 4) : Bool := c.toNat ≤ 7
/-- The scopes of the MS format (R150). -/
def scope (c : BitVec 3) : Bool := c.toNat ≤ 4
/-- The operations of atom and atomg (R224). -/
def atomOp (p : BitVec 4) : Bool := p != 15
/-- The operations of red (R224). -/
def redOp (p : BitVec 4) : Bool := p != 8 && p != 9 && p != 15
/-- The operations of red.det (R224). -/
def detOp (p : BitVec 4) : Bool := p == 0 || p == 10 || p == 11 || p == 12
/-- A register whose shadow is written (R236). -/
def shReg (x : BitVec 7) (s : BitVec 1) : Bool := if s == 0 then vd x else gd x
/-- A register whose shadow is read (R236). -/
def shSrc (x : BitVec 7) (s : BitVec 1) : Bool := s == 0 || gd x
/-- A set field of a clause header (R155). -/
def setField (f : BitVec 4) : Bool := f.toNat ≤ 11 || f == 15

/-! Mask and match of the opcode table's 32-bit rows. -/
/-- Rows of the opcode table, part 0. -/
def rows0 : List (Nat × Nat) := [
  (0x000000FF, 0x00000001), (0x000000FF, 0x00000081), (0x000000FF, 0x00000003), (0x000000FF, 0x00000083),
  (0x000000FF, 0x00000005), (0x000000FF, 0x00000085), (0x000000FF, 0x00000007), (0x000000FF, 0x00000087),
  (0x000000FF, 0x00000009), (0x000000FF, 0x00000089), (0x000000FF, 0x0000000B), (0x000000FF, 0x0000008B),
  (0x000000FF, 0x0000000D), (0x000000FF, 0x0000008D), (0x000000FF, 0x0000000F), (0x000000FF, 0x0000008F),
  (0x000000FF, 0x00000011), (0x000000FF, 0x00000091), (0x000000FF, 0x00000013), (0x000000FF, 0x00000093),
  (0x000000FF, 0x00000015), (0x000000FF, 0x00000095), (0x000000FF, 0x00000017), (0x000000FF, 0x00000097),
  (0x000000FF, 0x00000019), (0x000000FF, 0x00000099), (0x000000FF, 0x0000001B), (0x000000FF, 0x0000009B),
  (0x000000FF, 0x0000001D), (0x000000FF, 0x0000009D), (0x000000FF, 0x0000001F), (0x000000FF, 0x0000009F),
  (0x000000FF, 0x00000021), (0x000000FF, 0x000000A1), (0x000000FF, 0x00000023), (0x000000FF, 0x000000A3),
  (0x000000FF, 0x00000025), (0x000000FF, 0x000000A5), (0x000000FF, 0x00000027), (0x000000FF, 0x000000A7),
  (0x000000FF, 0x00000029), (0x000000FF, 0x000000A9), (0x000000FF, 0x0000002B), (0x000000FF, 0x000000AB),
  (0x000000FF, 0x0000002D), (0x000000FF, 0x000000AD), (0x000000FF, 0x0000002F), (0x000000FF, 0x000000AF)]
/-- Rows of the opcode table, part 1. -/
def rows1 : List (Nat × Nat) := [
  (0x000000FF, 0x00000031), (0x000000FF, 0x000000B1), (0x000000FF, 0x00000033), (0x000000FF, 0x000000B3),
  (0x000000FF, 0x00000035), (0x000000FF, 0x000000B5), (0x000000FF, 0x00000037), (0x000000FF, 0x000000B7),
  (0x000000FF, 0x00000039), (0x000000FF, 0x000000B9), (0x000000FF, 0x0000003B), (0x000000FF, 0x000000BB),
  (0xFE0000FF, 0x0000003D), (0xFE0000FF, 0x000000BD), (0xFE0000FF, 0x0200003D), (0xFE0000FF, 0x020000BD),
  (0xFE0000FF, 0x0400003D), (0xFE0000FF, 0x040000BD), (0xFE0000FF, 0x0600003D), (0xFE0000FF, 0x060000BD),
  (0xFE0000FF, 0x0800003D), (0xFE0000FF, 0x080000BD), (0xFE0000FF, 0x0A00003D), (0xFE0000FF, 0x0A0000BD),
  (0xFE0000FF, 0x0C00003D), (0xFE0000FF, 0x0C0000BD), (0xFE0000FF, 0x1000003D), (0xFE0000FF, 0x100000BD),
  (0xFE0000FF, 0x1200003D), (0xFE0000FF, 0x120000BD), (0xFE0000FF, 0x1400003D), (0xFE0000FF, 0x140000BD),
  (0xFE0000FF, 0x1600003D), (0xFE0000FF, 0x160000BD), (0xFE0000FF, 0x1800003D), (0xFE0000FF, 0x180000BD),
  (0xFE0000FF, 0x1A00003D), (0xFE0000FF, 0x1A0000BD), (0xFE0000FF, 0x1C00003D), (0xFE0000FF, 0x1C0000BD),
  (0xFE0000FF, 0x1E00003D), (0xFE0000FF, 0x1E0000BD), (0xFFE3C0FF, 0x0000003F), (0xFFE3C0FF, 0x000000BF),
  (0xFFE3C0FF, 0x0200003F), (0xFFE3C0FF, 0x020000BF), (0xFFE3C0FF, 0x0400003F), (0xFFE3C0FF, 0x040000BF)]
/-- Rows of the opcode table, part 2. -/
def rows2 : List (Nat × Nat) := [
  (0xFFE3C0FF, 0x0600003F), (0xFFE3C0FF, 0x060000BF), (0xFFE3C0FF, 0x0800003F), (0xFFE3C0FF, 0x080000BF),
  (0xFFE3C0FF, 0x0A00003F), (0xFFE3C0FF, 0x0A0000BF), (0xFE03C0FF, 0x0C00003F), (0xFE03C0FF, 0x0C0000BF),
  (0x000000FF, 0x00000041), (0x000000FF, 0x000000C1), (0x000000FF, 0x00000043), (0x000000FF, 0x000000C3),
  (0x000000FF, 0x00000045), (0x000000FF, 0x000000C5), (0x000000FF, 0x00000047), (0x000000FF, 0x000000C7),
  (0x000000FF, 0x00000049), (0x000000FF, 0x000000C9), (0x000000FF, 0x0000004B), (0x000000FF, 0x000000CB),
  (0x000000FF, 0x0000004D), (0x000000FF, 0x000000CD), (0x000000FF, 0x0000004F), (0x000000FF, 0x000000CF),
  (0x000000FF, 0x00000051), (0x000000FF, 0x00000053), (0x000000FF, 0x00000055), (0x000000FF, 0x00000057),
  (0x000000FF, 0x00000059), (0x000000FF, 0x0000005B), (0x000000FF, 0x0000005D), (0x000000FF, 0x0000005F),
  (0x000000FF, 0x00000061), (0x000000FF, 0x00000063), (0x000000FF, 0x00000065), (0x000000FF, 0x00000067),
  (0x000000FF, 0x00000069), (0xFE0000FF, 0x0000006B), (0xFE0000FF, 0x0200006B), (0xFE0000FF, 0x0400006B),
  (0xFE0000FF, 0x0600006B), (0xFE0000FF, 0x0800006B), (0xFE0000FF, 0x0A00006B), (0xFE0000FF, 0x0C00006B),
  (0xFE0000FF, 0x0E00006B), (0xFE0000FF, 0x2000006B), (0xFE0000FF, 0x2200006B), (0xFE0000FF, 0x2400006B)]
/-- Rows of the opcode table, part 3. -/
def rows3 : List (Nat × Nat) := [
  (0xFE0000FF, 0x2600006B), (0xFE0000FF, 0x2800006B), (0xFE0000FF, 0x2A00006B), (0xFE0000FF, 0x2C00006B),
  (0xFE0000FF, 0x2E00006B), (0xFE0000FF, 0x3000006B), (0xFE0000FF, 0x3200006B), (0xFE0000FF, 0x3400006B),
  (0xFE0000FF, 0x3600006B), (0xFE0000FF, 0x3800006B), (0xFE0000FF, 0x3A00006B), (0xFE0000FF, 0x3C00006B),
  (0xFE0000FF, 0x3E00006B), (0x000000FF, 0x00000071), (0x000000FF, 0x00000073), (0x000000FF, 0x00000075),
  (0x000000FF, 0x00000077), (0xFE0000FF, 0x00000079), (0xFE0000FF, 0x02000079), (0xFE0000FF, 0x04000079),
  (0xFE0000FF, 0x08000079), (0xFE0000FF, 0x0A000079), (0xFE0000FF, 0x0C000079), (0xFE0000FF, 0x0E000079),
  (0xFFE3C0FF, 0x0000007B), (0xFFE3C0FF, 0x0200007B), (0xFFE3C0FF, 0x0400007B), (0xFFE000FF, 0x0600007B),
  (0xFE0000FF, 0x0800007B), (0xFE0000FF, 0x0A00007B), (0xFFE000FF, 0x0C00007B), (0xFE0000FF, 0x0000007D),
  (0xFE0000FF, 0x0200007D), (0xFE0000FF, 0x0400007D), (0xFE0000FF, 0x0600007D), (0xFE0000FF, 0x0800007D),
  (0xFE0000FF, 0x0A00007D), (0xFE0000FF, 0x0C00007D), (0xFE0000FF, 0x0E00007D), (0xFE0000FF, 0x1000007D),
  (0xFE0000FF, 0x1200007D), (0xFE0000FF, 0x1400007D), (0xC00000FF, 0x0000007F), (0xC00000FF, 0x4000007F),
  (0xFE0000FF, 0x8000007F), (0x000000FF, 0x000000D1), (0x000000FF, 0x000000D3), (0x000000FF, 0x000000D5)]
/-- Rows of the opcode table, part 4. -/
def rows4 : List (Nat × Nat) := [
  (0x000000FF, 0x000000D7), (0x000000FF, 0x000000D9), (0x000000FF, 0x000000DB), (0x000000FF, 0x000000DD),
  (0x200000FF, 0x000000DF), (0x200000FF, 0x200000DF), (0x000000FF, 0x000000E1), (0x000000FF, 0x000000E3),
  (0x000000FF, 0x000000E5), (0x0E0000FF, 0x000000E7), (0x0E0000FF, 0x020000E7), (0x0FFFFFFF, 0x040001E7),
  (0x0FFFFFFF, 0x040002E7), (0x0FFFFFFF, 0x040003E7), (0x7FFFFFFF, 0x060000E7), (0x0FFFF8FF, 0x080000E7),
  (0x0E03F8FF, 0x0A0000E7), (0x7E0000FF, 0x0C0000E7), (0x7E0000FF, 0x0E0000E7), (0xFFE3C7FF, 0x000000E9),
  (0xFF0207FF, 0x020000E9), (0xFFE007FF, 0x040000E9), (0xFE0006FF, 0x060000E9), (0xFFFC06FF, 0x080000E9),
  (0xFE0006FF, 0x0A0000E9), (0xFFFC06FF, 0x0C0000E9), (0xFE03C6FF, 0x0E0000E9), (0x000008FF, 0x000000EB),
  (0xFF0008FF, 0x000008EB), (0x000001FF, 0x000000ED), (0x000001FF, 0x000001ED), (0xFFFFFFFF, 0x000000EF),
  (0xFE03FFFF, 0x020000EF), (0xFFFFF8FF, 0x040000EF), (0xFFFFFFFF, 0x060000EF), (0xFE03FFFF, 0x080000EF),
  (0xFE03F8FF, 0x0A0000EF), (0xFE03FFFF, 0x0C0000EF), (0xFFFC07FF, 0x0E0000EF), (0xFE03FFFF, 0x100000EF),
  (0xFFFC07FF, 0x120000EF), (0xFE0007FF, 0x140000EF), (0xFE0007FF, 0x160000EF), (0xFFFFFFFF, 0x180000EF),
  (0xFFC007FF, 0x1A0000EF), (0xFFC007FF, 0x1C0000EF), (0xFFC007FF, 0x1E0000EF), (0xFFC007FF, 0x200000EF)]
/-- Rows of the opcode table, part 5. -/
def rows5 : List (Nat × Nat) := [
  (0x7E0000FF, 0x000000F1), (0x7E0000FF, 0x020000F1), (0x7E0000FF, 0x040000F1), (0x7E0000FF, 0x060000F1),
  (0xFE03FFFF, 0x000000F3), (0x00000FFF, 0x000001F3), (0x00000FFF, 0x000002F3), (0x03FFFFFF, 0x000003F3),
  (0x0001FFFF, 0x000004F3), (0x000007FF, 0x000005F3), (0x02007FFF, 0x000006F3), (0x0203FFFF, 0x020006F3),
  (0x02007FFF, 0x000007F3), (0x7E03F8FF, 0x000000F5), (0x7E03F8FF, 0x020000F5), (0x7E03F8FF, 0x040000F5),
  (0x7E03C7FF, 0x060000F5), (0x7E03FFFF, 0x080000F5), (0x7E0000FF, 0x000000F7), (0x7E03F8FF, 0x020000F7),
  (0x7FFFFFFF, 0x040000F7), (0x7E0000FF, 0x060000F7), (0x7E0000FF, 0x080000F7), (0x7E0007FF, 0x0A0000F7),
  (0x7E0007FF, 0x0C0000F7), (0x7E0000FF, 0x0E0000F7), (0x000000FF, 0x000000F9), (0xFFFFFFFF, 0x000000FB),
  (0xFFFFFFFF, 0x000400FB), (0xFFFFFFFF, 0x000800FB), (0xFFFFFFFF, 0x000C00FB), (0xFE0000FF, 0x020000FB),
  (0xFE0000FF, 0x040000FB), (0xFE03F8FF, 0x060000FB), (0xFE03F8FF, 0x060008FB), (0xFE03F8FF, 0x080000FB),
  (0xFE03F8FF, 0x080008FB), (0xFE0007FF, 0x0A0000FB), (0xFE0007FF, 0x0A0001FB), (0xFE0007FF, 0x0A0002FB),
  (0xFE0007FF, 0x0C0000FB), (0x000000FF, 0x000000FD), (0xC00000FF, 0x000000FF)]
/-- Mask and match of every 32-bit row (R162, R164). -/
def rows : List (Nat × Nat) := rows0 ++ rows1 ++ rows2 ++ rows3 ++ rows4 ++ rows5
/-- Some row of the table describes this 32-bit word. -/
def assigned (w : Nat) : Bool := rows.any fun r => w &&& r.1 == r.2

end WellFormed

open WellFormed in
/-- The instruction's fields pass the checks that look at its word alone. -/
def Instr.wellFormed : Instr → Bool
  | .add _ _ d _ => vd d
  | .addG b a d _ => gs b && gs a && gd d
  | .sub _ _ d _ => vd d
  | .subG b a d _ => gs b && gs a && gd d
  | .mul _ _ d _ => vd d
  | .mulG b a d _ => gs b && gs a && gd d
  | .mulhiN _ _ d _ => vd d
  | .mulhiNG b a d _ => gs b && gs a && gd d
  | .mulhiI _ _ d _ => vd d
  | .mulhiIG b a d _ => gs b && gs a && gd d
  | .mad _ _ d _ => vd d
  | .madG b a d _ => gs b && gs a && gd d
  | .minI _ _ d _ => vd d
  | .minIG b a d _ => gs b && gs a && gd d
  | .maxI _ _ d _ => vd d
  | .maxIG b a d _ => gs b && gs a && gd d
  | .minN _ _ d _ => vd d
  | .minNG b a d _ => gs b && gs a && gd d
  | .maxN _ _ d _ => vd d
  | .maxNG b a d _ => gs b && gs a && gd d
  | .and _ _ d _ => vd d
  | .andG b a d _ => gs b && gs a && gd d
  | .or _ _ d _ => vd d
  | .orG b a d _ => gs b && gs a && gd d
  | .xor _ _ d _ => vd d
  | .xorG b a d _ => gs b && gs a && gd d
  | .andn _ _ d _ => vd d
  | .andnG b a d _ => gs b && gs a && gd d
  | .shl _ _ d _ => vd d
  | .shlG b a d _ => gs b && gs a && gd d
  | .shr _ _ d _ => vd d
  | .shrG b a d _ => gs b && gs a && gd d
  | .sar _ _ d _ => vd d
  | .sarG b a d _ => gs b && gs a && gd d
  | .bfeN _ _ d _ => vd d
  | .bfeNG b a d _ => gs b && gs a && gd d
  | .bfeI _ _ d _ => vd d
  | .bfeIG b a d _ => gs b && gs a && gd d
  | .bfi b _ d _ => vsp b && vd d
  | .bfiG b a d _ => gsp b && gs a && gd d
  | .bytemix _ _ d _ => vd d
  | .bytemixG b a d _ => gs b && gs a && gd d
  | .sel _ _ d _ => vd d
  | .selG b a d _ => gs b && gs a && gd d
  | .divN _ _ d _ => vd d
  | .divNG b a d _ => gs b && gs a && gd d
  | .remN _ _ d _ => vd d
  | .remNG b a d _ => gs b && gs a && gd d
  | .divI _ _ d _ => vd d
  | .divIG b a d _ => gs b && gs a && gd d
  | .remI _ _ d _ => vd d
  | .remIG b a d _ => gs b && gs a && gd d
  | .add64 b a d _ => vsp b && vsp a && vdp d
  | .add64G b a d _ => gsp b && gsp a && gdp d
  | .sub64 b a d _ => vsp b && vsp a && vdp d
  | .sub64G b a d _ => gsp b && gsp a && gdp d
  | .cmp _ _ c _ _ => cond c
  | .cmpG b a c _ _ => gs b && gs a && cond c
  | .cmpi _ _ c _ _ => cond c
  | .cmpiG _ a c _ _ => gs a && cond c
  | .mov _ d _ => vd d
  | .movG a d _ => gs a && gd d
  | .not _ d _ => vd d
  | .notG a d _ => gs a && gd d
  | .neg _ d _ => vd d
  | .negG a d _ => gs a && gd d
  | .abs _ d _ => vd d
  | .absG a d _ => gs a && gd d
  | .popc _ d _ => vd d
  | .popcG a d _ => gs a && gd d
  | .clz _ d _ => vd d
  | .clzG a d _ => gs a && gd d
  | .brev _ d _ => vd d
  | .brevG a d _ => gs a && gd d
  | .cvtI8I32 _ d _ => vd d
  | .cvtI8I32G a d _ => gs a && gd d
  | .cvtN8I32 _ d _ => vd d
  | .cvtN8I32G a d _ => gs a && gd d
  | .cvtI16I32 _ d _ => vd d
  | .cvtI16I32G a d _ => gs a && gd d
  | .cvtN16I32 _ d _ => vd d
  | .cvtN16I32G a d _ => gs a && gd d
  | .cvtN32I32 _ d _ => vd d
  | .cvtN32I32G a d _ => gs a && gd d
  | .cvtI32N32 _ d _ => vd d
  | .cvtI32N32G a d _ => gs a && gd d
  | .cvtN8N32 _ d _ => vd d
  | .cvtN8N32G a d _ => gs a && gd d
  | .cvtN16N32 _ d _ => vd d
  | .cvtN16N32G a d _ => gs a && gd d
  | .pand _ _ _ => true
  | .pandG _ _ _ => true
  | .por _ _ _ => true
  | .porG _ _ _ => true
  | .pxor _ _ _ => true
  | .pxorG _ _ _ => true
  | .pandn _ _ _ => true
  | .pandnG _ _ _ => true
  | .pnot _ _ _ => true
  | .pnotG _ _ _ => true
  | .pmov _ _ _ => true
  | .pmovG _ _ _ => true
  | .pset _ _ _ => true
  | .psetG a _ _ => gs a
  | .addi _ _ d _ => vd d
  | .addiG _ a d _ => gs a && gd d
  | .muli _ _ d _ => vd d
  | .muliG _ a d _ => gs a && gd d
  | .andi _ _ d _ => vd d
  | .andiG _ a d _ => gs a && gd d
  | .ori _ _ d _ => vd d
  | .oriG _ a d _ => gs a && gd d
  | .xori _ _ d _ => vd d
  | .xoriG _ a d _ => gs a && gd d
  | .shli _ _ d _ => vd d
  | .shliG _ a d _ => gs a && gd d
  | .shri _ _ d _ => vd d
  | .shriG _ a d _ => gs a && gd d
  | .sari _ _ d _ => vd d
  | .sariG _ a d _ => gs a && gd d
  | .fadd _ _ d _ => vd d
  | .fsub _ _ d _ => vd d
  | .fmul _ _ d _ => vd d
  | .ffma _ _ d _ => vd d
  | .fmin _ _ d _ => vd d
  | .fmax _ _ d _ => vd d
  | .pkaddF16 _ _ d _ => vd d
  | .pkmulF16 _ _ d _ => vd d
  | .pkfmaF16 _ _ d _ => vd d
  | .pkaddBf16 _ _ d _ => vd d
  | .pkmulBf16 _ _ d _ => vd d
  | .pkfmaBf16 _ _ d _ => vd d
  | .fcmp _ _ c _ _ => fcond c
  | .fneg _ d _ => vd d
  | .fabs _ d _ => vd d
  | .frcp _ d _ => vd d
  | .fsqrt _ d _ => vd d
  | .frsq _ d _ => vd d
  | .fexp2 _ d _ => vd d
  | .flog2 _ d _ => vd d
  | .frint _ d _ => vd d
  | .cvtF32I32 _ d _ => vd d
  | .cvtF32N32 _ d _ => vd d
  | .cvtI32F32 _ d _ => vd d
  | .cvtN32F32 _ d _ => vd d
  | .cvtF16F32 _ d _ => vd d
  | .cvtBf16F32 _ d _ => vd d
  | .cvtF32F16 _ d _ => vd d
  | .cvtF32Bf16 _ d _ => vd d
  | .cvtE4m3F32 _ d _ => vd d
  | .cvtE5m2F32 _ d _ => vd d
  | .cvtF32E4m3 _ d _ => vd d
  | .cvtF32E5m2 _ d _ => vd d
  | .cvtBf16F16 _ d _ => vd d
  | .cvtF16Bf16 _ d _ => vd d
  | .cvtI8F32 _ d _ => vd d
  | .cvtN8F32 _ d _ => vd d
  | .xpick _ _ d _ => vd d
  | .xrise _ _ d _ => vd d
  | .xfall _ _ d _ => vd d
  | .xflip _ _ d _ => vd d
  | .qswapH _ d _ => vd d
  | .qswapV _ d _ => vd d
  | .qswapD _ d _ => vd d
  | .qbcast0 _ d _ => vd d
  | .qbcast1 _ d _ => vd d
  | .qbcast2 _ d _ => vd d
  | .qbcast3 _ d _ => vd d
  | .xall _ _ _ => true
  | .xany _ _ _ => true
  | .xsame _ _ _ => true
  | .xmask _ d _ => vd d
  | .xeq _ d _ => vd d
  | .xeqall _ d _ => vd d
  | .xcount _ d _ => vd d
  | .rdxAdd _ d _ => gd d
  | .rdxMinI _ d _ => gd d
  | .rdxMaxI _ d _ => gd d
  | .rdxMinN _ d _ => gd d
  | .rdxMaxN _ d _ => gd d
  | .rdxAnd _ d _ => gd d
  | .rdxOr _ d _ => gd d
  | .rdxXor _ d _ => gd d
  | .rdxFadd _ d _ => gd d
  | .rdxFmin _ d _ => gd d
  | .rdxFmax _ d _ => gd d
  | .readlane _ _ d _ => gd d
  | .writelane _ a d _ => gs a && vd d
  | .readfirst _ d _ => gd d
  | .ldX1 _ _ _ d _ => vd d
  | .ldX2 _ _ _ d _ => vd d
  | .ldX4 _ _ _ d _ => vd d
  | .stX1 _ _ _ _ _ => true
  | .stX2 _ _ _ _ _ => true
  | .stX4 _ _ _ _ _ => true
  | .atom _ _ r p _ d _ => atomOp p && (r == 0 || vd d) && (p != 9 || even d)
  | .red _ _ p _ _ _ => redOp p
  | .redDet _ _ p _ _ _ => detOp p
  | .ldg _ _ i d _ => gs i && gd d
  | .stg _ _ i d _ => gs i && gs d
  | .atomg _ _ r p i d _ => atomOp p && gs i && (if r == 0 then gs d else gd d) && (p != 9 || even d)
  | .ldAcq _ c _ d _ => scope c && vd d
  | .stRel _ c _ _ _ => scope c
  | .fenceAcq _ c => scope c
  | .fenceRel _ c => scope c
  | .fenceAr _ c => scope c
  | .icinv _ => true
  | .cinv _ c _ => (c == 1 || c == 2)
  | .prefetch _ c _ _ => (c == 1 || c == 2 || c == 3)
  | .stSpill _ i _ _ => gs i
  | .ldSpill _ i d _ => gs i && vd d
  | .ldrec _ _ => true
  | .rsub n _ _ => mult4 n
  | .rdrec _ d => g4 d
  | .iwiden n x s => gdp n && shReg x s
  | .iunpin x s => shReg x s
  | .ishadow x d s => shSrc x s && g4 d
  | .itop x s => shReg x s
  | .ichk x _ s => shSrc x s
  | .brcV _ _ _ => true
  | .brcG _ _ => true
  | .bra _ => true
  | .call _ => true
  | .ret => true
  | .calli _ => true
  | .exit _ => true
  | .yield => true
  | .brk _ => true
  | .trap _ _ => true
  | .setfmt a => gs a
  | .getfmt d => gd d
  | .setexec a => gs a
  | .getexec d => gd d
  | .barSync i n => upTo 15 i && upTo 16 n
  | .barArrive i n => upTo 15 i && upTo 16 n
  | .cbarSync => true
  | .kget _ d => gd d
  | .kset _ s => gs s
  | .kadd _ d => gd d
  | .kcas _ d => gdp d
  | .mbarInit _ i d _ => gs i && gs d
  | .mbarArrive _ i d _ => gs i && gd d
  | .mbarWait _ i d _ => gs i && gs d
  | .mbarTest _ i d _ => gs i && gd d
  | .gang a => gs a
  | .mma _ _ _ _ _ => true
  | .tmma _ _ _ _ _ => true
  | .mzero _ _ => true
  | .mld _ _ _ _ _ => true
  | .mst _ _ _ _ _ _ => true
  | .mrd _ _ d _ => vd d
  | .mrdSt _ _ d => gd d
  | .mwr _ _ v _ => (vd v || v == 127)
  | .copy _ c _ => g8 c
  | .cstep _ a _ => gs a
  | .cwait _ c _ => g4 c
  | .ctest _ c _ => g4 c
  | .cadd _ c => g4 c
  | .spawn _ c v _ => g4 c && upTo 84 v
  | .join _ c _ => g4 c
  | .exitJ _ => true
  | .rinv _ n v _ => gs n && upTo 83 v
  | .rinvT _ n v _ => gs n && upTo 83 v
  | .arm _ c d => g8 c && gd d
  | .disarm _ h d => gs h && gd d
  | .post _ c v _ => g4 c && upTo 84 v
  | .lit _ => true
  | .rteFix => true
  | .rteSkip => true
  | .rteRetry => true
  | .rteKill => true
  | .sread _ d _ => gd d
  | .swrite _ s _ => gs s
  | .saveGroup i _ => gs i
  | .saveBlock i _ => gs i
  | .restoreGroup i _ => gs i
  | .restoreBlock i _ => gs i
  | .pgrefRead a d => gdp a && gd d
  | .pgrefInc a d => gdp a && gd d
  | .pgrefDec a d => gdp a && gd d
  | .cresume a d => gs a && gd d
  | .nop32 _ => true
  | .clauseHeader _ _ b a _ => setField a && setField b
  | .mov16 _ _ => true
  | .add16 _ _ => true
  | .sub16 _ _ => true
  | .addi16 _ _ => true
  | .and16 _ _ => true
  | .or16 _ _ => true
  | .xor16 _ _ => true
  | .shli16 _ _ => true
  | .shri16 _ _ => true
  | .sari16 _ _ => true
  | .minI16 _ _ => true
  | .maxI16 _ _ => true
  | .fadd16 _ _ => true
  | .fsub16 _ _ => true
  | .fmul16 _ _ => true
  | .fmax16 _ _ => true
  | .groupStart _ => true
  | .taskGroupStart _ => true
  | .resumeStart _ => true
  | .fragmentProceed _ _ => true
  | .fragmentRotation _ => true
  | .groupEnd _ => true
  | .launchEnd _ => true
  | .loadCompletion _ => true
  | .storeCompletion _ => true
  | .atomicCompletion _ => true
  | .reductionCompletion _ => true
  | .fenceCompletion _ => true
  | .cinvCompletion _ => true
  | .matrixCompletion _ => true
  | .tileOpCompletion _ => true
  | .keystoneJointIssue _ _ => true
  | .bStreamEnd _ => true
  | .copyCompletion _ _ => true
  | .copySuspend _ _ => true
  | .copyAbort _ _ => true
  | .stageIssue _ _ => true
  | .caddCompletion _ => true
  | .spawnCompletion _ => true
  | .postCompletion _ => true
  | .binTimerExpiry _ _ _ => true
  | .ringDrain _ _ => true
  | .quarryTake _ => true
  | .stealRequest _ => true
  | .stealArrival _ => true
  | .beaconCompletion _ => true
  | .armCompletion _ => true
  | .disarmCompletion _ => true
  | .arrivalNote _ _ => true
  | .cairnPostRetry _ => true
  | .trapEntry _ _ => true
  | .watchdogExpiry _ => true
  | .placementAttempt _ => true
  | .clusterCommit _ => true
  | .timeSliceExpiry _ => true
  | .remoteRead _ => true
  | .remoteWrite _ => true
  | .remoteAtomic _ => true
  | .remoteReduction _ => true
  | .beacon _ => true
  | .refusal _ => true
  | .readResponse _ => true
  | .acknowledgement _ => true
  | .atomicResponse _ => true
  | .reservedPacket _ => true
  | .linkNakReplay _ _ => true
  | .linkTrainingDone _ _ => true
  | .linkTrainingFail _ => true
  | .portEnable _ => true
  | .portRetrain _ => true
  | .portDisable _ => true
  | .mrouteWrite _ _ => true
  | .directoryWriteConflict _ _ _ => true
  | .invalidationAnswer _ _ _ => true
  | .evictionNotice _ _ _ => true
  | .regionMerge _ _ _ => true
  | .activationAlert _ => true
  | .perBankRefresh _ => true
  | .migrationDoorbell _ => true
  | .migrationCopyDone _ => true
  | .migrationAbort _ => true
  | .domainDrain _ _ => true
  | .domainDrainDone _ _ => true
  | .domainCommit _ _ => true
  | .domainCommitDone _ _ => true
  | .sqTailWrite _ _ => true
  | .queueEntryNop _ => true
  | .queueEntryLaunch _ => true
  | .queueEntryTask _ => true
  | .queueEntryCairnArm _ => true
  | .queueEntryCairnDisarm _ => true
  | .taskEntryRetry _ => true
  | .sqResume _ _ => true
  | .hostPreemptionRequest _ _ => true
  | .partitionConfigure _ => true
  | .partitionAbandon _ => true
  | .partitionActivate _ => true
  | .partitionDrain _ => true
  | .partitionDrained _ => true
  | .frameOwnershipGo _ => true
  | .frameScrubDone => true
  | .hostWrite _ _ _ => true
  | .hostRead _ _ _ => true
  | .moduleReset => true
  | .recoveryGoImage => true
  | .recoveryGoRecord => true
  | .recoveryGoToken => true
  | .recoveryEnter => true
  | .governorSample _ _ _ => true
  | .thermalThrottle _ _ => true
  | .thermalShutdown _ _ => true
  | .getVersion _ => true
  | .getCapabilities _ => true
  | .negotiateAlgorithms _ => true
  | .getDigests _ => true
  | .getCertificate _ => true
  | .challenge _ => true
  | .getMeasurements _ => true
  | .keyExchange _ => true
  | .finish _ => true
  | .endSession _ => true
  | .ideKm _ _ => true
  | .registerWrite _ _ _ => true
  | .flit _ _ => true
  | .hostSnoop _ => true
  | .saveRestoreCompletion _ => true
  | .reservedEncoding w => w.toNat % 2 == 1 && !assigned w.toNat

end Sys2Proof
end

