-- ==== Sys2Proof/Decode.lean ====
section
/-!
DEFINITION. The decoder, total on any bytes (R148, R149, R152, R155, R162, R164), with the encoder after it. A word with a reserved
major, an unassigned minor or a nonzero field that must be zero decodes to `reservedEncoding`, by name. What builds an `Instr` is
noncomputable because Lean's runtime has no tag for so many constructors; its kernel evaluates it all the same.
-/
namespace Sys2Proof

/-- The field of `n` bits that starts at bit `lo` of the word. -/
def fld (w lo n : Nat) : BitVec n := BitVec.ofNat n (w / 2 ^ lo)

/-- The value of `n` bits of the word, from bit `lo`. -/
def bitsAt (w lo n : Nat) : Nat := w / 2 ^ lo % 2 ^ n

/-- A word that no row of the opcode table describes (R162, R164). -/
noncomputable def reservedWord (w : Nat) : Instr := .reservedEncoding (BitVec.ofNat 32 w)

/-- Major 0x1E by its minor (R164). -/
noncomputable def decodeMajor1E (w : Nat) : Instr :=
  match bitsAt w 25 7 with
  | 0 => .mov (fld w 18 7) (fld w 11 7) (fld w 8 3)
  | 1 => .not (fld w 18 7) (fld w 11 7) (fld w 8 3)
  | 2 => .neg (fld w 18 7) (fld w 11 7) (fld w 8 3)
  | 3 => .abs (fld w 18 7) (fld w 11 7) (fld w 8 3)
  | 4 => .popc (fld w 18 7) (fld w 11 7) (fld w 8 3)
  | 5 => .clz (fld w 18 7) (fld w 11 7) (fld w 8 3)
  | 6 => .brev (fld w 18 7) (fld w 11 7) (fld w 8 3)
  | 8 => .cvtI8I32 (fld w 18 7) (fld w 11 7) (fld w 8 3)
  | 9 => .cvtN8I32 (fld w 18 7) (fld w 11 7) (fld w 8 3)
  | 10 => .cvtI16I32 (fld w 18 7) (fld w 11 7) (fld w 8 3)
  | 11 => .cvtN16I32 (fld w 18 7) (fld w 11 7) (fld w 8 3)
  | 12 => .cvtN32I32 (fld w 18 7) (fld w 11 7) (fld w 8 3)
  | 13 => .cvtI32N32 (fld w 18 7) (fld w 11 7) (fld w 8 3)
  | 14 => .cvtN8N32 (fld w 18 7) (fld w 11 7) (fld w 8 3)
  | 15 => .cvtN16N32 (fld w 18 7) (fld w 11 7) (fld w 8 3)
  | _ => reservedWord w

/-- Major 0x1F by its minor (R164). -/
noncomputable def decodeMajor1F (w : Nat) : Instr :=
  match bitsAt w 25 7 with
  | 0 => if bitsAt w 14 4 = 0 ∧ bitsAt w 21 4 = 0 then .pand (fld w 18 3) (fld w 11 3) (fld w 8 3) else reservedWord w
  | 1 => if bitsAt w 14 4 = 0 ∧ bitsAt w 21 4 = 0 then .por (fld w 18 3) (fld w 11 3) (fld w 8 3) else reservedWord w
  | 2 => if bitsAt w 14 4 = 0 ∧ bitsAt w 21 4 = 0 then .pxor (fld w 18 3) (fld w 11 3) (fld w 8 3) else reservedWord w
  | 3 => if bitsAt w 14 4 = 0 ∧ bitsAt w 21 4 = 0 then .pandn (fld w 18 3) (fld w 11 3) (fld w 8 3) else reservedWord w
  | 4 => if bitsAt w 14 4 = 0 ∧ bitsAt w 21 4 = 0 then .pnot (fld w 18 3) (fld w 11 3) (fld w 8 3) else reservedWord w
  | 5 => if bitsAt w 14 4 = 0 ∧ bitsAt w 21 4 = 0 then .pmov (fld w 18 3) (fld w 11 3) (fld w 8 3) else reservedWord w
  | 6 => if bitsAt w 14 4 = 0 then .pset (fld w 18 7) (fld w 11 3) (fld w 8 3) else reservedWord w
  | _ => reservedWord w

/-- Major 0x35 by its minor (R164). -/
noncomputable def decodeMajor35 (w : Nat) : Instr :=
  match bitsAt w 25 7 with
  | 0 => .fneg (fld w 18 7) (fld w 11 7) (fld w 8 3)
  | 1 => .fabs (fld w 18 7) (fld w 11 7) (fld w 8 3)
  | 2 => .frcp (fld w 18 7) (fld w 11 7) (fld w 8 3)
  | 3 => .fsqrt (fld w 18 7) (fld w 11 7) (fld w 8 3)
  | 4 => .frsq (fld w 18 7) (fld w 11 7) (fld w 8 3)
  | 5 => .fexp2 (fld w 18 7) (fld w 11 7) (fld w 8 3)
  | 6 => .flog2 (fld w 18 7) (fld w 11 7) (fld w 8 3)
  | 7 => .frint (fld w 18 7) (fld w 11 7) (fld w 8 3)
  | 16 => .cvtF32I32 (fld w 18 7) (fld w 11 7) (fld w 8 3)
  | 17 => .cvtF32N32 (fld w 18 7) (fld w 11 7) (fld w 8 3)
  | 18 => .cvtI32F32 (fld w 18 7) (fld w 11 7) (fld w 8 3)
  | 19 => .cvtN32F32 (fld w 18 7) (fld w 11 7) (fld w 8 3)
  | 20 => .cvtF16F32 (fld w 18 7) (fld w 11 7) (fld w 8 3)
  | 21 => .cvtBf16F32 (fld w 18 7) (fld w 11 7) (fld w 8 3)
  | 22 => .cvtF32F16 (fld w 18 7) (fld w 11 7) (fld w 8 3)
  | 23 => .cvtF32Bf16 (fld w 18 7) (fld w 11 7) (fld w 8 3)
  | 24 => .cvtE4m3F32 (fld w 18 7) (fld w 11 7) (fld w 8 3)
  | 25 => .cvtE5m2F32 (fld w 18 7) (fld w 11 7) (fld w 8 3)
  | 26 => .cvtF32E4m3 (fld w 18 7) (fld w 11 7) (fld w 8 3)
  | 27 => .cvtF32E5m2 (fld w 18 7) (fld w 11 7) (fld w 8 3)
  | 28 => .cvtBf16F16 (fld w 18 7) (fld w 11 7) (fld w 8 3)
  | 29 => .cvtF16Bf16 (fld w 18 7) (fld w 11 7) (fld w 8 3)
  | 30 => .cvtI8F32 (fld w 18 7) (fld w 11 7) (fld w 8 3)
  | 31 => .cvtN8F32 (fld w 18 7) (fld w 11 7) (fld w 8 3)
  | _ => reservedWord w

/-- Major 0x3C by its minor (R164). -/
noncomputable def decodeMajor3C (w : Nat) : Instr :=
  match bitsAt w 25 7 with
  | 0 => .qswapH (fld w 18 7) (fld w 11 7) (fld w 8 3)
  | 1 => .qswapV (fld w 18 7) (fld w 11 7) (fld w 8 3)
  | 2 => .qswapD (fld w 18 7) (fld w 11 7) (fld w 8 3)
  | 4 => .qbcast0 (fld w 18 7) (fld w 11 7) (fld w 8 3)
  | 5 => .qbcast1 (fld w 18 7) (fld w 11 7) (fld w 8 3)
  | 6 => .qbcast2 (fld w 18 7) (fld w 11 7) (fld w 8 3)
  | 7 => .qbcast3 (fld w 18 7) (fld w 11 7) (fld w 8 3)
  | _ => reservedWord w

/-- Major 0x3D by its minor (R164). -/
noncomputable def decodeMajor3D (w : Nat) : Instr :=
  match bitsAt w 25 7 with
  | 0 => if bitsAt w 14 4 = 0 ∧ bitsAt w 21 4 = 0 then .xall (fld w 18 3) (fld w 11 3) (fld w 8 3) else reservedWord w
  | 1 => if bitsAt w 14 4 = 0 ∧ bitsAt w 21 4 = 0 then .xany (fld w 18 3) (fld w 11 3) (fld w 8 3) else reservedWord w
  | 2 => if bitsAt w 14 4 = 0 ∧ bitsAt w 21 4 = 0 then .xsame (fld w 18 3) (fld w 11 3) (fld w 8 3) else reservedWord w
  | 3 => if bitsAt w 21 4 = 0 then .xmask (fld w 18 3) (fld w 11 7) (fld w 8 3) else reservedWord w
  | 4 => .xeq (fld w 18 7) (fld w 11 7) (fld w 8 3)
  | 5 => .xeqall (fld w 18 7) (fld w 11 7) (fld w 8 3)
  | 6 => if bitsAt w 21 4 = 0 then .xcount (fld w 18 3) (fld w 11 7) (fld w 8 3) else reservedWord w
  | _ => reservedWord w

/-- Major 0x3E by its minor (R164). -/
noncomputable def decodeMajor3E (w : Nat) : Instr :=
  match bitsAt w 25 7 with
  | 0 => .rdxAdd (fld w 18 7) (fld w 11 7) (fld w 8 3)
  | 1 => .rdxMinI (fld w 18 7) (fld w 11 7) (fld w 8 3)
  | 2 => .rdxMaxI (fld w 18 7) (fld w 11 7) (fld w 8 3)
  | 3 => .rdxMinN (fld w 18 7) (fld w 11 7) (fld w 8 3)
  | 4 => .rdxMaxN (fld w 18 7) (fld w 11 7) (fld w 8 3)
  | 5 => .rdxAnd (fld w 18 7) (fld w 11 7) (fld w 8 3)
  | 6 => .rdxOr (fld w 18 7) (fld w 11 7) (fld w 8 3)
  | 7 => .rdxXor (fld w 18 7) (fld w 11 7) (fld w 8 3)
  | 8 => .rdxFadd (fld w 18 7) (fld w 11 7) (fld w 8 3)
  | 9 => .rdxFmin (fld w 18 7) (fld w 11 7) (fld w 8 3)
  | 10 => .rdxFmax (fld w 18 7) (fld w 11 7) (fld w 8 3)
  | _ => reservedWord w

/-- Major 0x3F by its minor (R164). -/
noncomputable def decodeMajor3F (w : Nat) : Instr :=
  match bitsAt w 30 2 with
  | 0 => .readlane (fld w 25 5) (fld w 18 7) (fld w 11 7) (fld w 8 3)
  | 1 => .writelane (fld w 25 5) (fld w 18 7) (fld w 11 7) (fld w 8 3)
  | 2 => if bitsAt w 25 5 = 0 then .readfirst (fld w 18 7) (fld w 11 7) (fld w 8 3) else reservedWord w
  | _ => reservedWord w

/-- Major 0x5E by its minor (R164). -/
noncomputable def decodeMajor5E (w : Nat) : Instr :=
  match bitsAt w 25 7 with
  | 0 => .movG (fld w 18 7) (fld w 11 7) (fld w 8 3)
  | 1 => .notG (fld w 18 7) (fld w 11 7) (fld w 8 3)
  | 2 => .negG (fld w 18 7) (fld w 11 7) (fld w 8 3)
  | 3 => .absG (fld w 18 7) (fld w 11 7) (fld w 8 3)
  | 4 => .popcG (fld w 18 7) (fld w 11 7) (fld w 8 3)
  | 5 => .clzG (fld w 18 7) (fld w 11 7) (fld w 8 3)
  | 6 => .brevG (fld w 18 7) (fld w 11 7) (fld w 8 3)
  | 8 => .cvtI8I32G (fld w 18 7) (fld w 11 7) (fld w 8 3)
  | 9 => .cvtN8I32G (fld w 18 7) (fld w 11 7) (fld w 8 3)
  | 10 => .cvtI16I32G (fld w 18 7) (fld w 11 7) (fld w 8 3)
  | 11 => .cvtN16I32G (fld w 18 7) (fld w 11 7) (fld w 8 3)
  | 12 => .cvtN32I32G (fld w 18 7) (fld w 11 7) (fld w 8 3)
  | 13 => .cvtI32N32G (fld w 18 7) (fld w 11 7) (fld w 8 3)
  | 14 => .cvtN8N32G (fld w 18 7) (fld w 11 7) (fld w 8 3)
  | 15 => .cvtN16N32G (fld w 18 7) (fld w 11 7) (fld w 8 3)
  | _ => reservedWord w

/-- Major 0x5F by its minor (R164). -/
noncomputable def decodeMajor5F (w : Nat) : Instr :=
  match bitsAt w 25 7 with
  | 0 => if bitsAt w 14 4 = 0 ∧ bitsAt w 21 4 = 0 then .pandG (fld w 18 3) (fld w 11 3) (fld w 8 3) else reservedWord w
  | 1 => if bitsAt w 14 4 = 0 ∧ bitsAt w 21 4 = 0 then .porG (fld w 18 3) (fld w 11 3) (fld w 8 3) else reservedWord w
  | 2 => if bitsAt w 14 4 = 0 ∧ bitsAt w 21 4 = 0 then .pxorG (fld w 18 3) (fld w 11 3) (fld w 8 3) else reservedWord w
  | 3 => if bitsAt w 14 4 = 0 ∧ bitsAt w 21 4 = 0 then .pandnG (fld w 18 3) (fld w 11 3) (fld w 8 3) else reservedWord w
  | 4 => if bitsAt w 14 4 = 0 ∧ bitsAt w 21 4 = 0 then .pnotG (fld w 18 3) (fld w 11 3) (fld w 8 3) else reservedWord w
  | 5 => if bitsAt w 14 4 = 0 ∧ bitsAt w 21 4 = 0 then .pmovG (fld w 18 3) (fld w 11 3) (fld w 8 3) else reservedWord w
  | 6 => if bitsAt w 14 4 = 0 then .psetG (fld w 18 7) (fld w 11 3) (fld w 8 3) else reservedWord w
  | _ => reservedWord w

/-- Major 0x6F by its minor (R164). -/
noncomputable def decodeMajor6F (w : Nat) : Instr :=
  match bitsAt w 29 1 with
  | 0 => .red (fld w 31 1) (fld w 30 1) (fld w 25 4) (fld w 18 7) (fld w 11 7) (fld w 8 3)
  | _ => .redDet (fld w 31 1) (fld w 30 1) (fld w 25 4) (fld w 18 7) (fld w 11 7) (fld w 8 3)

/-- Major 0x73 by its minor (R164). -/
noncomputable def decodeMajor73 (w : Nat) : Instr :=
  match bitsAt w 25 3 with
  | 0 => .ldAcq (fld w 31 1) (fld w 28 3) (fld w 18 7) (fld w 11 7) (fld w 8 3)
  | 1 => .stRel (fld w 31 1) (fld w 28 3) (fld w 18 7) (fld w 11 7) (fld w 8 3)
  | 2 => if bitsAt w 8 17 = 1 then .fenceAcq (fld w 31 1) (fld w 28 3) else if bitsAt w 8 17 = 2 then .fenceRel (fld w 31 1) (fld w 28 3) else if bitsAt w 8 17 = 3 then .fenceAr (fld w 31 1) (fld w 28 3) else reservedWord w
  | 3 => if bitsAt w 8 17 = 0 ∧ bitsAt w 28 3 = 0 then .icinv (fld w 31 1) else reservedWord w
  | 4 => if bitsAt w 11 14 = 0 then .cinv (fld w 31 1) (fld w 28 3) (fld w 8 3) else reservedWord w
  | 5 => if bitsAt w 11 7 = 0 then .prefetch (fld w 31 1) (fld w 28 3) (fld w 18 7) (fld w 8 3) else reservedWord w
  | 6 => if bitsAt w 28 3 = 0 then .stSpill (fld w 31 1) (fld w 18 7) (fld w 11 7) (fld w 8 3) else reservedWord w
  | _ => if bitsAt w 28 3 = 0 then .ldSpill (fld w 31 1) (fld w 18 7) (fld w 11 7) (fld w 8 3) else reservedWord w

/-- Major 0x74 by its minor (R164). -/
noncomputable def decodeMajor74 (w : Nat) : Instr :=
  match bitsAt w 25 7 with
  | 0 => if bitsAt w 8 3 = 0 ∧ bitsAt w 14 4 = 0 ∧ bitsAt w 21 4 = 0 then .ldrec (fld w 18 3) (fld w 11 3) else reservedWord w
  | 1 => if bitsAt w 8 3 = 0 ∧ bitsAt w 17 1 = 0 ∧ bitsAt w 24 1 = 0 then .rsub (fld w 18 6) (fld w 14 3) (fld w 11 3) else reservedWord w
  | 2 => if bitsAt w 8 3 = 0 ∧ bitsAt w 21 4 = 0 then .rdrec (fld w 18 3) (fld w 11 7) else reservedWord w
  | 3 => if bitsAt w 9 2 = 0 then .iwiden (fld w 18 7) (fld w 11 7) (fld w 8 1) else reservedWord w
  | 4 => if bitsAt w 9 2 = 0 ∧ bitsAt w 18 7 = 0 then .iunpin (fld w 11 7) (fld w 8 1) else reservedWord w
  | 5 => if bitsAt w 9 2 = 0 then .ishadow (fld w 18 7) (fld w 11 7) (fld w 8 1) else reservedWord w
  | 6 => if bitsAt w 9 2 = 0 ∧ bitsAt w 18 7 = 0 then .itop (fld w 11 7) (fld w 8 1) else reservedWord w
  | 7 => if bitsAt w 9 2 = 0 ∧ bitsAt w 14 4 = 0 then .ichk (fld w 18 7) (fld w 11 3) (fld w 8 1) else reservedWord w
  | _ => reservedWord w

/-- Major 0x75 by its minor (R164). -/
noncomputable def decodeMajor75 (w : Nat) : Instr :=
  match bitsAt w 11 1 with
  | 0 => .brcV (fld w 24 8) (fld w 12 12) (fld w 8 3)
  | _ => if bitsAt w 24 8 = 0 then .brcG (fld w 12 12) (fld w 8 3) else reservedWord w

/-- Major 0x76 by its minor (R164). -/
noncomputable def decodeMajor76 (w : Nat) : Instr :=
  match bitsAt w 8 1 with
  | 0 => .bra (fld w 9 23)
  | _ => .call (fld w 9 23)

/-- Major 0x77 by its minor (R164). -/
noncomputable def decodeMajor77 (w : Nat) : Instr :=
  match bitsAt w 25 7 with
  | 0 => if bitsAt w 8 17 = 0 then .ret else reservedWord w
  | 1 => if bitsAt w 8 10 = 0 then .calli (fld w 18 7) else reservedWord w
  | 2 => if bitsAt w 11 14 = 0 then .exit (fld w 8 3) else reservedWord w
  | 3 => if bitsAt w 8 17 = 0 then .yield else reservedWord w
  | 4 => if bitsAt w 8 10 = 0 then .brk (fld w 18 7) else reservedWord w
  | 5 => if bitsAt w 11 7 = 0 then .trap (fld w 18 7) (fld w 8 3) else reservedWord w
  | 6 => if bitsAt w 8 10 = 0 then .setfmt (fld w 18 7) else reservedWord w
  | 7 => if bitsAt w 8 3 = 0 ∧ bitsAt w 18 7 = 0 then .getfmt (fld w 11 7) else reservedWord w
  | 8 => if bitsAt w 8 10 = 0 then .setexec (fld w 18 7) else reservedWord w
  | 9 => if bitsAt w 8 3 = 0 ∧ bitsAt w 18 7 = 0 then .getexec (fld w 11 7) else reservedWord w
  | 10 => if bitsAt w 8 3 = 0 then .barSync (fld w 18 7) (fld w 11 7) else reservedWord w
  | 11 => if bitsAt w 8 3 = 0 then .barArrive (fld w 18 7) (fld w 11 7) else reservedWord w
  | 12 => if bitsAt w 8 17 = 0 then .cbarSync else reservedWord w
  | 13 => if bitsAt w 8 3 = 0 ∧ bitsAt w 22 3 = 0 then .kget (fld w 18 4) (fld w 11 7) else reservedWord w
  | 14 => if bitsAt w 8 3 = 0 ∧ bitsAt w 22 3 = 0 then .kset (fld w 18 4) (fld w 11 7) else reservedWord w
  | 15 => if bitsAt w 8 3 = 0 ∧ bitsAt w 22 3 = 0 then .kadd (fld w 18 4) (fld w 11 7) else reservedWord w
  | 16 => if bitsAt w 8 3 = 0 ∧ bitsAt w 22 3 = 0 then .kcas (fld w 18 4) (fld w 11 7) else reservedWord w
  | _ => reservedWord w

/-- Major 0x78 by its minor (R164). -/
noncomputable def decodeMajor78 (w : Nat) : Instr :=
  match bitsAt w 25 3 with
  | 0 => if bitsAt w 28 3 = 0 then .mbarInit (fld w 31 1) (fld w 18 7) (fld w 11 7) (fld w 8 3) else reservedWord w
  | 1 => if bitsAt w 28 3 = 0 then .mbarArrive (fld w 31 1) (fld w 18 7) (fld w 11 7) (fld w 8 3) else reservedWord w
  | 2 => if bitsAt w 28 3 = 0 then .mbarWait (fld w 31 1) (fld w 18 7) (fld w 11 7) (fld w 8 3) else reservedWord w
  | 3 => if bitsAt w 28 3 = 0 then .mbarTest (fld w 31 1) (fld w 18 7) (fld w 11 7) (fld w 8 3) else reservedWord w
  | _ => reservedWord w

/-- Major 0x79 by its minor (R164). -/
noncomputable def decodeMajor79 (w : Nat) : Instr :=
  match bitsAt w 8 3 with
  | 0 => if bitsAt w 11 7 = 0 ∧ bitsAt w 25 7 = 0 then .gang (fld w 18 7) else reservedWord w
  | 1 => if bitsAt w 11 1 = 0 then .mma (fld w 31 1) (fld w 26 5) (fld w 23 3) (fld w 19 4) (fld w 12 7) else reservedWord w
  | 2 => if bitsAt w 11 1 = 0 then .tmma (fld w 31 1) (fld w 26 5) (fld w 23 3) (fld w 19 4) (fld w 12 7) else reservedWord w
  | 3 => if bitsAt w 11 15 = 0 then .mzero (fld w 31 1) (fld w 26 5) else reservedWord w
  | 4 => if bitsAt w 11 6 = 0 then .mld (fld w 31 1) (fld w 26 5) (fld w 23 3) (fld w 18 5) (fld w 17 1) else reservedWord w
  | 5 => .mst (fld w 31 1) (fld w 26 5) (fld w 23 3) (fld w 18 5) (fld w 17 1) (fld w 11 6)
  | 6 => if bitsAt w 11 4 = 0 ∧ bitsAt w 25 1 = 0 then .mrd (fld w 31 1) (fld w 26 5) (fld w 18 7) (fld w 15 3) else if bitsAt w 11 7 = 0 ∧ bitsAt w 25 1 = 1 then .mrdSt (fld w 31 1) (fld w 26 5) (fld w 18 7) else reservedWord w
  | _ => if bitsAt w 11 4 = 0 ∧ bitsAt w 25 1 = 0 then .mwr (fld w 31 1) (fld w 26 5) (fld w 18 7) (fld w 15 3) else reservedWord w

/-- Major 0x7A by its minor (R164). -/
noncomputable def decodeMajor7A (w : Nat) : Instr :=
  match bitsAt w 25 6 with
  | 0 => if bitsAt w 11 7 = 0 then .copy (fld w 31 1) (fld w 18 7) (fld w 8 3) else reservedWord w
  | 1 => if bitsAt w 11 7 = 0 then .cstep (fld w 31 1) (fld w 18 7) (fld w 8 3) else reservedWord w
  | 2 => if bitsAt w 11 7 = 0 then .cwait (fld w 31 1) (fld w 18 7) (fld w 8 3) else reservedWord w
  | 3 => if bitsAt w 8 3 = 0 ∧ bitsAt w 14 4 = 0 then .ctest (fld w 31 1) (fld w 18 7) (fld w 11 3) else reservedWord w
  | 4 => if bitsAt w 8 10 = 0 then .cadd (fld w 31 1) (fld w 18 7) else reservedWord w
  | _ => reservedWord w

/-- Major 0x7B by its minor (R164). -/
noncomputable def decodeMajor7B (w : Nat) : Instr :=
  match bitsAt w 25 6 with
  | 0 => .spawn (fld w 31 1) (fld w 18 7) (fld w 11 7) (fld w 8 3)
  | 1 => if bitsAt w 11 7 = 0 then .join (fld w 31 1) (fld w 18 7) (fld w 8 3) else reservedWord w
  | 2 => if bitsAt w 8 17 = 0 then .exitJ (fld w 31 1) else reservedWord w
  | 3 => .rinv (fld w 31 1) (fld w 18 7) (fld w 11 7) (fld w 8 3)
  | 4 => .rinvT (fld w 31 1) (fld w 18 7) (fld w 11 7) (fld w 8 3)
  | 5 => if bitsAt w 8 3 = 0 then .arm (fld w 31 1) (fld w 18 7) (fld w 11 7) else reservedWord w
  | 6 => if bitsAt w 8 3 = 0 then .disarm (fld w 31 1) (fld w 18 7) (fld w 11 7) else reservedWord w
  | 7 => .post (fld w 31 1) (fld w 18 7) (fld w 11 7) (fld w 8 3)
  | _ => reservedWord w

/-- Major 0x7D by its minor (R164). -/
noncomputable def decodeMajor7D (w : Nat) : Instr :=
  match bitsAt w 25 7 with
  | 0 => if bitsAt w 8 17 = 0 then .rteFix else if bitsAt w 8 17 = 1024 then .rteSkip else if bitsAt w 8 17 = 2048 then .rteRetry else if bitsAt w 8 17 = 3072 then .rteKill else reservedWord w
  | 1 => .sread (fld w 18 7) (fld w 11 7) (fld w 8 3)
  | 2 => .swrite (fld w 18 7) (fld w 11 7) (fld w 8 3)
  | 3 => if bitsAt w 11 7 = 0 then .saveGroup (fld w 18 7) (fld w 8 3) else if bitsAt w 11 7 = 1 then .saveBlock (fld w 18 7) (fld w 8 3) else reservedWord w
  | 4 => if bitsAt w 11 7 = 0 then .restoreGroup (fld w 18 7) (fld w 8 3) else if bitsAt w 11 7 = 1 then .restoreBlock (fld w 18 7) (fld w 8 3) else reservedWord w
  | 5 => if bitsAt w 8 3 = 0 then .pgrefRead (fld w 18 7) (fld w 11 7) else if bitsAt w 8 3 = 1 then .pgrefInc (fld w 18 7) (fld w 11 7) else if bitsAt w 8 3 = 2 then .pgrefDec (fld w 18 7) (fld w 11 7) else reservedWord w
  | 6 => if bitsAt w 8 3 = 0 then .cresume (fld w 18 7) (fld w 11 7) else reservedWord w
  | _ => reservedWord w

/-- A 32-bit word, by its major (R162). -/
noncomputable def decode32 (w : Nat) : Instr :=
  match bitsAt w 1 7 with
  | 0x00 => .add (fld w 25 7) (fld w 18 7) (fld w 11 7) (fld w 8 3)
  | 0x01 => .sub (fld w 25 7) (fld w 18 7) (fld w 11 7) (fld w 8 3)
  | 0x02 => .mul (fld w 25 7) (fld w 18 7) (fld w 11 7) (fld w 8 3)
  | 0x03 => .mulhiN (fld w 25 7) (fld w 18 7) (fld w 11 7) (fld w 8 3)
  | 0x04 => .mulhiI (fld w 25 7) (fld w 18 7) (fld w 11 7) (fld w 8 3)
  | 0x05 => .mad (fld w 25 7) (fld w 18 7) (fld w 11 7) (fld w 8 3)
  | 0x06 => .minI (fld w 25 7) (fld w 18 7) (fld w 11 7) (fld w 8 3)
  | 0x07 => .maxI (fld w 25 7) (fld w 18 7) (fld w 11 7) (fld w 8 3)
  | 0x08 => .minN (fld w 25 7) (fld w 18 7) (fld w 11 7) (fld w 8 3)
  | 0x09 => .maxN (fld w 25 7) (fld w 18 7) (fld w 11 7) (fld w 8 3)
  | 0x0A => .and (fld w 25 7) (fld w 18 7) (fld w 11 7) (fld w 8 3)
  | 0x0B => .or (fld w 25 7) (fld w 18 7) (fld w 11 7) (fld w 8 3)
  | 0x0C => .xor (fld w 25 7) (fld w 18 7) (fld w 11 7) (fld w 8 3)
  | 0x0D => .andn (fld w 25 7) (fld w 18 7) (fld w 11 7) (fld w 8 3)
  | 0x0E => .shl (fld w 25 7) (fld w 18 7) (fld w 11 7) (fld w 8 3)
  | 0x0F => .shr (fld w 25 7) (fld w 18 7) (fld w 11 7) (fld w 8 3)
  | 0x10 => .sar (fld w 25 7) (fld w 18 7) (fld w 11 7) (fld w 8 3)
  | 0x11 => .bfeN (fld w 25 7) (fld w 18 7) (fld w 11 7) (fld w 8 3)
  | 0x12 => .bfeI (fld w 25 7) (fld w 18 7) (fld w 11 7) (fld w 8 3)
  | 0x13 => .bfi (fld w 25 7) (fld w 18 7) (fld w 11 7) (fld w 8 3)
  | 0x14 => .bytemix (fld w 25 7) (fld w 18 7) (fld w 11 7) (fld w 8 3)
  | 0x15 => .sel (fld w 25 7) (fld w 18 7) (fld w 11 7) (fld w 8 3)
  | 0x16 => .divN (fld w 25 7) (fld w 18 7) (fld w 11 7) (fld w 8 3)
  | 0x17 => .remN (fld w 25 7) (fld w 18 7) (fld w 11 7) (fld w 8 3)
  | 0x18 => .divI (fld w 25 7) (fld w 18 7) (fld w 11 7) (fld w 8 3)
  | 0x19 => .remI (fld w 25 7) (fld w 18 7) (fld w 11 7) (fld w 8 3)
  | 0x1A => .add64 (fld w 25 7) (fld w 18 7) (fld w 11 7) (fld w 8 3)
  | 0x1B => .sub64 (fld w 25 7) (fld w 18 7) (fld w 11 7) (fld w 8 3)
  | 0x1C => .cmp (fld w 25 7) (fld w 18 7) (fld w 14 4) (fld w 11 3) (fld w 8 3)
  | 0x1D => .cmpi (fld w 25 7) (fld w 18 7) (fld w 14 4) (fld w 11 3) (fld w 8 3)
  | 0x1E => decodeMajor1E w
  | 0x1F => decodeMajor1F w
  | 0x20 => .addi (fld w 25 7) (fld w 18 7) (fld w 11 7) (fld w 8 3)
  | 0x21 => .muli (fld w 25 7) (fld w 18 7) (fld w 11 7) (fld w 8 3)
  | 0x22 => .andi (fld w 25 7) (fld w 18 7) (fld w 11 7) (fld w 8 3)
  | 0x23 => .ori (fld w 25 7) (fld w 18 7) (fld w 11 7) (fld w 8 3)
  | 0x24 => .xori (fld w 25 7) (fld w 18 7) (fld w 11 7) (fld w 8 3)
  | 0x25 => .shli (fld w 25 7) (fld w 18 7) (fld w 11 7) (fld w 8 3)
  | 0x26 => .shri (fld w 25 7) (fld w 18 7) (fld w 11 7) (fld w 8 3)
  | 0x27 => .sari (fld w 25 7) (fld w 18 7) (fld w 11 7) (fld w 8 3)
  | 0x28 => .fadd (fld w 25 7) (fld w 18 7) (fld w 11 7) (fld w 8 3)
  | 0x29 => .fsub (fld w 25 7) (fld w 18 7) (fld w 11 7) (fld w 8 3)
  | 0x2A => .fmul (fld w 25 7) (fld w 18 7) (fld w 11 7) (fld w 8 3)
  | 0x2B => .ffma (fld w 25 7) (fld w 18 7) (fld w 11 7) (fld w 8 3)
  | 0x2C => .fmin (fld w 25 7) (fld w 18 7) (fld w 11 7) (fld w 8 3)
  | 0x2D => .fmax (fld w 25 7) (fld w 18 7) (fld w 11 7) (fld w 8 3)
  | 0x2E => .pkaddF16 (fld w 25 7) (fld w 18 7) (fld w 11 7) (fld w 8 3)
  | 0x2F => .pkmulF16 (fld w 25 7) (fld w 18 7) (fld w 11 7) (fld w 8 3)
  | 0x30 => .pkfmaF16 (fld w 25 7) (fld w 18 7) (fld w 11 7) (fld w 8 3)
  | 0x31 => .pkaddBf16 (fld w 25 7) (fld w 18 7) (fld w 11 7) (fld w 8 3)
  | 0x32 => .pkmulBf16 (fld w 25 7) (fld w 18 7) (fld w 11 7) (fld w 8 3)
  | 0x33 => .pkfmaBf16 (fld w 25 7) (fld w 18 7) (fld w 11 7) (fld w 8 3)
  | 0x34 => .fcmp (fld w 25 7) (fld w 18 7) (fld w 14 4) (fld w 11 3) (fld w 8 3)
  | 0x35 => decodeMajor35 w
  | 0x38 => .xpick (fld w 25 7) (fld w 18 7) (fld w 11 7) (fld w 8 3)
  | 0x39 => .xrise (fld w 25 7) (fld w 18 7) (fld w 11 7) (fld w 8 3)
  | 0x3A => .xfall (fld w 25 7) (fld w 18 7) (fld w 11 7) (fld w 8 3)
  | 0x3B => .xflip (fld w 25 7) (fld w 18 7) (fld w 11 7) (fld w 8 3)
  | 0x3C => decodeMajor3C w
  | 0x3D => decodeMajor3D w
  | 0x3E => decodeMajor3E w
  | 0x3F => decodeMajor3F w
  | 0x40 => .addG (fld w 25 7) (fld w 18 7) (fld w 11 7) (fld w 8 3)
  | 0x41 => .subG (fld w 25 7) (fld w 18 7) (fld w 11 7) (fld w 8 3)
  | 0x42 => .mulG (fld w 25 7) (fld w 18 7) (fld w 11 7) (fld w 8 3)
  | 0x43 => .mulhiNG (fld w 25 7) (fld w 18 7) (fld w 11 7) (fld w 8 3)
  | 0x44 => .mulhiIG (fld w 25 7) (fld w 18 7) (fld w 11 7) (fld w 8 3)
  | 0x45 => .madG (fld w 25 7) (fld w 18 7) (fld w 11 7) (fld w 8 3)
  | 0x46 => .minIG (fld w 25 7) (fld w 18 7) (fld w 11 7) (fld w 8 3)
  | 0x47 => .maxIG (fld w 25 7) (fld w 18 7) (fld w 11 7) (fld w 8 3)
  | 0x48 => .minNG (fld w 25 7) (fld w 18 7) (fld w 11 7) (fld w 8 3)
  | 0x49 => .maxNG (fld w 25 7) (fld w 18 7) (fld w 11 7) (fld w 8 3)
  | 0x4A => .andG (fld w 25 7) (fld w 18 7) (fld w 11 7) (fld w 8 3)
  | 0x4B => .orG (fld w 25 7) (fld w 18 7) (fld w 11 7) (fld w 8 3)
  | 0x4C => .xorG (fld w 25 7) (fld w 18 7) (fld w 11 7) (fld w 8 3)
  | 0x4D => .andnG (fld w 25 7) (fld w 18 7) (fld w 11 7) (fld w 8 3)
  | 0x4E => .shlG (fld w 25 7) (fld w 18 7) (fld w 11 7) (fld w 8 3)
  | 0x4F => .shrG (fld w 25 7) (fld w 18 7) (fld w 11 7) (fld w 8 3)
  | 0x50 => .sarG (fld w 25 7) (fld w 18 7) (fld w 11 7) (fld w 8 3)
  | 0x51 => .bfeNG (fld w 25 7) (fld w 18 7) (fld w 11 7) (fld w 8 3)
  | 0x52 => .bfeIG (fld w 25 7) (fld w 18 7) (fld w 11 7) (fld w 8 3)
  | 0x53 => .bfiG (fld w 25 7) (fld w 18 7) (fld w 11 7) (fld w 8 3)
  | 0x54 => .bytemixG (fld w 25 7) (fld w 18 7) (fld w 11 7) (fld w 8 3)
  | 0x55 => .selG (fld w 25 7) (fld w 18 7) (fld w 11 7) (fld w 8 3)
  | 0x56 => .divNG (fld w 25 7) (fld w 18 7) (fld w 11 7) (fld w 8 3)
  | 0x57 => .remNG (fld w 25 7) (fld w 18 7) (fld w 11 7) (fld w 8 3)
  | 0x58 => .divIG (fld w 25 7) (fld w 18 7) (fld w 11 7) (fld w 8 3)
  | 0x59 => .remIG (fld w 25 7) (fld w 18 7) (fld w 11 7) (fld w 8 3)
  | 0x5A => .add64G (fld w 25 7) (fld w 18 7) (fld w 11 7) (fld w 8 3)
  | 0x5B => .sub64G (fld w 25 7) (fld w 18 7) (fld w 11 7) (fld w 8 3)
  | 0x5C => .cmpG (fld w 25 7) (fld w 18 7) (fld w 14 4) (fld w 11 3) (fld w 8 3)
  | 0x5D => .cmpiG (fld w 25 7) (fld w 18 7) (fld w 14 4) (fld w 11 3) (fld w 8 3)
  | 0x5E => decodeMajor5E w
  | 0x5F => decodeMajor5F w
  | 0x60 => .addiG (fld w 25 7) (fld w 18 7) (fld w 11 7) (fld w 8 3)
  | 0x61 => .muliG (fld w 25 7) (fld w 18 7) (fld w 11 7) (fld w 8 3)
  | 0x62 => .andiG (fld w 25 7) (fld w 18 7) (fld w 11 7) (fld w 8 3)
  | 0x63 => .oriG (fld w 25 7) (fld w 18 7) (fld w 11 7) (fld w 8 3)
  | 0x64 => .xoriG (fld w 25 7) (fld w 18 7) (fld w 11 7) (fld w 8 3)
  | 0x65 => .shliG (fld w 25 7) (fld w 18 7) (fld w 11 7) (fld w 8 3)
  | 0x66 => .shriG (fld w 25 7) (fld w 18 7) (fld w 11 7) (fld w 8 3)
  | 0x67 => .sariG (fld w 25 7) (fld w 18 7) (fld w 11 7) (fld w 8 3)
  | 0x68 => .ldX1 (fld w 31 1) (fld w 25 6) (fld w 18 7) (fld w 11 7) (fld w 8 3)
  | 0x69 => .ldX2 (fld w 31 1) (fld w 25 6) (fld w 18 7) (fld w 11 7) (fld w 8 3)
  | 0x6A => .ldX4 (fld w 31 1) (fld w 25 6) (fld w 18 7) (fld w 11 7) (fld w 8 3)
  | 0x6B => .stX1 (fld w 31 1) (fld w 25 6) (fld w 18 7) (fld w 11 7) (fld w 8 3)
  | 0x6C => .stX2 (fld w 31 1) (fld w 25 6) (fld w 18 7) (fld w 11 7) (fld w 8 3)
  | 0x6D => .stX4 (fld w 31 1) (fld w 25 6) (fld w 18 7) (fld w 11 7) (fld w 8 3)
  | 0x6E => .atom (fld w 31 1) (fld w 30 1) (fld w 29 1) (fld w 25 4) (fld w 18 7) (fld w 11 7) (fld w 8 3)
  | 0x6F => decodeMajor6F w
  | 0x70 => .ldg (fld w 31 1) (fld w 25 6) (fld w 18 7) (fld w 11 7) (fld w 8 3)
  | 0x71 => .stg (fld w 31 1) (fld w 25 6) (fld w 18 7) (fld w 11 7) (fld w 8 3)
  | 0x72 => .atomg (fld w 31 1) (fld w 30 1) (fld w 29 1) (fld w 25 4) (fld w 18 7) (fld w 11 7) (fld w 8 3)
  | 0x73 => decodeMajor73 w
  | 0x74 => decodeMajor74 w
  | 0x75 => decodeMajor75 w
  | 0x76 => decodeMajor76 w
  | 0x77 => decodeMajor77 w
  | 0x78 => decodeMajor78 w
  | 0x79 => decodeMajor79 w
  | 0x7A => decodeMajor7A w
  | 0x7B => decodeMajor7B w
  | 0x7C => .lit (fld w 8 24)
  | 0x7D => decodeMajor7D w
  | 0x7E => .nop32 (fld w 8 24)
  | 0x7F => if bitsAt w 30 2 = 0 then .clauseHeader (fld w 29 1) (fld w 28 1) (fld w 24 4) (fld w 20 4) (fld w 8 12) else reservedWord w
  | _ => reservedWord w

/-- A 16-bit instruction, by op4 (R152). -/
noncomputable def decode16 (w : Nat) : Instr :=
  match bitsAt w 1 4 with
  | 0 => .mov16 (fld w 11 5) (fld w 5 6)
  | 1 => .add16 (fld w 11 5) (fld w 5 6)
  | 2 => .sub16 (fld w 11 5) (fld w 5 6)
  | 3 => .addi16 (fld w 11 5) (fld w 5 6)
  | 4 => .and16 (fld w 11 5) (fld w 5 6)
  | 5 => .or16 (fld w 11 5) (fld w 5 6)
  | 6 => .xor16 (fld w 11 5) (fld w 5 6)
  | 7 => .shli16 (fld w 11 5) (fld w 5 6)
  | 8 => .shri16 (fld w 11 5) (fld w 5 6)
  | 9 => .sari16 (fld w 11 5) (fld w 5 6)
  | 10 => .minI16 (fld w 11 5) (fld w 5 6)
  | 11 => .maxI16 (fld w 11 5) (fld w 5 6)
  | 12 => .fadd16 (fld w 11 5) (fld w 5 6)
  | 13 => .fsub16 (fld w 11 5) (fld w 5 6)
  | 14 => .fmul16 (fld w 11 5) (fld w 5 6)
  | _ => .fmax16 (fld w 11 5) (fld w 5 6)

/-- Bytes as a number, first byte lowest (R5). -/
def leNat : List Byte → Nat
  | [] => 0
  | b :: bs => b.toNat + 256 * leNat bs

/-- The lowest `n` bytes of a number, first byte lowest (R5). -/
def leBytes : Nat → Nat → List Byte
  | 0, _ => []
  | n + 1, v => BitVec.ofNat 8 v :: leBytes n (v / 256)

/-- The instruction at the start of the bytes and the bytes after it; bit 0 of the first halfword gives the length (R148).
Refused when the bytes end before the instruction does. -/
noncomputable def decodeBytes : List Byte → Option (Instr × List Byte)
  | b0 :: b1 :: rest =>
    if b0.toNat % 2 = 0 then some (decode16 (leNat [b0, b1]), rest)
    else match rest with
      | b2 :: b3 :: rest2 => some (decode32 (leNat [b0, b1, b2, b3]), rest2)
      | _ => none
  | _ => none

/-- The instruction whose bits are `w`, numbered as the opcode table numbers them: laid out as the hardware stores it (little-endian
halfwords, first at the lowest address, R148), zero bits above `nbits`. -/
noncomputable def decodeTableWord (nbits w : Nat) : Option Instr :=
  (decodeBytes (leBytes 8 (w % 2 ^ nbits))).map (·.1)

/-- A word with a field put at bit `lo`. -/
def put {n : Nat} (w : Nat) (f : BitVec n) (lo : Nat) : Nat := w + f.toNat * 2 ^ lo

/-- The length in bits and the word of an encoded instruction; an event of the machine has no word (R149, R152). -/
def encode : Instr → Option (Nat × Nat)
  | .add b a d g => some (32, put (put (put (put 0x1 b 25) a 18) d 11) g 8)
  | .addG b a d g => some (32, put (put (put (put 0x81 b 25) a 18) d 11) g 8)
  | .sub b a d g => some (32, put (put (put (put 0x3 b 25) a 18) d 11) g 8)
  | .subG b a d g => some (32, put (put (put (put 0x83 b 25) a 18) d 11) g 8)
  | .mul b a d g => some (32, put (put (put (put 0x5 b 25) a 18) d 11) g 8)
  | .mulG b a d g => some (32, put (put (put (put 0x85 b 25) a 18) d 11) g 8)
  | .mulhiN b a d g => some (32, put (put (put (put 0x7 b 25) a 18) d 11) g 8)
  | .mulhiNG b a d g => some (32, put (put (put (put 0x87 b 25) a 18) d 11) g 8)
  | .mulhiI b a d g => some (32, put (put (put (put 0x9 b 25) a 18) d 11) g 8)
  | .mulhiIG b a d g => some (32, put (put (put (put 0x89 b 25) a 18) d 11) g 8)
  | .mad b a d g => some (32, put (put (put (put 0xB b 25) a 18) d 11) g 8)
  | .madG b a d g => some (32, put (put (put (put 0x8B b 25) a 18) d 11) g 8)
  | .minI b a d g => some (32, put (put (put (put 0xD b 25) a 18) d 11) g 8)
  | .minIG b a d g => some (32, put (put (put (put 0x8D b 25) a 18) d 11) g 8)
  | .maxI b a d g => some (32, put (put (put (put 0xF b 25) a 18) d 11) g 8)
  | .maxIG b a d g => some (32, put (put (put (put 0x8F b 25) a 18) d 11) g 8)
  | .minN b a d g => some (32, put (put (put (put 0x11 b 25) a 18) d 11) g 8)
  | .minNG b a d g => some (32, put (put (put (put 0x91 b 25) a 18) d 11) g 8)
  | .maxN b a d g => some (32, put (put (put (put 0x13 b 25) a 18) d 11) g 8)
  | .maxNG b a d g => some (32, put (put (put (put 0x93 b 25) a 18) d 11) g 8)
  | .and b a d g => some (32, put (put (put (put 0x15 b 25) a 18) d 11) g 8)
  | .andG b a d g => some (32, put (put (put (put 0x95 b 25) a 18) d 11) g 8)
  | .or b a d g => some (32, put (put (put (put 0x17 b 25) a 18) d 11) g 8)
  | .orG b a d g => some (32, put (put (put (put 0x97 b 25) a 18) d 11) g 8)
  | .xor b a d g => some (32, put (put (put (put 0x19 b 25) a 18) d 11) g 8)
  | .xorG b a d g => some (32, put (put (put (put 0x99 b 25) a 18) d 11) g 8)
  | .andn b a d g => some (32, put (put (put (put 0x1B b 25) a 18) d 11) g 8)
  | .andnG b a d g => some (32, put (put (put (put 0x9B b 25) a 18) d 11) g 8)
  | .shl b a d g => some (32, put (put (put (put 0x1D b 25) a 18) d 11) g 8)
  | .shlG b a d g => some (32, put (put (put (put 0x9D b 25) a 18) d 11) g 8)
  | .shr b a d g => some (32, put (put (put (put 0x1F b 25) a 18) d 11) g 8)
  | .shrG b a d g => some (32, put (put (put (put 0x9F b 25) a 18) d 11) g 8)
  | .sar b a d g => some (32, put (put (put (put 0x21 b 25) a 18) d 11) g 8)
  | .sarG b a d g => some (32, put (put (put (put 0xA1 b 25) a 18) d 11) g 8)
  | .bfeN b a d g => some (32, put (put (put (put 0x23 b 25) a 18) d 11) g 8)
  | .bfeNG b a d g => some (32, put (put (put (put 0xA3 b 25) a 18) d 11) g 8)
  | .bfeI b a d g => some (32, put (put (put (put 0x25 b 25) a 18) d 11) g 8)
  | .bfeIG b a d g => some (32, put (put (put (put 0xA5 b 25) a 18) d 11) g 8)
  | .bfi b a d g => some (32, put (put (put (put 0x27 b 25) a 18) d 11) g 8)
  | .bfiG b a d g => some (32, put (put (put (put 0xA7 b 25) a 18) d 11) g 8)
  | .bytemix b a d g => some (32, put (put (put (put 0x29 b 25) a 18) d 11) g 8)
  | .bytemixG b a d g => some (32, put (put (put (put 0xA9 b 25) a 18) d 11) g 8)
  | .sel b a d p => some (32, put (put (put (put 0x2B b 25) a 18) d 11) p 8)
  | .selG b a d p => some (32, put (put (put (put 0xAB b 25) a 18) d 11) p 8)
  | .divN b a d g => some (32, put (put (put (put 0x2D b 25) a 18) d 11) g 8)
  | .divNG b a d g => some (32, put (put (put (put 0xAD b 25) a 18) d 11) g 8)
  | .remN b a d g => some (32, put (put (put (put 0x2F b 25) a 18) d 11) g 8)
  | .remNG b a d g => some (32, put (put (put (put 0xAF b 25) a 18) d 11) g 8)
  | .divI b a d g => some (32, put (put (put (put 0x31 b 25) a 18) d 11) g 8)
  | .divIG b a d g => some (32, put (put (put (put 0xB1 b 25) a 18) d 11) g 8)
  | .remI b a d g => some (32, put (put (put (put 0x33 b 25) a 18) d 11) g 8)
  | .remIG b a d g => some (32, put (put (put (put 0xB3 b 25) a 18) d 11) g 8)
  | .add64 b a d g => some (32, put (put (put (put 0x35 b 25) a 18) d 11) g 8)
  | .add64G b a d g => some (32, put (put (put (put 0xB5 b 25) a 18) d 11) g 8)
  | .sub64 b a d g => some (32, put (put (put (put 0x37 b 25) a 18) d 11) g 8)
  | .sub64G b a d g => some (32, put (put (put (put 0xB7 b 25) a 18) d 11) g 8)
  | .cmp b a c p g => some (32, put (put (put (put (put 0x39 b 25) a 18) c 14) p 11) g 8)
  | .cmpG b a c p g => some (32, put (put (put (put (put 0xB9 b 25) a 18) c 14) p 11) g 8)
  | .cmpi i a c p g => some (32, put (put (put (put (put 0x3B i 25) a 18) c 14) p 11) g 8)
  | .cmpiG i a c p g => some (32, put (put (put (put (put 0xBB i 25) a 18) c 14) p 11) g 8)
  | .mov a d g => some (32, put (put (put 0x3D a 18) d 11) g 8)
  | .movG a d g => some (32, put (put (put 0xBD a 18) d 11) g 8)
  | .not a d g => some (32, put (put (put 0x200003D a 18) d 11) g 8)
  | .notG a d g => some (32, put (put (put 0x20000BD a 18) d 11) g 8)
  | .neg a d g => some (32, put (put (put 0x400003D a 18) d 11) g 8)
  | .negG a d g => some (32, put (put (put 0x40000BD a 18) d 11) g 8)
  | .abs a d g => some (32, put (put (put 0x600003D a 18) d 11) g 8)
  | .absG a d g => some (32, put (put (put 0x60000BD a 18) d 11) g 8)
  | .popc a d g => some (32, put (put (put 0x800003D a 18) d 11) g 8)
  | .popcG a d g => some (32, put (put (put 0x80000BD a 18) d 11) g 8)
  | .clz a d g => some (32, put (put (put 0xA00003D a 18) d 11) g 8)
  | .clzG a d g => some (32, put (put (put 0xA0000BD a 18) d 11) g 8)
  | .brev a d g => some (32, put (put (put 0xC00003D a 18) d 11) g 8)
  | .brevG a d g => some (32, put (put (put 0xC0000BD a 18) d 11) g 8)
  | .cvtI8I32 a d g => some (32, put (put (put 0x1000003D a 18) d 11) g 8)
  | .cvtI8I32G a d g => some (32, put (put (put 0x100000BD a 18) d 11) g 8)
  | .cvtN8I32 a d g => some (32, put (put (put 0x1200003D a 18) d 11) g 8)
  | .cvtN8I32G a d g => some (32, put (put (put 0x120000BD a 18) d 11) g 8)
  | .cvtI16I32 a d g => some (32, put (put (put 0x1400003D a 18) d 11) g 8)
  | .cvtI16I32G a d g => some (32, put (put (put 0x140000BD a 18) d 11) g 8)
  | .cvtN16I32 a d g => some (32, put (put (put 0x1600003D a 18) d 11) g 8)
  | .cvtN16I32G a d g => some (32, put (put (put 0x160000BD a 18) d 11) g 8)
  | .cvtN32I32 a d g => some (32, put (put (put 0x1800003D a 18) d 11) g 8)
  | .cvtN32I32G a d g => some (32, put (put (put 0x180000BD a 18) d 11) g 8)
  | .cvtI32N32 a d g => some (32, put (put (put 0x1A00003D a 18) d 11) g 8)
  | .cvtI32N32G a d g => some (32, put (put (put 0x1A0000BD a 18) d 11) g 8)
  | .cvtN8N32 a d g => some (32, put (put (put 0x1C00003D a 18) d 11) g 8)
  | .cvtN8N32G a d g => some (32, put (put (put 0x1C0000BD a 18) d 11) g 8)
  | .cvtN16N32 a d g => some (32, put (put (put 0x1E00003D a 18) d 11) g 8)
  | .cvtN16N32G a d g => some (32, put (put (put 0x1E0000BD a 18) d 11) g 8)
  | .pand a d b => some (32, put (put (put 0x3F a 18) d 11) b 8)
  | .pandG a d b => some (32, put (put (put 0xBF a 18) d 11) b 8)
  | .por a d b => some (32, put (put (put 0x200003F a 18) d 11) b 8)
  | .porG a d b => some (32, put (put (put 0x20000BF a 18) d 11) b 8)
  | .pxor a d b => some (32, put (put (put 0x400003F a 18) d 11) b 8)
  | .pxorG a d b => some (32, put (put (put 0x40000BF a 18) d 11) b 8)
  | .pandn a d b => some (32, put (put (put 0x600003F a 18) d 11) b 8)
  | .pandnG a d b => some (32, put (put (put 0x60000BF a 18) d 11) b 8)
  | .pnot a d g => some (32, put (put (put 0x800003F a 18) d 11) g 8)
  | .pnotG a d g => some (32, put (put (put 0x80000BF a 18) d 11) g 8)
  | .pmov a d g => some (32, put (put (put 0xA00003F a 18) d 11) g 8)
  | .pmovG a d g => some (32, put (put (put 0xA0000BF a 18) d 11) g 8)
  | .pset a d g => some (32, put (put (put 0xC00003F a 18) d 11) g 8)
  | .psetG a d g => some (32, put (put (put 0xC0000BF a 18) d 11) g 8)
  | .addi i a d g => some (32, put (put (put (put 0x41 i 25) a 18) d 11) g 8)
  | .addiG i a d g => some (32, put (put (put (put 0xC1 i 25) a 18) d 11) g 8)
  | .muli i a d g => some (32, put (put (put (put 0x43 i 25) a 18) d 11) g 8)
  | .muliG i a d g => some (32, put (put (put (put 0xC3 i 25) a 18) d 11) g 8)
  | .andi i a d g => some (32, put (put (put (put 0x45 i 25) a 18) d 11) g 8)
  | .andiG i a d g => some (32, put (put (put (put 0xC5 i 25) a 18) d 11) g 8)
  | .ori i a d g => some (32, put (put (put (put 0x47 i 25) a 18) d 11) g 8)
  | .oriG i a d g => some (32, put (put (put (put 0xC7 i 25) a 18) d 11) g 8)
  | .xori i a d g => some (32, put (put (put (put 0x49 i 25) a 18) d 11) g 8)
  | .xoriG i a d g => some (32, put (put (put (put 0xC9 i 25) a 18) d 11) g 8)
  | .shli i a d g => some (32, put (put (put (put 0x4B i 25) a 18) d 11) g 8)
  | .shliG i a d g => some (32, put (put (put (put 0xCB i 25) a 18) d 11) g 8)
  | .shri i a d g => some (32, put (put (put (put 0x4D i 25) a 18) d 11) g 8)
  | .shriG i a d g => some (32, put (put (put (put 0xCD i 25) a 18) d 11) g 8)
  | .sari i a d g => some (32, put (put (put (put 0x4F i 25) a 18) d 11) g 8)
  | .sariG i a d g => some (32, put (put (put (put 0xCF i 25) a 18) d 11) g 8)
  | .fadd b a d g => some (32, put (put (put (put 0x51 b 25) a 18) d 11) g 8)
  | .fsub b a d g => some (32, put (put (put (put 0x53 b 25) a 18) d 11) g 8)
  | .fmul b a d g => some (32, put (put (put (put 0x55 b 25) a 18) d 11) g 8)
  | .ffma b a d g => some (32, put (put (put (put 0x57 b 25) a 18) d 11) g 8)
  | .fmin b a d g => some (32, put (put (put (put 0x59 b 25) a 18) d 11) g 8)
  | .fmax b a d g => some (32, put (put (put (put 0x5B b 25) a 18) d 11) g 8)
  | .pkaddF16 b a d g => some (32, put (put (put (put 0x5D b 25) a 18) d 11) g 8)
  | .pkmulF16 b a d g => some (32, put (put (put (put 0x5F b 25) a 18) d 11) g 8)
  | .pkfmaF16 b a d g => some (32, put (put (put (put 0x61 b 25) a 18) d 11) g 8)
  | .pkaddBf16 b a d g => some (32, put (put (put (put 0x63 b 25) a 18) d 11) g 8)
  | .pkmulBf16 b a d g => some (32, put (put (put (put 0x65 b 25) a 18) d 11) g 8)
  | .pkfmaBf16 b a d g => some (32, put (put (put (put 0x67 b 25) a 18) d 11) g 8)
  | .fcmp b a c p g => some (32, put (put (put (put (put 0x69 b 25) a 18) c 14) p 11) g 8)
  | .fneg a d g => some (32, put (put (put 0x6B a 18) d 11) g 8)
  | .fabs a d g => some (32, put (put (put 0x200006B a 18) d 11) g 8)
  | .frcp a d g => some (32, put (put (put 0x400006B a 18) d 11) g 8)
  | .fsqrt a d g => some (32, put (put (put 0x600006B a 18) d 11) g 8)
  | .frsq a d g => some (32, put (put (put 0x800006B a 18) d 11) g 8)
  | .fexp2 a d g => some (32, put (put (put 0xA00006B a 18) d 11) g 8)
  | .flog2 a d g => some (32, put (put (put 0xC00006B a 18) d 11) g 8)
  | .frint a d g => some (32, put (put (put 0xE00006B a 18) d 11) g 8)
  | .cvtF32I32 a d g => some (32, put (put (put 0x2000006B a 18) d 11) g 8)
  | .cvtF32N32 a d g => some (32, put (put (put 0x2200006B a 18) d 11) g 8)
  | .cvtI32F32 a d g => some (32, put (put (put 0x2400006B a 18) d 11) g 8)
  | .cvtN32F32 a d g => some (32, put (put (put 0x2600006B a 18) d 11) g 8)
  | .cvtF16F32 a d g => some (32, put (put (put 0x2800006B a 18) d 11) g 8)
  | .cvtBf16F32 a d g => some (32, put (put (put 0x2A00006B a 18) d 11) g 8)
  | .cvtF32F16 a d g => some (32, put (put (put 0x2C00006B a 18) d 11) g 8)
  | .cvtF32Bf16 a d g => some (32, put (put (put 0x2E00006B a 18) d 11) g 8)
  | .cvtE4m3F32 a d g => some (32, put (put (put 0x3000006B a 18) d 11) g 8)
  | .cvtE5m2F32 a d g => some (32, put (put (put 0x3200006B a 18) d 11) g 8)
  | .cvtF32E4m3 a d g => some (32, put (put (put 0x3400006B a 18) d 11) g 8)
  | .cvtF32E5m2 a d g => some (32, put (put (put 0x3600006B a 18) d 11) g 8)
  | .cvtBf16F16 a d g => some (32, put (put (put 0x3800006B a 18) d 11) g 8)
  | .cvtF16Bf16 a d g => some (32, put (put (put 0x3A00006B a 18) d 11) g 8)
  | .cvtI8F32 a d g => some (32, put (put (put 0x3C00006B a 18) d 11) g 8)
  | .cvtN8F32 a d g => some (32, put (put (put 0x3E00006B a 18) d 11) g 8)
  | .xpick b a d g => some (32, put (put (put (put 0x71 b 25) a 18) d 11) g 8)
  | .xrise b a d g => some (32, put (put (put (put 0x73 b 25) a 18) d 11) g 8)
  | .xfall b a d g => some (32, put (put (put (put 0x75 b 25) a 18) d 11) g 8)
  | .xflip b a d g => some (32, put (put (put (put 0x77 b 25) a 18) d 11) g 8)
  | .qswapH a d g => some (32, put (put (put 0x79 a 18) d 11) g 8)
  | .qswapV a d g => some (32, put (put (put 0x2000079 a 18) d 11) g 8)
  | .qswapD a d g => some (32, put (put (put 0x4000079 a 18) d 11) g 8)
  | .qbcast0 a d g => some (32, put (put (put 0x8000079 a 18) d 11) g 8)
  | .qbcast1 a d g => some (32, put (put (put 0xA000079 a 18) d 11) g 8)
  | .qbcast2 a d g => some (32, put (put (put 0xC000079 a 18) d 11) g 8)
  | .qbcast3 a d g => some (32, put (put (put 0xE000079 a 18) d 11) g 8)
  | .xall a d g => some (32, put (put (put 0x7B a 18) d 11) g 8)
  | .xany a d g => some (32, put (put (put 0x200007B a 18) d 11) g 8)
  | .xsame a d g => some (32, put (put (put 0x400007B a 18) d 11) g 8)
  | .xmask a d g => some (32, put (put (put 0x600007B a 18) d 11) g 8)
  | .xeq a d g => some (32, put (put (put 0x800007B a 18) d 11) g 8)
  | .xeqall a d g => some (32, put (put (put 0xA00007B a 18) d 11) g 8)
  | .xcount a d g => some (32, put (put (put 0xC00007B a 18) d 11) g 8)
  | .rdxAdd a d g => some (32, put (put (put 0x7D a 18) d 11) g 8)
  | .rdxMinI a d g => some (32, put (put (put 0x200007D a 18) d 11) g 8)
  | .rdxMaxI a d g => some (32, put (put (put 0x400007D a 18) d 11) g 8)
  | .rdxMinN a d g => some (32, put (put (put 0x600007D a 18) d 11) g 8)
  | .rdxMaxN a d g => some (32, put (put (put 0x800007D a 18) d 11) g 8)
  | .rdxAnd a d g => some (32, put (put (put 0xA00007D a 18) d 11) g 8)
  | .rdxOr a d g => some (32, put (put (put 0xC00007D a 18) d 11) g 8)
  | .rdxXor a d g => some (32, put (put (put 0xE00007D a 18) d 11) g 8)
  | .rdxFadd a d g => some (32, put (put (put 0x1000007D a 18) d 11) g 8)
  | .rdxFmin a d g => some (32, put (put (put 0x1200007D a 18) d 11) g 8)
  | .rdxFmax a d g => some (32, put (put (put 0x1400007D a 18) d 11) g 8)
  | .readlane n a d g => some (32, put (put (put (put 0x7F n 25) a 18) d 11) g 8)
  | .writelane n a d g => some (32, put (put (put (put 0x4000007F n 25) a 18) d 11) g 8)
  | .readfirst a d g => some (32, put (put (put 0x8000007F a 18) d 11) g 8)
  | .ldX1 s o i d b => some (32, put (put (put (put (put 0xD1 s 31) o 25) i 18) d 11) b 8)
  | .ldX2 s o i d b => some (32, put (put (put (put (put 0xD3 s 31) o 25) i 18) d 11) b 8)
  | .ldX4 s o i d b => some (32, put (put (put (put (put 0xD5 s 31) o 25) i 18) d 11) b 8)
  | .stX1 s o i d b => some (32, put (put (put (put (put 0xD7 s 31) o 25) i 18) d 11) b 8)
  | .stX2 s o i d b => some (32, put (put (put (put (put 0xD9 s 31) o 25) i 18) d 11) b 8)
  | .stX4 s o i d b => some (32, put (put (put (put (put 0xDB s 31) o 25) i 18) d 11) b 8)
  | .atom s c r p i d b => some (32, put (put (put (put (put (put (put 0xDD s 31) c 30) r 29) p 25) i 18) d 11) b 8)
  | .red s c p i d b => some (32, put (put (put (put (put (put 0xDF s 31) c 30) p 25) i 18) d 11) b 8)
  | .redDet s c p i d b => some (32, put (put (put (put (put (put 0x200000DF s 31) c 30) p 25) i 18) d 11) b 8)
  | .ldg s o i d b => some (32, put (put (put (put (put 0xE1 s 31) o 25) i 18) d 11) b 8)
  | .stg s o i d b => some (32, put (put (put (put (put 0xE3 s 31) o 25) i 18) d 11) b 8)
  | .atomg s c r p i d b => some (32, put (put (put (put (put (put (put 0xE5 s 31) c 30) r 29) p 25) i 18) d 11) b 8)
  | .ldAcq s c i d b => some (32, put (put (put (put (put 0xE7 s 31) c 28) i 18) d 11) b 8)
  | .stRel s c i d b => some (32, put (put (put (put (put 0x20000E7 s 31) c 28) i 18) d 11) b 8)
  | .fenceAcq s c => some (32, put (put 0x40001E7 s 31) c 28)
  | .fenceRel s c => some (32, put (put 0x40002E7 s 31) c 28)
  | .fenceAr s c => some (32, put (put 0x40003E7 s 31) c 28)
  | .icinv s => some (32, put 0x60000E7 s 31)
  | .cinv s c b => some (32, put (put (put 0x80000E7 s 31) c 28) b 8)
  | .prefetch s c i b => some (32, put (put (put (put 0xA0000E7 s 31) c 28) i 18) b 8)
  | .stSpill s i d b => some (32, put (put (put (put 0xC0000E7 s 31) i 18) d 11) b 8)
  | .ldSpill s i d b => some (32, put (put (put (put 0xE0000E7 s 31) i 18) d 11) b 8)
  | .ldrec n d => some (32, put (put 0xE9 n 18) d 11)
  | .rsub n s d => some (32, put (put (put 0x20000E9 n 18) s 14) d 11)
  | .rdrec s d => some (32, put (put 0x40000E9 s 18) d 11)
  | .iwiden n x s => some (32, put (put (put 0x60000E9 n 18) x 11) s 8)
  | .iunpin x s => some (32, put (put 0x80000E9 x 11) s 8)
  | .ishadow x d s => some (32, put (put (put 0xA0000E9 x 18) d 11) s 8)
  | .itop x s => some (32, put (put 0xC0000E9 x 11) s 8)
  | .ichk x b s => some (32, put (put (put 0xE0000E9 x 18) b 11) s 8)
  | .brcV d t p => some (32, put (put (put 0xEB d 24) t 12) p 8)
  | .brcG t p => some (32, put (put 0x8EB t 12) p 8)
  | .bra o => some (32, put 0xED o 9)
  | .call o => some (32, put 0x1ED o 9)
  | .ret => some (32, 0xEF)
  | .calli a => some (32, put 0x20000EF a 18)
  | .exit g => some (32, put 0x40000EF g 8)
  | .yield => some (32, 0x60000EF)
  | .brk c => some (32, put 0x80000EF c 18)
  | .trap c g => some (32, put (put 0xA0000EF c 18) g 8)
  | .setfmt a => some (32, put 0xC0000EF a 18)
  | .getfmt d => some (32, put 0xE0000EF d 11)
  | .setexec a => some (32, put 0x100000EF a 18)
  | .getexec d => some (32, put 0x120000EF d 11)
  | .barSync i n => some (32, put (put 0x140000EF i 18) n 11)
  | .barArrive i n => some (32, put (put 0x160000EF i 18) n 11)
  | .cbarSync => some (32, 0x180000EF)
  | .kget k d => some (32, put (put 0x1A0000EF k 18) d 11)
  | .kset k s => some (32, put (put 0x1C0000EF k 18) s 11)
  | .kadd k d => some (32, put (put 0x1E0000EF k 18) d 11)
  | .kcas k d => some (32, put (put 0x200000EF k 18) d 11)
  | .mbarInit s i d b => some (32, put (put (put (put 0xF1 s 31) i 18) d 11) b 8)
  | .mbarArrive s i d b => some (32, put (put (put (put 0x20000F1 s 31) i 18) d 11) b 8)
  | .mbarWait s i d b => some (32, put (put (put (put 0x40000F1 s 31) i 18) d 11) b 8)
  | .mbarTest s i d b => some (32, put (put (put (put 0x60000F1 s 31) i 18) d 11) b 8)
  | .gang a => some (32, put 0xF3 a 18)
  | .mma s m b c v => some (32, put (put (put (put (put 0x1F3 s 31) m 26) b 23) c 19) v 12)
  | .tmma s m b c v => some (32, put (put (put (put (put 0x2F3 s 31) m 26) b 23) c 19) v 12)
  | .mzero s m => some (32, put (put 0x3F3 s 31) m 26)
  | .mld s m b c t => some (32, put (put (put (put (put 0x4F3 s 31) m 26) b 23) c 18) t 17)
  | .mst s m b c a i => some (32, put (put (put (put (put (put 0x5F3 s 31) m 26) b 23) c 18) a 17) i 11)
  | .mrd s m d q => some (32, put (put (put (put 0x6F3 s 31) m 26) d 18) q 15)
  | .mrdSt s m d => some (32, put (put (put 0x20006F3 s 31) m 26) d 18)
  | .mwr s m v q => some (32, put (put (put (put 0x7F3 s 31) m 26) v 18) q 15)
  | .copy s c g => some (32, put (put (put 0xF5 s 31) c 18) g 8)
  | .cstep s a g => some (32, put (put (put 0x20000F5 s 31) a 18) g 8)
  | .cwait s c g => some (32, put (put (put 0x40000F5 s 31) c 18) g 8)
  | .ctest s c p => some (32, put (put (put 0x60000F5 s 31) c 18) p 11)
  | .cadd s c => some (32, put (put 0x80000F5 s 31) c 18)
  | .spawn s c v g => some (32, put (put (put (put 0xF7 s 31) c 18) v 11) g 8)
  | .join s c g => some (32, put (put (put 0x20000F7 s 31) c 18) g 8)
  | .exitJ s => some (32, put 0x40000F7 s 31)
  | .rinv s n v p => some (32, put (put (put (put 0x60000F7 s 31) n 18) v 11) p 8)
  | .rinvT s n v p => some (32, put (put (put (put 0x80000F7 s 31) n 18) v 11) p 8)
  | .arm s c d => some (32, put (put (put 0xA0000F7 s 31) c 18) d 11)
  | .disarm s h d => some (32, put (put (put 0xC0000F7 s 31) h 18) d 11)
  | .post s c v g => some (32, put (put (put (put 0xE0000F7 s 31) c 18) v 11) g 8)
  | .lit p => some (32, put 0xF9 p 8)
  | .rteFix => some (32, 0xFB)
  | .rteSkip => some (32, 0x400FB)
  | .rteRetry => some (32, 0x800FB)
  | .rteKill => some (32, 0xC00FB)
  | .sread n d h => some (32, put (put (put 0x20000FB n 18) d 11) h 8)
  | .swrite n s h => some (32, put (put (put 0x40000FB n 18) s 11) h 8)
  | .saveGroup i b => some (32, put (put 0x60000FB i 18) b 8)
  | .saveBlock i b => some (32, put (put 0x60008FB i 18) b 8)
  | .restoreGroup i b => some (32, put (put 0x80000FB i 18) b 8)
  | .restoreBlock i b => some (32, put (put 0x80008FB i 18) b 8)
  | .pgrefRead a d => some (32, put (put 0xA0000FB a 18) d 11)
  | .pgrefInc a d => some (32, put (put 0xA0001FB a 18) d 11)
  | .pgrefDec a d => some (32, put (put 0xA0002FB a 18) d 11)
  | .cresume a d => some (32, put (put 0xC0000FB a 18) d 11)
  | .nop32 x => some (32, put 0xFD x 8)
  | .clauseHeader s y b a w => some (32, put (put (put (put (put 0xFF s 29) y 28) b 24) a 20) w 8)
  | .mov16 s d => some (16, put (put 0x0 s 11) d 5)
  | .add16 s d => some (16, put (put 0x2 s 11) d 5)
  | .sub16 s d => some (16, put (put 0x4 s 11) d 5)
  | .addi16 i d => some (16, put (put 0x6 i 11) d 5)
  | .and16 s d => some (16, put (put 0x8 s 11) d 5)
  | .or16 s d => some (16, put (put 0xA s 11) d 5)
  | .xor16 s d => some (16, put (put 0xC s 11) d 5)
  | .shli16 i d => some (16, put (put 0xE i 11) d 5)
  | .shri16 i d => some (16, put (put 0x10 i 11) d 5)
  | .sari16 i d => some (16, put (put 0x12 i 11) d 5)
  | .minI16 s d => some (16, put (put 0x14 s 11) d 5)
  | .maxI16 s d => some (16, put (put 0x16 s 11) d 5)
  | .fadd16 s d => some (16, put (put 0x18 s 11) d 5)
  | .fsub16 s d => some (16, put (put 0x1A s 11) d 5)
  | .fmul16 s d => some (16, put (put 0x1C s 11) d 5)
  | .fmax16 s d => some (16, put (put 0x1E s 11) d 5)
  | .groupStart _ => none
  | .taskGroupStart _ => none
  | .resumeStart _ => none
  | .fragmentProceed _ _ => none
  | .fragmentRotation _ => none
  | .groupEnd _ => none
  | .launchEnd _ => none
  | .loadCompletion _ => none
  | .storeCompletion _ => none
  | .atomicCompletion _ => none
  | .reductionCompletion _ => none
  | .fenceCompletion _ => none
  | .cinvCompletion _ => none
  | .matrixCompletion _ => none
  | .tileOpCompletion _ => none
  | .keystoneJointIssue _ _ => none
  | .bStreamEnd _ => none
  | .copyCompletion _ _ => none
  | .copySuspend _ _ => none
  | .copyAbort _ _ => none
  | .stageIssue _ _ => none
  | .caddCompletion _ => none
  | .spawnCompletion _ => none
  | .postCompletion _ => none
  | .binTimerExpiry _ _ _ => none
  | .ringDrain _ _ => none
  | .quarryTake _ => none
  | .stealRequest _ => none
  | .stealArrival _ => none
  | .beaconCompletion _ => none
  | .armCompletion _ => none
  | .disarmCompletion _ => none
  | .arrivalNote _ _ => none
  | .cairnPostRetry _ => none
  | .trapEntry _ _ => none
  | .watchdogExpiry _ => none
  | .placementAttempt _ => none
  | .clusterCommit _ => none
  | .timeSliceExpiry _ => none
  | .remoteRead _ => none
  | .remoteWrite _ => none
  | .remoteAtomic _ => none
  | .remoteReduction _ => none
  | .beacon _ => none
  | .refusal _ => none
  | .readResponse _ => none
  | .acknowledgement _ => none
  | .atomicResponse _ => none
  | .reservedPacket _ => none
  | .linkNakReplay _ _ => none
  | .linkTrainingDone _ _ => none
  | .linkTrainingFail _ => none
  | .portEnable _ => none
  | .portRetrain _ => none
  | .portDisable _ => none
  | .mrouteWrite _ _ => none
  | .directoryWriteConflict _ _ _ => none
  | .invalidationAnswer _ _ _ => none
  | .evictionNotice _ _ _ => none
  | .regionMerge _ _ _ => none
  | .activationAlert _ => none
  | .perBankRefresh _ => none
  | .migrationDoorbell _ => none
  | .migrationCopyDone _ => none
  | .migrationAbort _ => none
  | .domainDrain _ _ => none
  | .domainDrainDone _ _ => none
  | .domainCommit _ _ => none
  | .domainCommitDone _ _ => none
  | .sqTailWrite _ _ => none
  | .queueEntryNop _ => none
  | .queueEntryLaunch _ => none
  | .queueEntryTask _ => none
  | .queueEntryCairnArm _ => none
  | .queueEntryCairnDisarm _ => none
  | .taskEntryRetry _ => none
  | .sqResume _ _ => none
  | .hostPreemptionRequest _ _ => none
  | .partitionConfigure _ => none
  | .partitionAbandon _ => none
  | .partitionActivate _ => none
  | .partitionDrain _ => none
  | .partitionDrained _ => none
  | .frameOwnershipGo _ => none
  | .frameScrubDone => none
  | .hostWrite _ _ _ => none
  | .hostRead _ _ _ => none
  | .moduleReset => none
  | .recoveryGoImage => none
  | .recoveryGoRecord => none
  | .recoveryGoToken => none
  | .recoveryEnter => none
  | .governorSample _ _ _ => none
  | .thermalThrottle _ _ => none
  | .thermalShutdown _ _ => none
  | .getVersion _ => none
  | .getCapabilities _ => none
  | .negotiateAlgorithms _ => none
  | .getDigests _ => none
  | .getCertificate _ => none
  | .challenge _ => none
  | .getMeasurements _ => none
  | .keyExchange _ => none
  | .finish _ => none
  | .endSession _ => none
  | .ideKm _ _ => none
  | .registerWrite _ _ _ => none
  | .flit _ _ => none
  | .hostSnoop _ => none
  | .saveRestoreCompletion _ => none
  | .reservedEncoding w => some (32, w.toNat)

end Sys2Proof
end

