-- ==== Sys2Proof/Machine/Map.lean ====
section
/-!
DEFINITION. Sparse data by number (`KMap`) and memory as its canonical list of cells: an unlisted byte reads as
zero, and a cell that would hold zero is not listed.
-/
namespace Sys2Proof.Machine

/-- What a map holds at a key, if anything. -/
def kfind {α : Type} : KMap α → Nat → Option α
  | [], _ => none
  | (j, v) :: t, k => if k = j then some v else kfind t k

/-- What a map holds at a key, or the default. -/
def kget {α : Type} (d : α) (m : KMap α) (k : Nat) : α := (kfind m k).getD d

/-- The map with a key holding a value; keys stay rising. -/
def kput {α : Type} : KMap α → Nat → α → KMap α
  | [], k, v => [(k, v)]
  | (j, w) :: t, k, v =>
    if k = j then (k, v) :: t else if k < j then (k, v) :: (j, w) :: t else (j, w) :: kput t k v

/-- The map with a key holding nothing. -/
def kdel {α : Type} : KMap α → Nat → KMap α
  | [], _ => []
  | (j, w) :: t, k => if k = j then kdel t k else (j, w) :: kdel t k

/-- Change what stands at a key, when something does. -/
def kmod {α : Type} (m : KMap α) (k : Nat) (f : α → α) : KMap α :=
  match kfind m k with
  | none => m
  | some v => kput m k (f v)

/-- Apply a change to every value. -/
def kmap {α : Type} (f : Nat → α → α) : KMap α → KMap α
  | [] => []
  | (j, v) :: t => (j, f j v) :: kmap f t

/-- Put a list of pairs, first to last. -/
def kputAll {α : Type} (m : KMap α) : List (Nat × α) → KMap α
  | [] => m
  | (k, v) :: t => kputAll (kput m k v) t

/-- Keys strictly rising from a bound. -/
def risingFrom {α : Type} : Nat → List (Nat × α) → Bool
  | _, [] => true
  | n, (k, _) :: t => n ≤ k && risingFrom (k + 1) t

/-- Memory in its canonical form: addresses strictly rising, no listed byte zero. -/
abbrev Memory.wf (m : List Host.Cell) : Prop := risingFrom 0 m = true ∧ m.all (fun c => c.2 != 0) = true

/-- One byte of memory; an unlisted byte reads as zero. -/
def mget (m : List Host.Cell) (a : Nat) : Byte := kget 0 m a

/-- Memory with one byte written. -/
def mput (m : List Host.Cell) (a : Nat) (b : Byte) : List Host.Cell := if b = 0 then kdel m a else kput m a b

/-- `n` bytes from an address, lowest first. -/
def mreads (m : List Host.Cell) : Nat → Nat → List Byte
  | _, 0 => []
  | a, n + 1 => mget m a :: mreads m (a + 1) n

/-- Memory with bytes written at consecutive addresses. -/
def mwrites (m : List Host.Cell) : Nat → List Byte → List Host.Cell
  | _, [] => m
  | a, b :: bs => mwrites (mput m a b) (a + 1) bs

/-- Memory with bytes written at listed addresses, first to last. -/
def mputAll (m : List Host.Cell) : List Host.Cell → List Host.Cell
  | [] => m
  | (a, b) :: t => mputAll (mput m a b) t

end Sys2Proof.Machine
end

