-- ==== Sys2Proof/Machine/Bits.lean ====
section
/-!
DEFINITION. Bit fields, byte order, lane masks and integer intervals (R5, R9, R55, R58).
-/
namespace Sys2Proof.Machine

/-- Bits hi..lo of a number. -/
def bits (w hi lo : Nat) : Nat := w / 2 ^ lo % 2 ^ (hi + 1 - lo)
/-- One bit of a number. -/
def bitOf (w i : Nat) : Bool := w / 2 ^ i % 2 == 1
/-- Bits hi..lo of a 32-bit word. -/
def wbits (w : Word) (hi lo : Nat) : Nat := bits w.toNat hi lo
/-- A 32-bit word from a number. -/
def word (n : Nat) : Word := BitVec.ofNat 32 n
/-- A 32-bit word from an integer. -/
def wordI (i : Int) : Word := BitVec.ofInt 32 i
/-- A truth value as 0 or 1. -/
def b2n (b : Bool) : Nat := if b then 1 else 0

/-- Little-endian bytes as a number (R5). -/
def leVal : List Byte → Nat
  | [] => 0
  | b :: bs => b.toNat + 256 * leVal bs
/-- The lowest `n` bytes of a number, lowest first (R5). -/
def leOut : Nat → Nat → List Byte
  | 0, _ => []
  | n + 1, v => BitVec.ofNat 8 v :: leOut n (v / 256)
/-- Bytes `lo` to `lo + n − 1` of a byte list as a number; a byte past the end is zero. -/
def leAt (bs : List Byte) (lo n : Nat) : Nat := leVal ((bs.drop lo).take n)
/-- Replace the bytes from `lo` on by others. -/
def splice (bs : List Byte) (lo : Nat) (new : List Byte) : List Byte :=
  bs.take lo ++ new ++ bs.drop (lo + new.length)

/-- The lanes of a group, lowest first (R9). -/
def lanes : List Nat := List.range 32
/-- Whether a lane is in a mask. -/
def inMask (m : Mask) (l : Nat) : Bool := m.getLsbD l
/-- The lanes of a mask, lowest first. -/
def lanesOf (m : Mask) : List Nat := lanes.filter (inMask m)
/-- The mask of the lanes that satisfy a test. -/
def maskOf (p : Nat → Bool) : Mask := lanes.foldl (fun m l => if p l then m ||| (1#32 <<< l) else m) 0
/-- The mask of one lane. -/
def lane1 (l : Nat) : Mask := 1#32 <<< l
/-- The mask of every lane. -/
def allLanes : Mask := 0xFFFFFFFF#32
/-- How many lanes a mask holds. -/
def countMask (m : Mask) : Nat := (lanesOf m).length
/-- The lowest lane of a mask. -/
def lowest (m : Mask) : Option Nat := (lanesOf m).head?

/-- The signed value of a word, the reading every shadow uses (R55). -/
def sgn (w : Word) : Int := w.toInt
/-- The least and the largest signed 32-bit value. -/
def minI : Int := -2147483648
def maxI : Int := 2147483647

/-- An interval of integers (R55). -/
structure Iv where
  lo : Int
  hi : Int
  deriving DecidableEq, Repr

/-- The interval TOP (R55). -/
def top : Iv := ⟨minI, maxI⟩
/-- A one-point interval. -/
def point (i : Int) : Iv := ⟨i, i⟩
/-- The hull of two intervals. -/
def hull (a b : Iv) : Iv := ⟨min a.lo b.lo, max a.hi b.hi⟩
/-- The intersection of two intervals. -/
def meet (a b : Iv) : Iv := ⟨max a.lo b.lo, min a.hi b.hi⟩
/-- An interval, or TOP where a bound leaves the signed 32-bit range (R58). -/
def orTop (a : Iv) : Iv := if minI ≤ a.lo ∧ a.hi ≤ maxI ∧ a.lo ≤ maxI ∧ minI ≤ a.hi then a else top
/-- Whether a value lies in an interval. -/
def Iv.has (a : Iv) (i : Int) : Bool := a.lo ≤ i && i ≤ a.hi

end Sys2Proof.Machine
end

