-- ==== Sys2Proof/Machine/Float.lean ====
section
/-!
DEFINITION. Floating-point formats, exact values and the one rounding of the device (R101 to R114): every result is an exact
dyadic value, or an exact value known to lie strictly above one, rounded once.
-/
namespace Sys2Proof.Machine

/-- A floating-point format (R101): widths, bias, and whether the top exponent holds infinities and NaNs. -/
structure Fmt where
  ebits : Nat
  fbits : Nat
  bias : Nat
  ieee : Bool := true
  deriving DecidableEq, Repr

def fp32 : Fmt := ⟨8, 23, 127, true⟩
def fp16 : Fmt := ⟨5, 10, 15, true⟩
def bf16 : Fmt := ⟨8, 7, 127, true⟩
def e4m3 : Fmt := ⟨4, 3, 7, false⟩
def e5m2 : Fmt := ⟨5, 2, 15, true⟩

/-- The sign bit's weight. -/
def Fmt.signBit (f : Fmt) : Nat := 2 ^ (f.ebits + f.fbits)
/-- The encoding of positive infinity. -/
def Fmt.infEnc (f : Fmt) : Nat := (2 ^ f.ebits - 1) * 2 ^ f.fbits
/-- The encoding of the largest finite value (R101). -/
def Fmt.maxEnc (f : Fmt) : Nat := if f.ieee then f.infEnc - 1 else f.signBit - 2
/-- The canonical NaN (R101, R102). -/
def Fmt.nanEnc (f : Fmt) : Nat := if f.ieee then f.infEnc + 2 ^ (f.fbits - 1) else f.signBit - 1
/-- The exponent of the smallest subnormal. -/
def Fmt.emin (f : Fmt) : Int := 1 - (f.bias : Int) - f.fbits

/-- A value read from an encoding: NaN, an infinity, or (−1)^neg × m × 2^e, zero with its sign (R101). -/
inductive FVal
  | nan
  | inf (neg : Bool)
  | fin (neg : Bool) (m : Nat) (e : Int)
  deriving DecidableEq, Repr

/-- The value of an encoding (R101, R103). -/
def Fmt.decode (f : Fmt) (n : Nat) : FVal :=
  let neg := n / f.signBit % 2 == 1
  let ex := n / 2 ^ f.fbits % 2 ^ f.ebits
  let fr := n % 2 ^ f.fbits
  if f.ieee && ex == 2 ^ f.ebits - 1 then (if fr = 0 then .inf neg else .nan)
  else if !f.ieee && n % f.signBit == f.signBit - 1 then .nan
  else if ex = 0 then .fin neg fr f.emin
  else .fin neg (2 ^ f.fbits + fr) (f.emin + ((ex : Int) - 1))

/-- Whether a value is a zero. -/
def FVal.isZero : FVal → Bool
  | .fin _ m _ => m == 0
  | _ => false
/-- The sign of a value; a NaN counts as positive. -/
def FVal.isNeg : FVal → Bool
  | .nan => false
  | .inf n => n
  | .fin n _ _ => n
/-- Whether a value is finite. -/
def FVal.isFin : FVal → Bool
  | .fin _ _ _ => true
  | _ => false

/-- Number of bits of a number: 0 for 0. -/
def bitLen (n : Nat) : Nat := if n = 0 then 0 else Nat.log2 n + 1

/-- Round up or not: `rem` of `2 × half` was cut off, and more when `sticky` (R108). -/
def roundUp (mode : Nat) (neg odd : Bool) (rem half : Nat) (sticky : Bool) : Bool :=
  match mode with
  | 0 => half < rem || (rem == half && (sticky || odd))
  | 1 => false
  | 2 => !neg && (rem != 0 || sticky)
  | _ => neg && (rem != 0 || sticky)

/-- Round m × 2^e, or a value strictly between it and (m + 1) × 2^e when `sticky`, to the format's precision with an unbounded
exponent (R108): the magnitude as exponent field × 2^fbits + fraction, which may exceed `maxEnc`. -/
def Fmt.roundMag (f : Fmt) (mode : Nat) (neg : Bool) (m : Nat) (e : Int) (sticky : Bool) : Nat :=
  let q := max ((bitLen m : Int) - 1 + e - f.fbits) f.emin
  let sh := (q - e).toNat
  let sig := if q ≤ e then m * 2 ^ (e - q).toNat else m / 2 ^ sh
  let rem := if q ≤ e then 0 else m % 2 ^ sh
  let half := if q ≤ e then 1 else 2 ^ (sh - 1)
  let sig := if roundUp mode neg (sig % 2 == 1) rem half sticky then sig + 1 else sig
  let (sig, q) := if sig = 2 ^ (f.fbits + 1) then (sig / 2, q + 1) else (sig, q)
  if sig < 2 ^ f.fbits then sig else (q - f.emin + 1).toNat * 2 ^ f.fbits + (sig - 2 ^ f.fbits)

/-- What an overflow becomes under the R108 table. -/
def Fmt.overflow (f : Fmt) (mode : Nat) (neg : Bool) : Nat :=
  let inf := match mode with | 0 => true | 1 => false | 2 => !neg | _ => neg
  if inf then f.infEnc else f.maxEnc

/-- With a sign. -/
def Fmt.withSign (f : Fmt) (neg : Bool) (mag : Nat) : Nat := if neg then mag + f.signBit else mag

/-- Round a nonzero exact value (R108); the second part tells whether it overflowed. -/
def Fmt.round (f : Fmt) (mode : Nat) (neg : Bool) (m : Nat) (e : Int) (sticky : Bool) : Nat × Bool :=
  let mag := f.roundMag mode neg m e sticky
  if f.maxEnc < mag then (f.withSign neg (f.overflow mode neg), true) else (f.withSign neg mag, false)

/-- An exact result: rounded once; NaN canonical (R102, R108). Formats without infinities are for `toFp8`. -/
def Fmt.encode (f : Fmt) (mode : Nat) (v : FVal) : Nat × Bool :=
  match v with
  | .nan => (f.nanEnc, false)
  | .inf n => (f.withSign n f.infEnc, false)
  | .fin n 0 _ => (f.withSign n 0, false)
  | .fin n m e => f.round mode n m e false

/-- Rounding to an FP8 format under fmt.f8ov (R114). -/
def Fmt.encodeFp8 (f : Fmt) (mode : Nat) (f8ov : Bool) (v : FVal) : Nat :=
  match v with
  | .nan => f.nanEnc
  | .inf n => if f8ov then (if f.ieee then f.withSign n f.infEnc else f.nanEnc) else f.withSign n f.maxEnc
  | .fin n 0 _ => f.withSign n 0
  | .fin n m e =>
    let mag := f.roundMag mode n m e false
    if mag ≤ f.maxEnc then f.withSign n mag
    else if !f8ov then f.withSign n f.maxEnc
    else if f.ieee then f.withSign n (f.overflow mode n) else f.nanEnc

/-- Signed integer times 2^k for the exponent alignment of a sum. -/
def FVal.scaled (v : FVal) (base : Int) : Int :=
  match v with
  | .fin n m e => let x : Int := (m : Int) * (2 : Int) ^ (e - base).toNat; if n then -x else x
  | _ => 0
/-- The exponent of a finite value. -/
def FVal.exp (v : FVal) : Int := match v with | .fin _ _ e => e | _ => 0

/-- An integer times 2^e as a value; a zero takes the given sign. -/
def ofInt (x : Int) (e : Int) (zeroNeg : Bool) : FVal := if x = 0 then .fin zeroNeg 0 e else .fin (x < 0) x.natAbs e

/-- The exact sum of terms, each counted once (R103, R110, R116): infinities of both signs or a NaN give NaN. -/
def sumTerms (mode : Nat) (ts : List FVal) : FVal :=
  let pos := ts.any fun t => t == .inf false
  let neg := ts.any fun t => t == .inf true
  if ts.any (· == .nan) || (pos && neg) then .nan
  else if pos then .inf false
  else if neg then .inf true
  else
    let base := ts.foldl (fun b t => min b t.exp) 0
    let total := ts.foldl (fun a t => a + t.scaled base) 0
    let anyNeg := ts.any FVal.isNeg
    let anyPos := ts.any fun t => !t.isNeg
    ofInt total base (anyNeg && (!anyPos || mode == 3))

/-- An exact product (R110, R116): 0 × ∞ is NaN. -/
def mulExact (a b : FVal) : FVal :=
  match a, b with
  | .nan, _ => .nan
  | _, .nan => .nan
  | .inf n, .inf k => .inf (n != k)
  | .inf n, .fin k m _ => if m = 0 then .nan else .inf (n != k)
  | .fin k m _, .inf n => if m = 0 then .nan else .inf (n != k)
  | .fin n m e, .fin k p g => .fin (n != k) (m * p) (e + g)

/-- The value with its sign inverted. -/
def FVal.neg : FVal → FVal
  | .nan => .nan
  | .inf n => .inf (!n)
  | .fin n m e => .fin (!n) m e

/-- FP32 readings and results. -/
def f32 (w : Word) : FVal := fp32.decode w.toNat
def toF32 (mode : Nat) (v : FVal) : Word := word (fp32.encode mode v).1

/-- Ordering of two finite or infinite values as integers at one exponent: −1, 0 or 1; zeros equal. -/
def cmpVal (a b : FVal) : Int :=
  let rank := fun (v : FVal) => match v with | .inf true => (-1 : Int) | .inf false => 1 | _ => 0
  if rank a ≠ rank b then (if rank a < rank b then -1 else 1)
  else
    let base := min (a.exp) (b.exp)
    let x := a.scaled base; let y := b.scaled base
    if x < y then -1 else if x = y then 0 else 1

/-- Minimum or maximum under R109: −0 below +0, a NaN gives the other operand, two NaNs the canonical NaN. -/
def minMax32 (isMax : Bool) (a b : Word) : Word :=
  match f32 a, f32 b with
  | .nan, .nan => word fp32.nanEnc
  | .nan, _ => b
  | _, .nan => a
  | x, y =>
    let c := cmpVal x y
    let less := c < 0 || (c == 0 && x.isNeg && !y.isNeg)
    if isMax then (if less then b else a) else (if less then a else if c == 0 && !(y.isNeg && !x.isNeg) then a else b)

/-- A value rounded to an integer under a mode (R112). -/
def toInteger (mode : Nat) (v : FVal) : Int :=
  match v with
  | .fin n m e =>
    let sh := (-e).toNat
    let sig := if 0 ≤ e then m * 2 ^ e.toNat else m / 2 ^ sh
    let rem := if 0 ≤ e then 0 else m % 2 ^ sh
    let half := if 0 ≤ e then 1 else 2 ^ (sh - 1)
    let r := if roundUp mode n (sig % 2 == 1) rem half false then sig + 1 else sig
    if n then -(r : Int) else r
  | _ => 0

/-- Conversion to an integer type (R112): round, saturate; NaN gives 0. -/
def toIntSat (mode : Nat) (lo hi : Int) (v : FVal) : Int :=
  match v with
  | .nan => 0
  | .inf n => if n then lo else hi
  | _ => max lo (min hi (toInteger mode v))

/-- Conversion from an integer (R112). -/
def fromInt (mode : Nat) (x : Int) : Word := toF32 mode (ofInt x 0 false)

/-- Square root rounded down, `n` result bits (R111). -/
def isqrt : Nat → Nat → Nat → Nat
  | 0, _, r => r
  | n + 1, m, r => isqrt n m (if (r + 2 ^ n) * (r + 2 ^ n) ≤ m then r + 2 ^ n else r)

/-- frcp (R111). -/
def recip (mode : Nat) (v : FVal) : Word :=
  match v with
  | .nan => word fp32.nanEnc
  | .inf n => word (fp32.withSign n 0)
  | .fin n 0 _ => word (fp32.withSign n fp32.infEnc)
  | .fin n m e =>
    let k := bitLen m + 40
    word (fp32.round mode n (2 ^ k / m) (-e - k) (2 ^ k % m != 0)).1

/-- m × 2^e written with an even exponent and at least 64 significant bits. -/
def evenExp (m : Nat) (e : Int) : Nat × Int := if e % 2 = 0 then (m * 2 ^ 64, e - 64) else (m * 2 ^ 65, e - 65)

/-- fsqrt (R111). -/
def sqrt32 (mode : Nat) (v : FVal) : Word :=
  match v with
  | .nan => word fp32.nanEnc
  | .inf n => if n then word fp32.nanEnc else word fp32.infEnc
  | .fin n 0 _ => word (fp32.withSign n 0)
  | .fin true _ _ => word fp32.nanEnc
  | .fin false m e =>
    let (m, e) := evenExp m e
    let r := isqrt 48 m 0
    word (fp32.round mode false r (e / 2) (r * r != m)).1

/-- frsq (R111). -/
def rsqrt32 (mode : Nat) (v : FVal) : Word :=
  match v with
  | .nan => word fp32.nanEnc
  | .inf n => if n then word fp32.nanEnc else 0
  | .fin n 0 _ => word (fp32.withSign n fp32.infEnc)
  | .fin true _ _ => word fp32.nanEnc
  | .fin false m e =>
    let (m, e) := evenExp m e
    let r := isqrt 66 (2 ^ 192 / m) 0
    word (fp32.round mode false r (-(e / 2) - 96) (m * r * r != 2 ^ 192)).1

/-- ln 2 × 2^160, rounded down. -/
def ln2 : Nat := 1013035739299659071135698605846798551586536899366

/-- Terms of the exponential series from the n-th: t × x/n and on, in units of 2^−160. -/
def expTerms : Nat → Nat → Nat → Nat → Nat
  | 0, _, _, _ => 0
  | k + 1, n, x, t => let t' := t * x / (n * 2 ^ 160); t' + expTerms k (n + 1) x t'

/-- fexp2 (R111): integers are exact; otherwise the value is irrational and is bounded below at 2^−140. -/
def exp2 (mode : Nat) (v : FVal) : Word :=
  match v with
  | .nan => word fp32.nanEnc
  | .inf n => if n then 0 else word fp32.infEnc
  | .fin _ 0 _ => word 0x3F800000
  | .fin neg m e =>
    if 8 < (bitLen m : Int) + e then
      (if neg then word (fp32.round mode false 1 (-400) true).1 else word (fp32.round mode false 1 400 false).1)
    else if (bitLen m : Int) + e < -60 then
      (if neg then word (fp32.round mode false (2 ^ 60 - 1) (-60) true).1 else word (fp32.round mode false (2 ^ 60) (-60) true).1)
    else
      let x : Int := v.scaled (-160)
      let n : Int := x / 2 ^ 160
      let f : Nat := (x % 2 ^ 160).toNat
      if f = 0 then word (fp32.round mode false 1 n false).1
      else
        let s := 2 ^ 160 + expTerms 60 1 (f * ln2 / 2 ^ 160) (2 ^ 160)
        word (fp32.round mode false (s / 2 ^ 20) (n - 140) true).1

/-- Binary digits of log₂ of y / 2^200 in [1, 2), by repeated squaring. -/
def logBits : Nat → Nat → Nat → Nat
  | 0, _, r => r
  | k + 1, y, r =>
    let y := y * y / 2 ^ 200
    if 2 ^ 201 ≤ y then logBits k (y / 2) (2 * r + 1) else logBits k y (2 * r)

/-- flog2 (R111): powers of two are exact; otherwise the value is irrational and lies strictly above the digits taken. -/
def log2 (mode : Nat) (v : FVal) : Word :=
  match v with
  | .nan => word fp32.nanEnc
  | .inf n => if n then word fp32.nanEnc else word fp32.infEnc
  | .fin _ 0 _ => word (fp32.withSign true fp32.infEnc)
  | .fin true _ _ => word fp32.nanEnc
  | .fin false m e =>
    let l := bitLen m
    let k : Int := (l : Int) - 1 + e
    if m = 2 ^ (l - 1) then fromInt mode k
    else
      let digits := logBits 100 (m * 2 ^ (201 - l)) 0
      let x : Int := k * 2 ^ 100 + digits
      if 0 ≤ x then word (fp32.round mode false x.toNat (-100) true).1
      else word (fp32.round mode true (-x - 1).toNat (-100) true).1

/-- frint (R189). -/
def rint32 (mode : Nat) (w : Word) : Word :=
  match f32 w with
  | .nan => word fp32.nanEnc
  | .inf _ => w
  | .fin n m e => if m = 0 then w else toF32 mode (ofInt (toInteger mode (.fin n m e)) 0 n)

end Sys2Proof.Machine
end

