-- ==== Sys2Proof/Config.lean ====
section
/-!
DEFINITION. What one device fixes, and the free values: constants with no body, for every value the spec leaves open.
A draw `n` is the state's counter of draws, so that each use takes a value of its own.
-/
namespace Sys2Proof.Config

/-- Which of the permitted choices is made: a value of code or translation that may be old or new (R127, R146, R398). -/
opaque freeBool : Nat → Bool
/-- What the device takes for a byte of code that no page gives, in the word 3 of a trap record (R343): by clock and address. -/
opaque noCode : Nat → Nat → BitVec 8
/-- What a peer answers when the device itself reads a byte there, for a table, log, ring or image on a tier-2 page (R402): by clock, and
by device number × 2⁵² + address; nothing for an error answer. -/
opaque peerByte : Nat → Nat → Option (BitVec 8)
/-- The module's random source (R456). -/
opaque random : Nat → BitVec 128
/-- SHA-256 (R453): the spec names the function and does not define it. -/
opaque sha256 : List Byte → List Byte
/-- SLH-DSA-SHA2-128s verification of a signature over bytes under a public key (R453, R454). -/
opaque slhDsaVerify : (key message signature : List Byte) → Bool
/-- The identity key pair that each reset derives from the physically unclonable secret (R458). -/
opaque identity : List Byte
/-- The SPDM response to a request, given the identity key, its certificate and the session's transcript (R458): the spec names SPDM 1.4 and
does not define it. -/
opaque spdmResponse : (identity certificate transcript request : List Byte) → List Byte
/-- Whether a FINISH's verify data passes within its session (R458). -/
opaque spdmFinishOk : (transcript request : List Byte) → Bool
/-- Module power as the governor measures it, in watts, by draw (R461). -/
opaque modulePower : Nat → Nat
/-- The voltage the governor applies to an island for a clock (R461). -/
opaque voltage : Nat → Nat
/-- Flit credits a channel of a link starts with after training (R445): the spec gives no buffer size. -/
opaque linkCredits : Nat
/-- Entries of a directory's bank beyond the ten that one split needs (R429): the spec gives no size. -/
opaque bankEntries : Nat
/-- The public key whose hash is fused: a configuration record names no key of its own (R459). -/
opaque signingKey : List Byte
/-- Whether reset steps 1 and 2 succeed, whether a stack trains at step 6, and whether the boot ROM's tests find no faulty unit
that a record leaves enabled (R452, R459): physical outcomes, by draw. -/
opaque powerGood : Nat → Bool
opaque stackTrains : Nat → Nat → Bool
opaque unitsGood : List Byte → Bool
/-- The serial fused at manufacture, and the fused hash of the signing key (R454, R459). -/
opaque fusedSerial : List Byte
opaque fusedKeyHash : List Byte
/-- Base addresses of the ownership and reference-count tables are reserved at boot (R403); no record reaches them. -/
opaque reservedFrames : Nat

/-- LLC clocks between retries of a post that found its ring full (R309, R371). -/
def retryClocks : Nat := 256
/-- The boot ROM's measurement (R458). -/
opaque bootRom : List Byte
/-- Clocks between rotations of spilled fragments (R21). -/
def rotationClocks : Nat := 2048
/-- Spilled fragments a group can hold; split-table entries (R15, R20). -/
def spillEntries : Nat := 32
def tableEntries : Nat := 8
/-- Group slots of a core (R10); halfwords of a clause body (R157). -/
def groupSlots : Nat := 64
def clauseHalfwords : Nat := 64

end Sys2Proof.Config
end

