-- ==== Sys2Proof/Machine/State.lean ====
section
/-!
DEFINITION. Everything the spec gives the machine, as plain data, with the state after reset. Each structure
holds one level of the device: fragment, group, block, cluster and launch, core, die, link port, partition, module.
-/
namespace Sys2Proof.Machine

/-- The level a group runs at (R339). -/
inductive Level | user | supervisor
  deriving DecidableEq, Repr

/-- An interval shadow with its pin bit (R55, R67). -/
structure Shadow where
  lo : Int := 0
  hi : Int := 0
  pin : Bool := false
  deriving DecidableEq, Repr

/-- The relation a provenance records (R63). -/
inductive Rel | eq | ne | lt | le | gt | ge
  deriving DecidableEq, Repr

/-- A predicate's provenance (R63, R361). Register codes are those of R359: 0–95 v, 128–191 g, 127 zero. -/
structure Prov where
  valid : Bool := false
  signed : Bool := false
  rel : Rel := .eq
  useImm : Bool := false
  ra : Nat := 0
  rb : Nat := 0
  imm : Word := 0
  mask : Mask := 0
  deriving DecidableEq, Repr

/-- One shadow narrowing of a fragment (R65). -/
structure Narrow where
  reg : Nat
  lo : Int
  hi : Int
  deriving DecidableEq, Repr

/-- What a fragment waits for (R18, R24, R360). -/
inductive WaitKind
  | none | reconv | bar (id : Nat) | cbar | mbar | cwait | join | keystone
  deriving DecidableEq, Repr

/-- The word a fragment in mbar.wait, cwait or join watches, and the value that ends the wait (R213, R281, R300). -/
structure Watch where
  scratch : Bool
  tier : Nat := 0
  addr : Nat
  want : Nat
  /-- the virtual address by which the instruction names it -/
  va : Nat := 0
  deriving DecidableEq, Repr

/-- The check a fragment owes on arriving at its program counter (R154, R158). -/
inductive Arrival | none | header | calli
  deriving DecidableEq, Repr

/-- The spin detector's view of one fragment: the backward branch last executed, its target, the registers written
since, and the values as they stood there (R25). -/
structure LoopSnap where
  branch : Word
  target : Word
  written : List Nat
  vregs : KMap Word
  gregs : KMap Word
  preds : KMap Mask
  gpreds : BitVec 8
  exec : Mask
  deriving DecidableEq, Repr

/-- What a replay of a partly finished memory instruction must still do, and which bytes completed lanes have
written, with the writing lane (R221). -/
structure Replay where
  todo : Mask
  written : List (Nat × Nat)
  deriving DecidableEq, Repr

/-- A control word on a peer as its answer brought it: its key, the value, and whether the instruction's own write has been made there
(R213, R400, R447). -/
structure PeerWord where
  key : Nat
  value : Nat
  swapped : Bool := false
  deriving DecidableEq, Repr

/-- A fragment: one entry of the split table or of the spill area (R15, R360). -/
structure Frag where
  members : Mask := 0
  exec : Mask := 0
  pc : Word := 0
  reconv : Option Word := none
  encl : Option Word := none
  fmt : BitVec 11 := 0
  /-- most recently used first, at most four (R65) -/
  narrow : List Narrow := []
  age : Nat := 0
  spin : Bool := false
  loop : Option LoopSnap := none
  wait : WaitKind := .none
  watch : Option Watch := none
  /-- the clause header in force: its address and its word (R155, R159) -/
  header : Word := 0
  hword : Word := 0
  /-- the wait mask must be evaluated again before the next issue (R159) -/
  rewait : Bool := false
  arrive : Arrival := .none
  /-- block barriers at which the fragment has arrived in the current phase (R209) -/
  arrived : List Nat := []
  /-- it waits at a barrier for its second arrival of the phase, not yet counted (R209) -/
  again : Bool := false
  replay : Option Replay := none
  /-- a control word on a peer that the instruction it stands at has asked for (R400, R402) -/
  peer : Option PeerWord := none
  /-- its continuation frame found no room in the quarry: the join it stands at takes the task trap (R366) -/
  crowded : Bool := false
  /-- beacons of rinv.t still to be sent again (R305) -/
  resend : Option Mask := none
  /-- clock of the last issue, and brought in by rotation and not issued since (R21) -/
  lastIssue : Nat := 0
  rotated : Bool := false
  /-- clock at which the fragment came to its program counter, for the order of arrivals (R18) -/
  reached : Nat := 0
  deriving DecidableEq, Repr

/-- What kind of trap a handler is serving, for its disposition (R347). -/
inductive TrapKind
  | before | partly | copy (n : Nat) | arrival (a : Arrival) | preempt | resume | watchdog | beacon | late
  deriving DecidableEq, Repr

/-- A trap raised: the content of its record (R343) and how its disposition acts. -/
structure Trap where
  code : Nat
  cause : Nat := 0
  inWait : Bool := false
  entry : Nat := 0
  pc : Word := 0
  mask : Mask := 0
  word : Word := 0
  addr : Nat := 0
  detail : Word := 0
  slot : Nat := 0
  command : List Word := []
  kind : TrapKind := .before
  /-- the address after the instruction, for skip -/
  next : Word := 0
  /-- the replay the disposition fix or retry performs (R221) -/
  replay : Option Replay := none
  deriving DecidableEq, Repr

/-- The user state set aside while a handler runs (R341). -/
structure Bank where
  trap : Trap
  gvals : KMap Word := []
  gshadows : KMap Shadow := []
  gpreds : BitVec 8 := 0
  recs : KMap Rec := []
  /-- words of g56–g63 holding a double-bit and a single-bit error (R54) -/
  errors : List Nat := []
  singles : List Nat := []
  frag : Frag := {}
  deriving DecidableEq, Repr

/-- One entry of a group's verdict cache, most recently used first (R74). -/
structure Verdict where
  level : Level
  pc : Word
  recReg : Nat
  idx : Nat
  off : Int
  deriving DecidableEq, Repr

/-- What a releasing operation leaves beside the value it writes: its stamp, its scope and who made it (R124, R432). A mark is
`past` once a write that is no read-modify-write has replaced the value: only a join still synchronises with it (R139). -/
structure RelMark where
  stamp : Nat
  scope : Nat
  group : Nat
  block : Nat
  past : Bool := false
  deriving DecidableEq, Repr

/-- An access parked at a migrating page: the fragment's entry, the page's PTE address, and the flag and pending bits the
instruction keeps (R401). -/
structure Park where
  entry : Nat
  pte : Nat
  flag : Nat
  pend : List Nat
  deriving DecidableEq, Repr

/-- What a saved fragment owes beyond its entry of the image (R360): its program counter, whether it still waits at a barrier, its arrivals,
the check of its program counter, the clause header in force, the spin detector's view and its place in the order of rotation. -/
structure FragKeep where
  pc : Word := 0
  waits : Bool := false
  arrived : List Nat := []
  again : Bool := false
  arrive : Arrival := .none
  header : Word := 0
  hword : Word := 0
  loop : Option LoopSnap := none
  reached : Nat := 0
  lastIssue : Nat := 0
  rotated : Bool := false
  deriving DecidableEq, Repr

/-- A group resident on a core (R9, R34). Vector registers are keyed 32 × register + lane, lk being register 95;
shadows and pending bits by the codes of R359 (predicates p at 200 + n, gp at 208 + n); provenances by predicate, those of gp at 8 + n, and
the user's of gp6 and gp7 at 30 and 31 while a handler runs (R341). -/
structure Group where
  /-- the model's own: tells a group from later groups in its slot -/
  gid : Nat := 0
  block : Nat := 0
  index : Nat := 0
  units : Nat := 1
  acch : Nat := 0
  role : Nat := 0
  live : Mask := 0
  helper : Mask := 0
  vregs : KMap Word := []
  preds : KMap Mask := []
  gregs : KMap Word := []
  gpreds : BitVec 8 := 0
  brecs : KMap Rec := []
  /-- accumulator storage in 16-bit units, 2,048 to a half-slot (R48, R244) -/
  acc : KMap (BitVec 16) := []
  tstatus : KMap Word := []
  shadows : KMap Shadow := []
  provs : KMap Prov := []
  flags : KMap Nat := []
  gang : Word := 0
  pending : List Nat := []
  table : KMap Frag := []
  /-- most recently ejected first (R20, R21) -/
  spill : List Frag := []
  /-- clock of the last rotation (R21) -/
  rotClock : Nat := 0
  level : Level := .user
  bank : Option Bank := none
  strec : List Word := []
  verdicts : List Verdict := []
  /-- join links: lane to join address, for lanes whose record has jn set (R292) -/
  links : KMap Nat := []
  /-- code blocks last fetched, by code record, level and virtual block number (R146, R339) -/
  fetched : KMap (List Byte) := []
  /-- an icinv waits for its fence.acq; and the acquire stamp and clock of the last fence.acq that followed one (R147) -/
  icinv : Bool := false
  codeSeen : Option (Nat × Nat) := none
  /-- visibility stamps of its acquires and of its own writes; the releases its reads have met, with the lanes that read; and its
  releasing fences, the latest of each lane and scope, as lanes, scope and stamp (R124, R145, R432) -/
  acqStamp : Nat := 0
  wrStamp : Nat := 0
  readMarks : List (Mask × RelMark) := []
  relFence : List (Mask × Nat × Nat) := []
  /-- traps raised and not yet taken, oldest first (R161, R275, R342) -/
  traps : List Trap := []
  /-- a pre-emption request: cause, block image index and the group's own (R344, R362, R385) -/
  preempt : Option (Nat × Nat × Nat) := none
  watchdog : Bool := false
  started : Bool := false
  resumed : Bool := false
  restored : Bool := false
  saved : Bool := false
  left : Bool := false
  sgindex : Nat := 0
  /-- number of records, node and origin of a task group (R292) -/
  task : Option (Nat × Nat × Nat) := none
  /-- its node's descriptor, as the bin kept it (R377) -/
  nodeDesc : List Byte := []
  /-- what the fragments of a saved group owe, by split-table entry, spilled ones from 8 on -/
  kept : KMap FragKeep := []
  /-- the counts named by the group's last bar instruction, by barrier (R209) -/
  barCounts : KMap Nat := []
  /-- 64-bit register words and accumulator half-slots holding a double-bit error, and any other part (R54) -/
  regErrors : List Nat := []
  accErrors : List Nat := []
  stateError : Bool := false
  /-- words holding a single-bit error not yet read, and how many stand in the other state (R54) -/
  regSingles : List Nat := []
  accSingles : List Nat := []
  stateSingles : Nat := 0
  parked : Option Park := none
  /-- its page has come: the instruction that issues again before any other of the group, keeping its flag and pending bits (R401) -/
  resuming : Option Park := none
  deriving DecidableEq, Repr

/-- Why a copy is not moving (R275 to R278). -/
inductive CopyState | running | suspended | aborted
  deriving DecidableEq, Repr

/-- A copy between its issue and its completion point (R267, R363). -/
structure Copy where
  group : Nat
  level : Level := .user
  command : List Word := []
  desc : List Byte := []
  recT : Rec := 0
  recG : Rec := 0
  recP : Rec := 0
  recC : Rec := 0
  w : Nat := 0
  state : CopyState := .running
  flag : Nat := 15
  locked : Bool := true
  /-- the suspension is of the counter's own page (R275) -/
  counterFault : Bool := false
  /-- stopped at a migrating page, with the PTE's address (R401) -/
  migWait : Option Nat := none
  order : Nat := 0
  /-- bytes of peer memory: answers outstanding, bytes returned, and the elements whose answers were errors; the bytes are written and their
  acknowledgements outstanding (R402, R447) -/
  tags : List Nat := []
  got : KMap Byte := []
  lost : List Nat := []
  asked : Bool := false
  moved : Bool := false
  /-- the addition to a counter on a peer has been sent (R161, R273) -/
  counted : Bool := false
  deriving DecidableEq, Repr

/-- A block register with its latest writes, newest first, each with its clock (R27, R28). -/
structure KReg where
  writes : List (Nat × Word) := []
  deriving DecidableEq, Repr

/-- A block barrier (R209). -/
structure Bar where
  phase : Bool := false
  countSet : Bool := false
  expected : Nat := 0
  arrived : BitVec 16 := 0
  /-- stamps of the arrivals of this phase (R131, R145) -/
  stamp : Nat := 0
  deriving DecidableEq, Repr

/-- A block resident on a core (R9, R30, R93). -/
structure Block where
  cluster : Nat := 0
  part : Nat := 0
  core : Nat := 0
  index : Nat := 0
  groups : Nat := 1
  lanes : Nat := 32
  pword : Word := 0
  spsize : Nat := 0
  /-- scratchpad contents, canonical as memory is -/
  scratch : List Host.Cell := []
  /-- scratchpad words, 8 bytes each, holding a double-bit error (R96) -/
  spErrors : List Nat := []
  /-- those holding a single-bit error not yet read -/
  spSingles : List Nat := []
  /-- releases written in scratchpad, by offset, oldest first (R124, R432) -/
  marks : KMap (List RelMark) := []
  kregs : KMap KReg := []
  bars : KMap Bar := []
  stage : Nat := 0
  sched : List (List Byte) := []
  nextj : KMap Nat := []
  /-- stage releases: stage number up to which, and the group they count for (R285) -/
  releasers : List (Nat × Nat) := []
  roots : KMap Rec := []
  code : Rec := 0
  entry : Word := 0
  copies : KMap Copy := []
  rwatch : Bool := false
  /-- the node and root-set number of a task block (R362) -/
  task : Option (Nat × Nat) := none
  pri : Nat := 0
  /-- groups that have not ended -/
  alive : BitVec 16 := 0
  /-- save slots of a pre-emption under way, and of a resume until its restore 1 completes (R385) -/
  slot : Option Nat := none
  resumeSlot : Option Nat := none
  saved1 : Bool := false
  resumed : Bool := false
  restored1 : Bool := false
  preempting : Bool := false
  lastIssue : Nat := 0
  placed : Nat := 0
  killed : Bool := false
  deriving DecidableEq, Repr

/-- A cluster begun (R30, R210). -/
structure Cluster where
  launch : Option Nat := none
  x : Nat := 0
  y : Nat := 0
  z : Nat := 0
  linear : Nat := 0
  die : Nat := 0
  blocks : List Nat := []
  /-- cluster barrier: arrived groups, as block × 16 + group index, and phase -/
  arrived : List Nat := []
  phase : Bool := false
  stamp : Nat := 0
  deriving DecidableEq, Repr

/-- A launch consumed from a queue (R372, R374, R375). -/
structure Launch where
  identity : Nat := 0
  queue : Nat := 0
  bytes : List Byte := []
  next : Nat := 0
  ended : Nat := 0
  killed : Bool := false
  deriving DecidableEq, Repr

/-- A task record with its arguments (R287). -/
structure TaskRec where
  node : Nat
  scope : Nat := 0
  jn : Bool := false
  origin : Nat := 0
  pri : Nat := 0
  join : Nat := 0
  args : List Word := []
  /-- stamp of the release that created it (R138) -/
  stamp : Nat := 0
  deriving DecidableEq, Repr

/-- A frame of a quarry (R294). -/
structure Frame where
  recs : List TaskRec := []
  cont : Bool := false
  transit : Bool := false
  slot : Nat := 0
  /-- a continuation frame's join counter: tier × 2⁵⁶ + address -/
  ctr : Nat := 0
  part : Nat := 0
  gslot : Nat := 0
  core : Nat := 0
  /-- stamp of the releases that a continuation frame's waiter synchronises with (R139) -/
  stamp : Nat := 0
  deriving DecidableEq, Repr

/-- A range lock's part in its owner's work (R136). -/
inductive LockRole | src | dst | matB
  deriving DecidableEq, Repr

/-- An entry of a core's range-lock table (R136). `owner` is the copy number, or the operation's number for a matrix. -/
structure RangeLock where
  block : Nat
  owner : Nat
  matrix : Bool
  scratch : Bool
  part : Nat
  lo : Nat
  hi : Nat
  role : LockRole
  deriving DecidableEq, Repr

/-- One member's arrival at a keystone: its operands and latch (R249, R250, R256). -/
structure KArrival where
  group : Nat
  entry : Nat
  index : Nat
  ternary : Bool
  fmt : BitVec 11
  md : Nat
  flag : Nat
  pc : Word
  /-- B record, and kb, nb and dir -/
  recB : Rec
  kb : Nat
  nb : Nat
  dir : Bool
  recS : Rec
  sigB : Nat
  /-- the scratchpad bytes gathered, as address and length -/
  read : List (Nat × Nat) := []
  /-- the gathered A bytes by row, none for a row not gathered, and the scales -/
  rows : List (Option (List Byte))
  sa : List Word
  sb : List Word
  /-- the hull of its B bytes, read from joint issue on (R133) -/
  bLo : Nat := 0
  bHi : Nat := 0
  deriving DecidableEq, Repr

/-- A keystone of a core (R249). -/
structure Keystone where
  block : Nat
  set : BitVec 16
  members : List KArrival := []
  jointDue : Bool := false
  deriving DecidableEq, Repr

/-- A steal under way: the thief, the victim and the frame (R298). -/
structure Steal where
  victim : Nat
  frame : Frame
  deriving DecidableEq, Repr

/-- A TLB entry: partition, virtual page, 512 MiB or 64 KiB, the PTE as read, and the addresses of the entries the
walk read, the PTE's own first (R397, R398). -/
structure TlbEntry where
  part : Nat
  vpage : Nat
  big : Bool
  pte : Nat
  path : List Nat
  deriving DecidableEq, Repr

/-- A pointer of the page tables as a walk cache holds it (R397): partition, level, the virtual address over the bytes it maps, the node it
points to, and the addresses of the entries read on the way, its own first. -/
structure WalkPtr where
  part : Nat
  level : Nat
  span : Nat
  node : Nat
  path : List Nat
  deriving DecidableEq, Repr

/-- A line of an L1 (R426, R432): its fill stamp, whether its page is self-invalidating, and whether it is modified. -/
structure L1Line where
  stamp : Nat
  selfInv : Bool := false
  dirty : Bool := false
  deriving DecidableEq, Repr

/-- A core (R10): its division, range locks, keystones, quarry and caches. -/
structure Core where
  division : Option (Nat × Nat × Nat) := none
  locks : List RangeLock := []
  keystones : KMap Keystone := []
  /-- the quarry's SRAM frames, oldest first (R296) -/
  quarry : List Frame := []
  /-- head and tail byte offsets of the quarry's spill ring, by partition (R296, R366) -/
  ringHead : KMap Nat := []
  ringTail : KMap Nat := []
  /-- stamps of the releases that created the ring's frames, oldest first, by partition (R138) -/
  ringStamps : KMap (List Nat) := []
  /-- frames of a ring whose table or pages lie on a peer, by partition (R366) -/
  ringKept : KMap (List Frame) := []
  steal : Option Steal := none
  /-- at most 256 entries, the last used first (R397) -/
  tlb : List TlbEntry := []
  /-- lines that loads have reserved in the L1, by operation (R75) -/
  reserved : List (Nat × List Nat) := []
  /-- lines the L1 holds, by line number (R91, R426) -/
  l1 : KMap L1Line := []
  /-- instruction-cache lines: 32-byte fetch blocks by code record, level and virtual block number (R146, R231, R339) -/
  icache : KMap (List Byte) := []
  /-- footprints seen, for the one in 2^k that is sampled (R414) -/
  footprints : Nat := 0
  corrected : Nat := 0
  uncorrected : Nat := 0
  lastErr : Nat := 0
  /-- beacons queued at the port, with their operation, lane, target and record (R303) -/
  beaconQ : List (Nat × Nat × Nat × TaskRec) := []
  deriving DecidableEq, Repr

/-- A node bin on a die (R289). -/
structure Bin where
  recs : List TaskRec := []
  hw : Bool := false
  hold : Bool := false
  since : Nat := 0
  ready : Bool := false
  desc : List Byte := []
  /-- the node's overflow ring, held at its home die, oldest first with arrival numbers; index of the next ring entry -/
  ring : List (Nat × TaskRec) := []
  ringNext : Nat := 0
  deriving DecidableEq, Repr

/-- Work waiting at a distributor (R383). -/
inductive Waiting
  | launch (id : Nat) (pri : Nat)
  | bin (part node : Nat) (pri : Nat)
  | saved (cluster : Nat) (pri : Nat)
  deriving DecidableEq, Repr

/-- A reservation phase or a placement waiting for its commit (R382). -/
structure Reservation where
  work : Waiting
  /-- core chosen for each block -/
  cores : List Nat
  due : Nat
  deriving DecidableEq, Repr

/-- What a pre-emption frees, held for the item that asked for it: the victim clusters, and the core for each block (R384). -/
structure Claim where
  work : Waiting
  victims : List Nat
  cores : List Nat
  deriving DecidableEq, Repr

/-- A saved block, waiting to be placed again (R387). -/
structure SavedBlock where
  block : Block
  groups : KMap Group
  die : Nat
  deriving DecidableEq, Repr

/-- A directory entry of an L2 or an LLC slice (R427). -/
structure DirEntry where
  base : Nat
  size : Nat
  coarse : Bool := false
  ptrs : List Nat := []
  vector : BitVec 8 := 0
  host : Bool := false
  quiet : Nat := 0
  deriving DecidableEq, Repr

/-- A write waiting for invalidation answers (R429, R431), and the holders that have read the line since. -/
structure Conflict where
  line : Nat
  writer : Nat
  waiting : List Nat
  late : List Nat := []
  deriving DecidableEq, Repr

/-- A compute die (R9, R289, R383, R427): distributor, bins and L2. -/
structure Die where
  waiting : List Waiting := []
  reservation : Option Reservation := none
  claims : List Claim := []
  bins : KMap Bin := []
  dir : List DirEntry := []
  conflicts : List Conflict := []
  /-- lines the L2 holds, by line number, and whether each is modified (R91, R426) -/
  l2 : KMap Bool := []
  /-- the die's TLB, at most 16,384 entries, and its walk caches (R397) -/
  tlb : List TlbEntry := []
  pointers : List WalkPtr := []
  /-- L2 clocks since the directory's quiet counts last rose, in 1/fmax of a core clock (R427) -/
  l2run : Nat := 0
  deriving DecidableEq, Repr

/-- A cairn held at its home slice (R306, R307). -/
structure Cairn where
  part : Nat
  base : Nat
  size : Nat
  total : Nat
  sum : Nat := 0
  rearm : Bool := false
  write : Bool := false
  post : Bool := false
  wordVa : Nat := 0
  value : Nat := 0
  task : Option TaskRec := none
  spent : Bool := false
  /-- what a firing still owes: 0 nothing, 1 its write, held by a migrating page, 2 its post, waiting for room (R309, R310) -/
  owed : Nat := 0
  deriving DecidableEq, Repr

/-- An exact-sum entry (R144, R433): the sum in units of 2⁻¹⁴⁹, and the infinity and NaN flags. -/
structure ExactSum where
  fmt : Nat
  sum : Int
  pinf : Bool := false
  ninf : Bool := false
  nan : Bool := false
  /-- every term so far is −0 (R103) -/
  negz : Bool := false
  /-- held in the slice, or evicted to the partition's area -/
  inSlice : Bool := true
  part : Nat := 0
  /-- its place in its set of the area -/
  way : Nat := 0
  deriving DecidableEq, Repr

/-- A line of an LLC slice (R92, R423): its valid granules, and whether it is modified. -/
structure LlcLine where
  line : Nat
  granules : BitVec 8 := 0
  dirty : Bool := false
  deriving DecidableEq, Repr

/-- An LLC slice (R423): lines by set, directory, cairns by entry, exact sums by address, counts held for arrival notes. -/
structure Slice where
  /-- each set's lines, at most 16, the last used first -/
  llc : KMap (List LlcLine) := []
  dir : List DirEntry := []
  conflicts : List Conflict := []
  cairns : KMap Cairn := []
  filters : List Nat := []
  sums : KMap ExactSum := []
  notes : KMap Nat := []
  /-- the single waiter recorded at a join counter: its group's key and gid (R300) -/
  waiters : KMap (Nat × Nat) := []
  deriving DecidableEq, Repr

/-- A line of the DRAM cache layer: its tag, granule-valid bits and half-dirty bits (R420). -/
structure DramLine where
  tag : Nat
  granules : BitVec 8 := 0
  dirty : BitVec 2 := 0
  deriving DecidableEq, Repr

/-- A byte of memory that a write has replaced, with the clock and stamp of that write and the gid of the group that made it,
0 for no group: instruction fetch may still return it (R146). -/
structure Past where
  byte : Byte
  clock : Nat
  stamp : Nat
  gid : Nat := 0
  deriving DecidableEq, Repr

/-- A bank of an HBM stack channel (R421). -/
structure Bank2 where
  owed : Nat := 0
  alerts : Nat := 0
  refreshes : Nat := 0
  managed : Nat := 0
  deriving DecidableEq, Repr

/-- A fabric packet (R447). -/
structure Packet where
  type : Nat
  src : Nat
  dst : Nat
  status : Nat := 0
  key : Word := 0
  tag : Nat := 0
  field : Nat := 0
  body : List Byte := []
  deriving DecidableEq, Repr

/-- The state of a link port (R446). -/
inductive PortState | down | training | up
  deriving DecidableEq, Repr

/-- A link port (R444 to R446). -/
structure Port where
  enable : Bool := false
  state : PortState := .down
  closing : Bool := false
  peer : Nat := 0
  replayed : Nat := 0
  retrains : Nat := 0
  dropped : Nat := 0
  /-- sender: next sequence number, unacknowledged flits oldest first, consecutive replays of the oldest -/
  txSeq : Nat := 0
  unacked : List (Nat × List Byte) := []
  replays : Nat := 0
  /-- receiver: last sequence accepted, and a nak owed -/
  rxSeq : Nat := 4095
  nakOwed : Bool := false
  /-- credits held per virtual channel, and credits to be returned -/
  credits : KMap Nat := []
  owedCredits : KMap Nat := []
  /-- bytes received on each channel and not yet forming a whole packet -/
  rxBytes : KMap (List Byte) := []
  outq : List Packet := []
  deriving DecidableEq, Repr

/-- The states of a partition (R443). -/
inductive PartState | absent | configuring | active | draining
  deriving DecidableEq, Repr

/-- A partition: state, key, host port, its system registers by number and its trap counters (R340, R377, R443). -/
structure Partition where
  state : PartState := .absent
  key : Word := 0
  port : Nat := 0
  /-- result of the last write to mpstate (R442) -/
  result : Nat := 0
  regs : KMap Word := []
  /-- writes not yet in effect: the clock they take effect at, number and value (R340) -/
  late : List (Nat × Nat × Word) := []
  msixTable : KMap Word := []
  msixPending : KMap Nat := []
  fixes : Nat := 0
  retries : Nat := 0
  /-- save slots in use -/
  slots : List Nat := []
  preReq : Option Nat := none
  /-- the migration ring's tail has been written and not yet acted on (R407) -/
  doorbell : Bool := false
  /-- the device's own writes, by virtual address, that wait for a migrating page (R401) -/
  held : List (Nat × List Byte) := []
  deriving DecidableEq, Repr

/-- A work queue's registers (R367). -/
structure Queue where
  base : Nat := 0
  size : Nat := 0
  tail : Word := 0
  head : Word := 0
  ctl : Word := 0
  err : Word := 0
  vec : Word := 0
  /-- the launch whose clusters have not all begun (R370) -/
  holds : Option Nat := none
  taskRetry : Bool := false
  /-- the entry that waits, as read at its consumption, with a launch's record after it (R368) -/
  held : List Byte := []
  deriving DecidableEq, Repr

/-- A migration command under way (R408, R409). -/
structure Migration where
  id : Nat
  part : Nat
  pte : Nat
  old : Nat
  new : Nat
  host : Nat
  ctr : Nat
  stat : Nat
  kind : Nat
  /-- requests to peers have been sent; one was answered with an error; 64-byte blocks found poisoned (R410) -/
  sent : Bool := false
  bad : Bool := false
  poisoned : List Nat := []
  deriving DecidableEq, Repr

/-- What an outstanding operation does at its completion point (R161). -/
inductive OpKind
  | load (acq spill : Bool)
  | store
  | atomic (ret : Bool)
  | reduction
  | fence (kind scope : Nat)
  | cinv (scope lo hi : Nat)
  | matrix (member : KArrival) (b : List Byte) (bad : List Nat)
  | tile (md : Nat) (zero : Bool)
  | cadd (scratch : Bool) (addr : Nat) (value : Nat)
  | spawn (recs : List TaskRec) (join : Option Nat)
  | post (recs : List TaskRec) (join : Option Nat)
  | beacon (pd : Nat) (trapping : Bool)
  | arm (part base size total va value bits : Nat) (task : Option TaskRec)
  | disarm (handle : Nat)
  | saveRestore (block restore : Bool)
  /-- a control word on a peer: read, or changed from a value it must still hold (R400, R447) -/
  | peerWord (key : Nat) (expect : Option Nat)
  deriving DecidableEq, Repr

/-- An operation between its issue and its completion point (R39, R44, R161). -/
structure Op where
  id : Nat
  kind : OpKind
  group : Nat
  gid : Nat := 0
  entry : Nat := 0
  sup : Bool := false
  pc : Word := 0
  word : Word := 0
  flag : Nat := 15
  pend : List Nat := []
  /-- register values to write: vector keys, group-wide numbers, accumulator units -/
  vwrites : KMap Word := []
  gwrites : KMap Word := []
  awrites : KMap (BitVec 16) := []
  /-- vector registers whose shadow is written, the written set, the result interval and the pin it carries -/
  vshadow : List Nat := []
  ws : Mask := 0
  ilo : Int := 0
  ihi : Int := 0
  pin : Bool := false
  gshadow : List Nat := []
  status : KMap Word := []
  tiles : List Nat := []
  /-- physical addresses touched -/
  touched : List Nat := []
  writes : Bool := false
  /-- tags of remote requests not yet answered -/
  tags : List Nat := []
  /-- lanes left unfinished, with the trap they raise at the completion point (R220) -/
  failed : Mask := 0
  trap : Option Trap := none
  /-- lanes parked at a migrating page, with its PTE's address (R401) -/
  park : Option (Nat × Mask) := none
  /-- the fragment stands at the instruction until the completion point, as answers that may fail are awaited -/
  held : Bool := false
  /-- helper lanes that receive zero (R13) -/
  zeroed : Mask := 0
  /-- the issuing fragment's members (R25) and the lanes of its exec (R122, R124) -/
  who : Mask := 0
  lanes : Mask := 0
  /-- what a replay of the unfinished lanes must know of the bytes completed lanes have written (R221) -/
  written : List (Nat × Nat) := []
  /-- lanes of beacons: sent and not answered, accepted, refused -/
  sent : Mask := 0
  accepted : Mask := 0
  refused : Mask := 0
  /-- the count of a spawn or post has been sent to its join counter on a peer (R294, R295) -/
  counted : Bool := false
  /-- the partition it works for -/
  part : Nat := 0
  dest : Nat := 0
  next : Word := 0
  deriving DecidableEq, Repr

/-- A remote request awaiting its answer (R447): what it belongs to, and where its answer goes. -/
structure Remote where
  type : Nat
  dst : Nat
  part : Nat := 0
  op : Option Nat := none
  copy : Option (Nat × Nat) := none
  mig : Option Nat := none
  /-- a fetch block asked for: the group's key, and the block's key among those fetched (R146) -/
  code : Option (Nat × Nat) := none
  /-- the group whose own write it is, with no completion point to wait for it (R125); the group whose fragments watch the word it reads
  (R213, R281, R300) -/
  own : Option Nat := none
  watch : Option Nat := none
  /-- address of the sector or operand on the peer -/
  pa : Nat := 0
  /-- lowest virtual address of the elements the packet serves -/
  va : Nat := 0
  /-- beacons of the packet answered so far, as a mask of their places -/
  answered : Nat := 0
  /-- lanes the packet serves; for a beacon packet, the lane of each record in order -/
  lanes : List Nat := []
  /-- for each byte of the answer that is used: its offset, the register key and the byte of the register -/
  patches : List (Nat × Nat × Nat) := []
  /-- a combined read-modify-write: its op and size, and for each later lane the register keys of its value and the operand that the
  lanes before it make together (R227) -/
  fold : Nat × Nat := (0, 0)
  prior : List (List Nat × Nat) := []
  /-- the stamp of the release that a beacon packet's instruction is (R140) -/
  release : Nat := 0
  /-- a write or read-modify-write: the stamp at which it left (R125, R449) -/
  stamp : Nat := 0
  deriving DecidableEq, Repr

/-- A voltage and frequency island (R460). -/
structure Island where
  clock : Nat := 0
  voltage : Nat := 0
  on : Bool := false
  hottest : Nat := 0
  cause : Nat := 0
  deriving DecidableEq, Repr

/-- Where module reset and recovery stand (R452, R455, R456). -/
inductive BootState | held | booting (step : Nat) | running | recovery | locked | shutdown
  deriving DecidableEq, Repr

/-- The fields of the configuration record in force (R459): disabled cores per die, slices, channels per stack and
ports as bit masks, stack-local sizes in frames, and the interleave descriptors' reset words. -/
structure Record where
  version : Nat := 1
  svn : Nat := 0
  /-- the ordering code, 16 ASCII characters padded with zeros -/
  ordering : List Byte := []
  cores : List Nat := []
  slices : Nat := 0
  channels : List Nat := []
  ports : Nat := 0
  host1 : Bool := false
  devnum : Nat := 0
  fmax : Nat := 3000
  plimit : Nat := 4600
  locals : List Nat := []
  domains : KMap Word := []
  deriving DecidableEq, Repr

/-- An SPDM session on the PF's mailbox (R458). -/
structure Session where
  negotiated : Bool := false
  capabilities : Bool := false
  version : Bool := false
  session : Option Nat := none
  finished : Bool := false
  transcript : List Byte := []
  response : List Byte := []
  deriving DecidableEq, Repr

/-- Management state of the module (R442, R453 to R463). -/
structure Module where
  boot : BootState := .held
  pf : KMap Word := []
  mroute : KMap Word := []
  /-- route writes that wait for earlier packets' answers (R448) -/
  mrouteLate : List (Nat × Word) := []
  /-- requests of other devices sent on and not yet seen answered: source, destination, tag and type, and for a beacon packet the mask of its
  records unanswered (R448) -/
  forwarded : List (Nat × Nat × Nat × Nat × Nat) := []
  /-- refusals that wait for the answers of earlier packets of their path, each named by source and tag (R304, R448) -/
  heldBack : List (Packet × List (Nat × Nat)) := []
  qown : KMap Nat := []
  sown : KMap Nat := []
  down : KMap Nat := []
  mcpair : KMap Nat := []
  /-- partition that holds a shared pair's time slice, and the clock the slice began (R386) -/
  holder : KMap Nat := []
  sliceStart : KMap Nat := []
  /-- frame ownership (0xFF for none) and reference counts (R403) -/
  fowner : KMap Nat := []
  fcount : KMap Nat := []
  /-- frames in host bias, for host accesses (R411) -/
  fbias : List Nat := []
  /-- the frame command under way: first frame, count, new owner (R442) -/
  scrub : Option (Nat × Nat × Nat) := none
  config : Record := {}
  imageA : List Byte := []
  imageB : List Byte := []
  configA : List Byte := []
  configB : List Byte := []
  bootedImage : List Byte := []
  /-- the configuration record applied at step 5 (R452, R458) -/
  bootedRecord : List Byte := []
  /-- the identity key pair of this reset; its certificate, in flash; the last object written to the data object exchange mailbox (R458) -/
  identity : List Byte := []
  certificate : List Byte := []
  mailbox : List Byte := []
  /-- module power in the samples of the last 1 ms, newest first (R461) -/
  power : List Nat := []
  /-- the PF's BAR2 buffer, canonical as memory is (R455) -/
  bar2 : List Host.Cell := []
  minsvn : Nat := 0
  storageOk : Bool := true
  recState : Nat := 0
  badStacks : Nat := 0
  /-- 16 bytes (R456). DESIGN CHOICE (log 125): zero until locked recovery draws them -/
  rnonce : List Byte := List.replicate 16 0
  /-- in recovery: the kind of a buffer being verified, and an accepted one's reset to come (R455) -/
  verifying : Option Nat := none
  resetDue : Bool := false
  /-- the reset under way goes to recovery whatever it finds (R455) -/
  entering : Bool := false
  faultPin : Bool := false
  hostUp : Bool := false
  islands : KMap Island := []
  domStaged : KMap Word := []
  domActive : KMap Word := []
  spdm : Session := {}
  /-- the device's IDE key slots per port stream (R438, R458) -/
  linkKeys : KMap (List Byte) := []
  deriving DecidableEq, Repr

/-- A bit error that arises in storage: where, by its key; two bits of one word when `double` (R54, R96), in device memory, by 64-byte
block, one that its code does not correct (R419). -/
inductive Upset
  | register (group word : Nat) (double : Bool)
  | accumulator (group word : Nat) (double : Bool)
  | groupState (group : Nat) (double : Bool)
  | scratch (block word : Nat) (double : Bool)
  | memory (block : Nat) (double : Bool)
  | host (block : Nat) (fails : Bool)
  /-- the replay-protected storage is restored from an older copy of the flash, which fails authentication (R454) -/
  | storage
  deriving DecidableEq, Repr

/-- Whose turn it is: a fragment's issue, one of the table's events, the next clock, or an error that arises in storage. -/
inductive Turn
  | issue (core slot entry : Nat)
  | event (i : Instr)
  | tick
  | upset (u : Upset)
  deriving DecidableEq, Repr

/-- Raised when a meaning is asked to act and the machine is not in a position where that step exists. -/
inductive Fault
  /-- an instruction is executed while `cur` names no fragment of a resident group: no such step exists (safe) -/
  | noFragment
  deriving DecidableEq, Repr

/-- Why a step is refused. -/
inductive Refusal
  /-- an instruction of the opcode table that has no meaning yet (safe) -/
  | notModelled (mnemonic : String)
  deriving DecidableEq, Repr

/-- The whole machine. -/
structure State where
  /-- core clock, and the lowest quadrant of each core that may still issue in it (R10, R24, R27) -/
  clock : Nat
  cursor : KMap Nat
  /-- the model's own: whose turns come next; empty for the default order of R24 -/
  turns : List Turn
  /-- the model's own: the group, as core × 64 + slot, and split-table entry whose instruction executes -/
  cur : Nat × Nat
  /-- the model's own: the instruction asked for waits at issue and has not issued (R39, R44) -/
  stalled : Bool
  /-- fragments that yielded in this clock or the last: clock, group key and entry (R206) -/
  yields : List (Nat × Nat × Nat)
  /-- the model's own: draws taken from the free values so far -/
  free : Nat
  /-- the model's own: the next number for an operation, block, cluster or launch -/
  fresh : Nat
  /-- device memory by physical address, and the host's space (R400, R413) -/
  mem : List Host.Cell
  hostMem : List Host.Cell
  /-- 64-byte blocks of device memory with a poison marker or an uncorrectable error (R410, R419) -/
  poison : List Nat
  /-- releases written in memory, by tier × 2⁶⁰ + address, oldest first (R124, R139, R432) -/
  marks : KMap (List RelMark)
  /-- bytes that writes have replaced, newest first, by tier × 2⁶⁰ + address (R146) -/
  past : KMap (List Past)
  /-- sets of the DRAM cache layer, most recently used line first, by (stack × 32 + channel) × 32,768 + set (R420) -/
  dram : KMap (List DramLine)
  /-- the memory controllers' counts of corrected errors, by stack × 32 + channel (R419) -/
  corrections : KMap Nat
  badBlocks : List Nat
  /-- 64-byte blocks of the host's space whose accesses the host now answers with an error (R402) -/
  hostErrors : List Nat
  /-- 64-byte blocks of the host's space with a poison marker (R410) -/
  hostPoison : List Nat
  groups : KMap Group
  blocks : KMap Block
  clusters : KMap Cluster
  launches : KMap Launch
  saved : KMap SavedBlock
  cores : KMap Core
  dies : KMap Die
  slices : KMap Slice
  banks : KMap Bank2
  parts : KMap Partition
  queues : KMap Queue
  lastQueue : Nat
  ops : List Op
  remotes : KMap Remote
  ports : KMap Port
  /-- packets addressed to this device and not yet handled, with the port they came by (16 for none) -/
  inbox : List (Nat × Packet)
  migrations : List Migration
  /-- interrupts signalled to the hosts, newest first: partition and vector (R438) -/
  signals : List (Nat × Nat)
  /-- data returned to a host by the last read or snoop answered -/
  hostData : List Byte
  mgmt : Module
  deriving DecidableEq, Repr

/-! ## Reset (R452) -/

/-- Bits of a number's low `n` that are set, counted in steps of two: pairs with a set bit. -/
def pairsIn : Nat → Nat → Nat
  | 0, _ => 0
  | n + 1, v => (if v % 4 = 0 then 0 else 1) + pairsIn n (v / 4)
/-- Enabled core pairs of a compute die (R459). -/
def pairsOn (r : Record) (die : Nat) : Nat := 33 - pairsIn 33 (r.cores.getD die 0)
/-- Words of the full part's interleave descriptors (R425): descriptors 0 to 15, each of a sixteenth of HBM and of 16 slices
from slice 16d, with masks of one address bit each. -/
def fullDomains : KMap Word :=
  (List.range 16).flatMap fun d =>
    [(16 * d, BitVec.ofNat 32 (737280 * d)), (16 * d + 2, BitVec.ofNat 32 (737280 * d + 737279)),
     (16 * d + 4, BitVec.ofNat 32 (0x80000400 + 16 * d)), (16 * d + 6, 1), (16 * d + 8, 2), (16 * d + 10, 4), (16 * d + 12, 8)]
/-- The record of the full part, GB-UMH-M512-720: the last built pair of each die disabled, everything else enabled. -/
def fullRecord : Record :=
  { ordering := [71, 66, 45, 85, 77, 72, 45, 77, 53, 49, 50, 45, 55, 50, 48, 0]
    cores := List.replicate 8 (3 * 2 ^ 64), host1 := true, domains := fullDomains }
/-- Islands as reset leaves them: on where they serve an enabled unit (R460); a memory-controller island's are the channels of the three
stacks beside its I/O-and-cache die. Core-pair and L2 islands run at fmax (R7, R459). DESIGN CHOICE
(log 79): the spec gives the memory-controller, fabric and host islands, 264 to 287, no clock, and they are given fmax too; unsafe. -/
def resetIslands (r : Record) : KMap Island :=
  (List.range 288).map fun i =>
    let on := if i < 256 then decide (i % 32 < pairsOn r (i / 32))
      else if 264 ≤ i && i < 272 then (List.range 3).any fun j => r.channels.getD (3 * ((i - 264) / 2) + j) 0 != 0xFFFFFFFF
      else true
    (i, { clock := if on then r.fmax else 0, on := on })
/-- What module reset leaves of the management state, given flash and the record applied (R452 to R460). -/
def Module.afterReset (m : Module) (r : Record) : Module :=
  { config := r, imageA := m.imageA, imageB := m.imageB, configA := m.configA, configB := m.configB, bootedImage := m.bootedImage, bootedRecord := m.bootedRecord
    certificate := m.certificate, identity := Config.identity
    minsvn := m.minsvn, storageOk := m.storageOk, boot := .running, hostUp := true, pf := [(0, BitVec.ofNat 32 (r.devnum % 4096))]
    islands := resetIslands r, domStaged := r.domains, domActive := r.domains }
/-- The whole machine after reset, with the management state given: everything else empty. -/
def State.fresh_ (m : Module) : State :=
  { clock := 0, cursor := [], turns := [], cur := (0, 0), stalled := false, yields := [], free := 0, fresh := 1, mem := [], hostMem := [], poison := [], marks := [], past := [], dram := [], corrections := []
    badBlocks := [], hostErrors := [], hostPoison := [], groups := [], blocks := [], clusters := [], launches := [], saved := [], cores := [], dies := [], slices := [], banks := [], parts := []
    queues := [], lastQueue := 0, ops := [], remotes := [], ports := [], inbox := [], migrations := [], signals := [], hostData := []
    mgmt := m }
/-- The machine right after reset (R452, step 7), as the full part. -/
def State.reset : State := State.fresh_ (Module.afterReset {} fullRecord)

end Sys2Proof.Machine
end

