-- ==== Sys2Proof/Machine/Translate.lean ====
section
/-!
DEFINITION. Frames of the package, partition registers, the page walk and its checks, and the device's own accesses through it
(R340, R392 to R396, R400, R403, R413, R418).
-/
namespace Sys2Proof.Machine

/-- A register of a partition as it stands (R340, R377, R406). -/
def preg (s : State) (p n : Nat) : Word := kget 0 (kget {} s.parts p).regs n
/-- A register pair of a partition, low word first. -/
def preg2 (s : State) (p n : Nat) : Nat := (preg s p n).toNat + 2 ^ 32 * (preg s p (n + 1)).toNat
/-- Change a partition. -/
def modPart (s : State) (p : Nat) (f : Partition → Partition) : State :=
  { s with parts := kput s.parts p (f (kget {} s.parts p)) }
/-- Write a partition's register. -/
def setPreg (s : State) (p n : Nat) (v : Word) : State := modPart s p fun q => { q with regs := kput q.regs n v }
/-- Set a bit of the partition's sfault (R406). -/
def setFault (s : State) (p bit : Nat) : State := setPreg s p 0x21A (preg s p 0x21A ||| (1#32 <<< bit))
/-- Change a core. -/
def modCore (s : State) (c : Nat) (f : Core → Core) : State := { s with cores := kput s.cores c (f (kget {} s.cores c)) }
/-- Change a compute die. -/
def modDie (s : State) (d : Nat) (f : Die → Die) : State := { s with dies := kput s.dies d (f (kget {} s.dies d)) }
/-- Change an LLC slice. -/
def modSlice (s : State) (n : Nat) (f : Slice → Slice) : State :=
  { s with slices := kput s.slices n (f (kget {} s.slices n)) }
/-- A vector's mask bit in the MSI-X table: bit 0 of its fourth word, set by reset (R438). -/
def vectorMasked (q : Partition) (v : Nat) : Bool := (kget 1 q.msixTable (4 * v + 3)).getLsbD 0
/-- Signal a vector of a partition, in the states that enable it (R438, R443); a masked vector becomes pending. -/
def signal (s : State) (p v : Nat) : State :=
  let q := kget {} s.parts p
  if q.state = .active ∨ q.state = .draining then
    if vectorMasked q v then modPart s p fun q => { q with msixPending := kput q.msixPending v 1 } else { s with signals := (p, v) :: s.signals }
  else s
/-- Draw a free choice. -/
def draw (s : State) : Bool × State := (Config.freeBool s.free, { s with free := s.free + 1 })

/-- The visibility clock at 1 GHz, from the core clock at fmax MHz (R432, R459). -/
def stampNow (s : State) : Nat := s.clock * 1000 / s.mgmt.config.fmax

/-! ## Frames -/

/-- Bits set in the low `n` bits of a number. -/
def popBits : Nat → Nat → Nat
  | 0, _ => 0
  | n + 1, v => v % 2 + popBits n (v / 2)
/-- Enabled channels of a stack (R418). -/
def channels (r : Record) (k : Nat) : Nat := 32 - popBits 32 (r.channels.getD k 0)
/-- Frames of storage of a stack: 1.875 GiB a channel (R418). -/
def stackFrames (r : Record) (k : Nat) : Nat := 30720 * channels r k
/-- Frames of a stack's local range (R413). -/
def localFrames (r : Record) (k : Nat) : Nat := if channels r k = 0 then 0 else min (r.locals.getD k 0) (stackFrames r k)
/-- Frames of the package-interleaved range, which comes first (R413, R459). -/
def interFrames (r : Record) : Nat := ((List.range 12).map fun k => stackFrames r k - localFrames r k).sum
/-- First frame of a stack's local range (R413). -/
def localBase (r : Record) (k : Nat) : Nat := interFrames r + ((List.range k).map (localFrames r)).sum
/-- Frames of the package's HBM. -/
def hbmFrames (r : Record) : Nat := ((List.range 12).map (stackFrames r)).sum
/-- The stack field a frame's PTE must carry: 15 in the interleaved range, none outside HBM (R413). -/
def stackOf (r : Record) (frame : Nat) : Option Nat :=
  if frame < interFrames r then some 15
  else (List.range 12).find? fun k => localBase r k ≤ frame && frame < localBase r k + localFrames r k
/-- The partition that owns a frame, 255 for none (R403). -/
def frameOwner (s : State) (frame : Nat) : Nat := kget 255 s.mgmt.fowner frame
/-- Whether a core pair's mask names a partition (R442). -/
def ownsCore (s : State) (p core : Nat) : Bool := bitOf (kget 0 s.mgmt.mcpair (core / 2)) p
/-- The compute die of a package core (R460). -/
def dieOf (core : Nat) : Nat := core / 64

/-! ## The walk -/

/-- What an access does to a page (R395). -/
inductive Acc | read | write | fetch
  deriving DecidableEq, Repr

/-- Where a translated access goes, or why it does not (R395, R400). -/
inductive Xlate
  | ok (tier place frame pte : Nat)
  | trap (code cause : Nat)
  | park (pte : Nat)
  deriving DecidableEq, Repr

/-- A finished walk: the entry's value, the addresses read, the entry's own first, and the page size. -/
structure Walk where
  pte : Nat
  path : List Nat
  big : Bool
  malformed : Bool := false
  deriving DecidableEq, Repr

/-- Eight bytes of device memory. -/
def read8 (s : State) (a : Nat) : Nat := leVal (mreads s.mem a 8)

/-- A page entry breaks a rule of R393. -/
def badPage (r : Record) (pte : Nat) (big : Bool) : Bool :=
  let tier := bits pte 7 6
  bits pte 9 8 == 3 || (big && bits pte 28 16 != 0) ||
  (tier == 0 && (bits pte 63 56 != 0 || stackOf r (bits pte 51 16) != some (bits pte 55 52))) ||
  ((tier == 1 || tier == 3) && bits pte 63 52 != 0)

/-- Walk from a node down; `n` is the level of the node's entries (R392, R393). -/
def walkFrom (s : State) (va : Nat) : Nat → Nat → List Nat → Walk
  | n, node, path =>
    let r := s.mgmt.config
    let idx := match n with | 3 => bits va 56 55 | 2 => bits va 54 42 | 1 => bits va 41 29 | _ => bits va 28 16
    let a := node * 65536 + 8 * idx
    let pte := read8 s a
    let path := a :: path
    let leaf := bitOf pte 1
    let dead (m : Bool) : Walk := { pte := if m then 0 else pte, path := path, big := false, malformed := m }
    match n with
    | 0 => if !bitOf pte 0 then dead false
           else if !leaf then dead true
           else { pte := pte, path := path, big := false, malformed := badPage r pte false }
    | n + 1 =>
      if !bitOf pte 0 then dead false
      else if leaf then
        if n = 0 then { pte := pte, path := path, big := true, malformed := badPage r pte true } else dead true
      else if bits pte 15 2 != 0 || bits pte 63 52 != 0 || hbmFrames r ≤ bits pte 51 16 then dead true
      else walkFrom s va n (bits pte 51 16) path

/-- The walk of a partition's address (R392). -/
def walk (s : State) (p va : Nat) : Walk := walkFrom s va 3 (bits (preg2 s p 0x20B) 51 16) []

/-- The frame an access reaches through an entry. -/
def frameOf (w : Walk) (va : Nat) : Nat := bits w.pte 51 16 + (if w.big then bits va 28 16 else 0)

/-- First byte of the host's space that a partition reaches, by its host port: each port's host has 2^52 bytes of its own (R439). -/
def spaceBase (s : State) (p : Nat) : Nat := 2 ^ 52 * ((kget ({} : Partition) s.parts p).port % 2)
/-- The checks of R395 in their order. -/
def judge (s : State) (p : Nat) (lvl : Level) (acc : Acc) (va : Nat) (w : Walk) : Xlate :=
  let tier := bits w.pte 7 6
  let frame := frameOf w va
  if !bitOf w.pte 0 || tier == 3 || w.malformed then .trap 5 0
  else if w.path.any (fun a => frameOwner s (a / 65536) != p) || (tier == 0 && frameOwner s frame != p) then .trap 6 0
  else if bitOf w.pte 15 then .park (w.path.headD 0)
  else if acc == .fetch && (!bitOf w.pte 3 || (lvl == .user && !bitOf w.pte 4)) then .trap 6 3
  else if (lvl == .user && !bitOf w.pte 4) || (acc == .write && !bitOf w.pte 2) then .trap 6 0
  else if acc == .write && bitOf w.pte 5 then .trap 6 1
  else .ok tier (bits w.pte 63 52) (if tier = 1 then frame + spaceBase s p / 65536 else frame) w.pte

/-- Set accessed, and dirty for a write, in the entry, without a snoop (R396). -/
def mark (s : State) (a : Nat) (acc : Acc) : State :=
  let b := mget s.mem (a + 1)
  { s with mem := mput s.mem (a + 1) (b ||| (if acc = .write then 0x60#8 else 0x20#8)) }

/-- A physical byte of device memory (tier 0), of the host's space (tier 1), or of a peer (tier 2, device number × 2⁵² + address), which
answers with a free byte. -/
def tierByte (s : State) (tier a : Nat) : Byte :=
  match tier with
  | 0 => mget s.mem a
  | 1 => mget s.hostMem a
  | _ => (Config.peerByte s.clock a).getD 0
/-- The device's own access to a page, at supervisor level (R340, R395). -/
def deviceJudge (s : State) (p : Nat) (acc : Acc) (va : Nat) : Xlate :=
  if 2 ^ 57 ≤ va then .trap 5 0 else judge s p .supervisor acc va (walk s p va)
/-- The device's own access through a partition's translation at supervisor level, for tables, logs and rings (R340):
tier and address of a byte, a peer's address with its device number above, or nothing. -/
def deviceAddr (s : State) (p : Nat) (acc : Acc) (va : Nat) : Option (Nat × Nat) :=
  match deviceJudge s p acc va with
  | .ok tier place frame _ => some (tier, (if tier = 2 then place * 2 ^ 52 else 0) + frame * 65536 + va % 65536)
  | _ => none
/-- First addresses of the pages that `n` bytes from an address lie on. -/
def pageStarts (va n : Nat) : List Nat :=
  if n = 0 then [] else (List.range ((va + n - 1) / 65536 - va / 65536 + 1)).map fun i => if i = 0 then va else 65536 * (va / 65536 + i)
/-- A page that the device's access to `n` bytes needs is migrating: the access waits (R395, R401). -/
def deviceWaits (s : State) (p : Nat) (acc : Acc) (va n : Nat) : Bool :=
  (pageStarts va n).any fun a => match deviceJudge s p acc a with | .park _ => true | _ => false
/-- What the device's own walks leave: accessed, and dirty for a write, in each page's entry, and sfault bit 2 for a malformed one
(R340, R393, R396). -/
def deviceWalk (s : State) (p : Nat) (acc : Acc) (va n : Nat) : State :=
  (pageStarts va n).foldl (fun s a =>
    let w := walk s p a
    match deviceJudge s p acc a with
    | .ok _ _ _ _ => mark s (w.path.headD 0) acc
    | _ => if w.malformed && a < 2 ^ 57 then setFault s p 2 else s) s

/-- A 64-byte block of device memory that reads as poison (R410, R419). -/
def poisoned (s : State) (a : Nat) : Bool := s.poison.contains (a / 64) || s.badBlocks.contains (a / 64)
/-- A byte of the host's space whose access the host answers with an error (R402). -/
def hostFails (s : State) (tier a : Nat) : Bool := tier == 1 && s.hostErrors.contains (a / 64)
/-- A byte of memory, by tier, whose read is an error or poison (R402, R410, R419). -/
def badByte (s : State) (tier a : Nat) : Bool :=
  (tier == 0 && poisoned s a) || hostFails s tier a || (tier == 1 && s.hostPoison.contains (a / 64))

end Sys2Proof.Machine
end

