-- ==== Sys2Proof/Machine/Remote.lean ====
section
/-!
DEFINITION. Packets to and from other devices, as the sender of a request makes them: routes, tags, and the requests for the
sectors of a remote page (R402, R447 to R450).
-/
namespace Sys2Proof.Machine

/-- This device's number: mdevid (R442). -/
def devNum (s : State) : Nat := wbits (kget 0 s.mgmt.pf 0) 11 0
/-- The port a destination's packets leave by: a valid route to a port that is up (R448). -/
def route (s : State) (d : Nat) : Option Nat :=
  let w := kget 0 s.mgmt.mroute d
  let p := wbits w 3 0
  if bitOf w.toNat 7 && (kget ({} : Port) s.ports p).state == .up then some p else none
/-- Queue a packet at a port. -/
def queuePacket (s : State) (p : Nat) (k : Packet) : State :=
  { s with ports := kput s.ports p (let q := kget ({} : Port) s.ports p; { q with outq := q.outq ++ [k] }) }
/-- Send an answer toward its destination; one with no way back is lost (R448). -/
def sendAnswer (s : State) (k : Packet) : State :=
  if k.dst = devNum s then { s with inbox := s.inbox ++ [(16, k)] }
  else match route s k.dst with
    | some p => queuePacket s p k
    | none => s
/-- The type of the packet that answers a request with an error (R447). -/
def answerType (t : Nat) : Nat := match t with | 0 => 6 | 2 => 8 | 4 => 5 | _ => 7
/-- Records in a beacon packet: the field's low byte (R447). -/
def beaconCount (k : Packet) : Nat := k.field % 256
/-- The answer to a request, with a status and a body. -/
def answerTo (k : Packet) (type status : Nat) (body : List Byte) : Packet :=
  { type := type, src := k.dst, dst := k.src, status := status, key := k.key, tag := k.tag, field := k.field, body := body }
/-- An error answer; a refusal's mask names every beacon of the packet. -/
def errorTo (k : Packet) (status : Nat) : Packet :=
  answerTo k (answerType k.type) status (if k.type = 4 then leOut 4 (2 ^ beaconCount k - 1) else [])
/-- Earlier requests of a request's channel and path that are still unanswered, by source and tag: this device's own, or another's sent on
through here. -/
def earlierOn (s : State) (k : Packet) : List (Nat × Nat) :=
  if k.src = devNum s then
    s.remotes.filterMap fun (t, r) => if r.dst = k.dst ∧ (r.type == 4) = (k.type == 4) ∧ t ≠ k.tag then some (k.src, t) else none
  else s.mgmt.forwarded.filterMap fun (src, dst, t, ty, _) => if src = k.src ∧ dst = k.dst ∧ (ty == 4) = (k.type == 4) ∧ t ≠ k.tag then some (src, t) else none
/-- Answer a request here with status 4; the answer overtakes none of an earlier request of its channel and path (R304, R448). -/
def refusePacket (s : State) (k : Packet) : State :=
  match earlierOn s k with
  | [] => sendAnswer s (errorTo k 4)
  | ws => { s with mgmt := { s.mgmt with heldBack := s.mgmt.heldBack ++ [(errorTo k 4, ws)] } }
/-- Remember a request of another device that is sent on (R448). -/
def noteForward (s : State) (k : Packet) : State :=
  if k.src = devNum s ∨ 4 < k.type then s
  else { s with mgmt := { s.mgmt with forwarded := s.mgmt.forwarded ++ [(k.src, k.dst, k.tag, k.type, if k.type = 4 then 2 ^ beaconCount k - 1 else 1)] } }
/-- An answer has come to, or through, this device: the request it answers is no longer awaited here. -/
def noteAnswer (s : State) (k : Packet) : State :=
  let mine := fun (q : Nat × Nat × Nat × Nat × Nat) => q.1 == k.dst && q.2.1 == k.src && q.2.2.1 == k.tag
  let left := fun (q : Nat × Nat × Nat × Nat × Nat) => if q.2.2.2.1 = 4 then q.2.2.2.2 - (q.2.2.2.2 &&& leAt k.body 0 4) else 0
  let kept := s.mgmt.forwarded.filterMap fun q =>
    if !mine q then some q else if left q = 0 then none else some (q.1, q.2.1, q.2.2.1, q.2.2.2.1, left q)
  { s with mgmt := { s.mgmt with forwarded := kept } }
/-- Send a packet: to this device's own queue, out by its route, or answered here with status 4 (R448). -/
def sendPacket (s : State) (k : Packet) : State :=
  if k.dst = devNum s then { s with inbox := s.inbox ++ [(16, k)] }
  else match route s k.dst with
    | some p => noteForward (queuePacket s p k) k
    | none => if k.type ≤ 4 then refusePacket s k else s

/-- The lowest tag no outstanding request uses. -/
def freeTag (s : State) : Nat := ((List.range (s.remotes.length + 1)).find? fun t => (kfind s.remotes t).isNone).getD 0
/-- Send a request and remember it; the packet carries the partition's key (R450). -/
def request (s : State) (r : Remote) (field : Nat) (body : List Byte) (status : Nat := 0) : Nat × State :=
  let t := freeTag s
  let s := { s with remotes := kput s.remotes t { r with stamp := stampNow s } }
  (t, sendPacket s { type := r.type, src := devNum s, dst := r.dst, status := status, key := (kget ({} : Partition) s.parts r.part).key, tag := t, field := field, body := body })

/-- Read one 32-byte sector of a peer. -/
def askSector (s : State) (r : Remote) : Nat × State := request s { r with type := 0 } (r.pa / 16) []
/-- Write bytes within one sector of a peer: 32 data bytes and 32 enables. -/
def putSector (s : State) (r : Remote) (cells : List Host.Cell) : Nat × State :=
  let base := r.pa / 32 * 32
  let data := (List.range 32).map fun i => ((cells.reverse.find? fun c => c.1 == base + i).map (·.2)).getD 0
  let en := ((List.range 32).map fun i => if cells.any (fun c => c.1 == base + i) then 2 ^ i else 0).sum
  request s { r with type := 1, pa := base } (base / 16) (data ++ leOut 4 en)
/-- A poison marker for the block of a peer's sector: DESIGN CHOICE (log 121): the spec names no packet for one, and it is a remote write of the
whole sector with status 6. -/
def putPoison (s : State) (r : Remote) : Nat × State :=
  request s { r with type := 1, pa := r.pa / 32 * 32 } (r.pa / 32 * 2) (List.replicate 32 0 ++ leOut 4 0xFFFFFFFF) 6
/-- A remote atomic or reduction: op, size, det and the address's low bits, then two 8-byte operands. -/
def putAtomic (s : State) (r : Remote) (op size det v c : Nat) : Nat × State :=
  request s r (r.pa / 16) (leOut 1 op ++ leOut 1 size ++ leOut 1 det ++ leOut 1 (r.pa % 16) ++ leOut 8 v ++ leOut 8 c)

/-- A byte of a remote page that a register wants: device, address, lane, register key and byte of the register. -/
structure Want where
  place : Nat
  pa : Nat
  lane : Nat
  key : Nat
  byte : Nat
  /-- virtual address of the element it belongs to -/
  va : Nat := 0
  deriving DecidableEq, Repr

/-- The distinct sectors of wanted bytes, as device and base address. -/
def sectorsOf (ws : List (Nat × Nat)) : List (Nat × Nat) := (ws.map fun w => (w.1, w.2 / 32 * 32)).eraseDups
/-- Ask for the sectors of the bytes an operation wants. -/
def askAll (s : State) (op part : Nat) (ws : List Want) : List Nat × State :=
  (sectorsOf (ws.map fun w => (w.place, w.pa))).foldl (fun (ts, s) (d, base) =>
    let mine := ws.filter fun w => w.place == d && w.pa / 32 * 32 == base
    let (t, s) := askSector s { type := 0, dst := d, part := part, op := some op, pa := base, lanes := (mine.map (·.lane)).eraseDups
                                va := (mine.map (·.va)).foldl min (2 ^ 57)
                                patches := mine.map fun w => (w.pa - base, w.key, w.byte) }
    (ts ++ [t], s)) ([], s)
/-- Write bytes of peers, sector by sector in order: `cells` by device. -/
def putAll (s : State) (r : Remote) (cells : List (Nat × Host.Cell)) : List Nat × State :=
  (sectorsOf (cells.map fun c => (c.1, c.2.1))).foldl (fun (ts, s) (d, base) =>
    let mine := (cells.filter fun c => c.1 == d && c.2.1 / 32 * 32 == base).map (·.2)
    let (t, s) := putSector s { r with dst := d, pa := base } mine
    (ts ++ [t], s)) ([], s)

end Sys2Proof.Machine
end

