-- ==== Sys2Proof/Machine/Directory.lean ====
section
/-!
DEFINITION. Home slices, the DRAM cache layer, the lines that L1s, L2s and LLC slices hold, and their region directories. The caches hold
lines and no bytes: memory is one copy, and no value depends on what they hold (R91, R92, R411, R417, R420, R423 to R431).
-/
namespace Sys2Proof.Machine

/-! ## Home slices -/

/-- Parity of a number's low `n` bits. -/
def parity (n v : Nat) : Nat := popBits n v % 2

/-- Word `i` of interleave descriptor `d`, active copy (R425). -/
def domWord (s : State) (d i : Nat) : Nat := (kget 0 s.mgmt.domActive (16 * d + i)).toNat
/-- The same of a staged copy. -/
def domStagedWord (s : State) (d i : Nat) : Nat := (kget 0 s.mgmt.domStaged (16 * d + i)).toNat
/-- First and last frame, first slice, n and masks of a descriptor's words (R425). -/
def domBase (w : Nat → Nat) : Nat := w 0 + 2 ^ 32 * (w 1 % 16)
def domLimit (w : Nat → Nat) : Nat := w 2 + 2 ^ 32 * (w 3 % 16)
def domValid (w : Nat → Nat) : Bool := bitOf (w 4) 31
def domN (w : Nat → Nat) : Nat := bits (w 4) 10 8
def domFirst (w : Nat → Nat) : Nat := bits (w 4) 7 0
def domMask (w : Nat → Nat) (i : Nat) : Nat := w (6 + 2 * i) + 2 ^ 32 * (w (7 + 2 * i) % 2 ^ 13)
/-- The home slice a descriptor gives an address: parity of PA[51:7] AND Mi for index bit i (R423). -/
def domHome (w : Nat → Nat) (pa : Nat) : Nat :=
  domFirst w + ((List.range (domN w)).map fun i => 2 ^ i * parity 45 (pa / 128 &&& domMask w i)).sum
/-- Whether a descriptor's range holds an address. -/
def domHolds (w : Nat → Nat) (pa : Nat) : Bool := domValid w && domBase w ≤ pa / 65536 && pa / 65536 ≤ domLimit w
/-- The home slice of a device address under the active descriptors; none outside every range. -/
def homeSlice (s : State) (pa : Nat) : Option Nat :=
  ((List.range 32).find? fun d => domHolds (domWord s d) pa).map fun d => domHome (domWord s d) pa
/-- XOR of the successive 8-bit fields of a number, `n` of them (R424). -/
def xorFields : Nat → Nat → Nat
  | 0, _ => 0
  | n + 1, v => (if n = 0 then v else v % 256) ^^^ xorFields n (v / 256)
/-- The proxy home of a host-space address: R424, over the slices the partition owns. -/
def proxySlice (s : State) (p a : Nat) : Option Nat :=
  let owned := (List.range 256).filter fun n => kget 255 s.mgmt.sown n == p
  if owned = [] then none else owned[xorFields 6 (bits a 51 7) % owned.length]?
/-- The slice at which an address's operations are performed (R423, R424). -/
def slotSlice (s : State) (p tier a : Nat) : Nat :=
  ((if tier = 0 then homeSlice s a else proxySlice s p a)).getD 0

/-- Addresses as the caches name them: device memory by its address; the host's space, above it, by the partition, whose slices give each of
its lines a proxy home, with the address (R424, R439). -/
def cacheKey (p tier a : Nat) : Nat := if tier = 1 then 2 ^ 60 + p * 2 ^ 53 + a else a
/-- The home slice, or proxy home, of a line so named. -/
def lineHome (s : State) (line : Nat) : Option Nat :=
  if line < 2 ^ 53 then homeSlice s (128 * line) else proxySlice s ((line - 2 ^ 53) / 2 ^ 46) (128 * (line % 2 ^ 46))

/-! ## The DRAM cache layer (R417, R420) -/

/-- Stack, channel and channel address of an address in device memory (R417): the interleaved range first, then the stacks' own. -/
def dramPlace (r : Record) (a : Nat) : Nat × Nat × Nat :=
  let stks := (List.range 12).filter fun k => localFrames r k < stackFrames r k
  let k := match (List.range 12).find? fun k => localBase r k ≤ a / 65536 && a / 65536 < localBase r k + localFrames r k with
    | some k => k
    | none => stks.getD (a / 4096 % stks.length) 0
  let o := if a / 65536 < interFrames r then a / 4096 / stks.length * 4096 + a % 4096
    else 65536 * (stackFrames r k - localFrames r k) + (a - 65536 * localBase r k)
  let c := channels r k
  (k, o / 1024 % c, o / (1024 * c) * 1024 + o % 1024)
/-- The set of a line and its tag: 32,768 sets of 128-byte lines in each channel's part. -/
def dramSet (r : Record) (line : Nat) : Nat × Nat :=
  let (k, c, a) := dramPlace r (128 * line)
  ((32 * k + c) * 32768 + a / 128 % 32768, a / 128 / 32768)
/-- Change a line of the layer, which becomes its set's most recently used; when it is new and the set is full, the least recently used
one leaves, its dirty halves written to storage. Lines of the host's space go to the host. -/
def dramTouch (s : State) (line : Nat) (new : Bool) (f : DramLine → DramLine) : State :=
  if 2 ^ 53 ≤ line then s else
  let (k, tag) := dramSet s.mgmt.config line
  let set := kget [] s.dram k
  match set.find? (·.tag == tag) with
  | some l => { s with dram := kput s.dram k (f l :: set.filter (·.tag != tag)) }
  | none => if new then { s with dram := kput s.dram k ((f { tag := tag } :: set).take 8) } else s
/-- A read of some granules of a line, of all eight when it is not by granule: a miss allocates them (R92, R420). -/
def dramRead (s : State) (line : Nat) (granules : BitVec 8) : State :=
  dramTouch s line true fun l => { l with granules := l.granules ||| granules }
/-- A write to a half of a line: written whole it is allocated, dirty; a partial write updates a line that is present, or passes to storage. -/
def dramWrite (s : State) (half : Nat) (whole : Bool) : State :=
  dramTouch s (half / 2) whole fun l =>
    { l with granules := if whole then l.granules ||| (0xF#8 <<< (4 * (half % 2))) else l.granules, dirty := l.dirty ||| (1#2 <<< (half % 2)) }
/-- A slice's modified line goes back: both halves are written. -/
def dramBack (s : State) (line : Nat) : State := dramWrite (dramWrite s (2 * line) true) (2 * line + 1) true

/-! ## Lines of the slices (R92, R423) -/

/-- An access to a line at its home slice, which holds 2,048 sets of 16 lines: granules the slice lacks are filled from the layer, but for a
write of the whole line; a modified line that leaves is written back. A line outside every domain goes to the layer, and one of the host's
space passes through its proxy home unheld (R424). -/
def llcTouch (s : State) (line : Nat) (granules : BitVec 8) (dirty whole : Bool) : State :=
  if 2 ^ 53 ≤ line then s else
  match homeSlice s (128 * line) with
  | none => if dirty then dramBack s line else dramRead s line granules
  | some n =>
    let set := kget [] (kget ({} : Slice) s.slices n).llc (line % 2048)
    let old := (set.find? (·.line == line)).getD { line := line }
    let s := if whole || old.granules &&& granules == granules then s else dramRead s line granules
    let lines := { old with granules := old.granules ||| granules, dirty := old.dirty || dirty } :: set.filter (·.line != line)
    let s := match lines[16]? with
      | some l => if l.dirty then dramBack s l.line else s
      | none => s
    modSlice s n fun sl => { sl with llc := kput sl.llc (line % 2048) (lines.take 16) }
/-- A frame in host bias: no device cache holds a line of it (R411). -/
def hostBias (s : State) (line : Nat) : Bool := s.mgmt.fbias.contains (line / 512)
/-- A read of a line by an agent at its home slice. -/
def homeRead (s : State) (line : Nat) (granules : BitVec 8 := 0xFF#8) : State :=
  if hostBias s line then dramRead s line granules else llcTouch s line granules false false

/-! ## Entries of a directory (R427 to R430) -/

/-- Cores or dies an entry may hold: its pointers, or every holder of a set bit of its vector, with `group` holders a bit. -/
def DirEntry.holders (e : DirEntry) (group : Nat) : List Nat :=
  if e.coarse then (List.range 8).flatMap fun j => if e.vector.getLsbD j then (List.range group).map (group * j + ·) else []
  else e.ptrs
/-- The entry covers a line. -/
def DirEntry.covers (e : DirEntry) (line : Nat) : Bool := e.base ≤ line && line < e.base + 2 ^ e.size
/-- Add a holder: pointers up to four, then a coarse vector (R428); a slice's entry has a vector of the dies from the first, and holder 8 is
the host (R427). -/
def DirEntry.add (e : DirEntry) (group h : Nat) : DirEntry :=
  let vec := fun (l : List Nat) => l.foldl (fun (v : BitVec 8) c => v ||| (1#8 <<< (c / group))) 0
  if group = 1 ∧ h = 8 then { e with host := true, quiet := 0 }
  else if group = 1 then { e with coarse := true, vector := e.vector ||| (1#8 <<< h), quiet := 0 }
  else if e.coarse then { e with vector := e.vector ||| vec [h], quiet := 0 }
  else if e.ptrs.contains h then { e with quiet := 0 }
  else if e.ptrs.length < 4 then { e with ptrs := e.ptrs ++ [h], quiet := 0 }
  else { e with coarse := true, ptrs := [], vector := vec (h :: e.ptrs), quiet := 0 }
/-- A request to a line: its region's entry is quiet no longer, and the last used, which stands first (R427, R429). -/
def dirUse (d : List DirEntry) (line : Nat) (f : DirEntry → DirEntry) : List DirEntry :=
  (d.filter (·.covers line)).map (fun e => f { e with quiet := 0 }) ++ d.filter fun e => !e.covers line
/-- A read of a line by a holder: its region's entry gains the reader, or a 64 KiB entry is made (R428). -/
def dirRead (d : List DirEntry) (group line h : Nat) : List DirEntry :=
  if d.any (·.covers line) then dirUse d line (·.add group h)
  else DirEntry.add { base := line / 512 * 512, size := 9 } group h :: d
/-- Split an entry down to one line: the line's own entry and its siblings, each with the old sharers (R429). -/
def splitDown : Nat → DirEntry → Nat → List DirEntry
  | 0, e, _ => [e]
  | n + 1, e, line =>
    let lo := { e with size := n }
    let hi := { e with base := e.base + 2 ^ n, size := n }
    if line < hi.base then splitDown n lo line ++ [hi] else [lo] ++ splitDown n hi line
/-- A holder that a directory can name: a core of a die's 64; a die or the host. -/
def isHolder (group h : Nat) : Bool := if group = 1 then h < 9 else h < 64
/-- The entry of a granted line replaced by one that holds its writer, when that is a holder, and those who have read it since (R429). -/
def dirOwn (d : List DirEntry) (group line w : Nat) (late : List Nat) : List DirEntry :=
  d.map fun e => if e.size = 0 ∧ e.base = line then
      (if isHolder group w then w :: late else late).foldl (fun e h => e.add group h) { base := line, size := 0 } else e
/-- Merge two quiet siblings of a size (R430); a bit of a coarse vector stands for `group` holders. -/
def dirMerge (d : List DirEntry) (group base size : Nat) : List DirEntry :=
  let lo := d.find? fun e => e.base == base && e.size == size
  let hi := d.find? fun e => e.base == base + 2 ^ size && e.size == size
  match lo, hi with
  | some a, some b =>
    if base % 2 ^ (size + 1) = 0 ∧ size < 9 ∧ 64 ≤ a.quiet ∧ 64 ≤ b.quiet then
      let union := (a.ptrs ++ b.ptrs).eraseDups
      let coarse := a.coarse || b.coarse || 4 < union.length
      let vec := fun (e : DirEntry) => if e.coarse then e.vector else
        e.ptrs.foldl (fun (v : BitVec 8) c => v ||| (1#8 <<< (c / group))) 0
      let m : DirEntry := { base := base, size := size + 1, coarse := coarse, ptrs := if coarse then [] else union
                            vector := if coarse then vec a ||| vec b else 0, host := a.host || b.host, quiet := min a.quiet b.quiet }
      m :: d.filter fun e => !(e.size == size && (e.base == base || e.base == base + 2 ^ size))
    else d
  | _, _ => d
/-- A holder leaves the entry of a line it has dropped: its pointer clears, and a coarse entry stays (R429). -/
def dirLeave (d : List DirEntry) (line h : Nat) : List DirEntry :=
  d.map fun e => if e.covers line && !e.coarse then { e with ptrs := e.ptrs.filter (· != h) } else e

/-! ## Lines that leave the L1s and L2s (R91, R429, R431) -/

/-- A core's L1 drops a line; a modified one goes to its die's L2. -/
def l1Leave (s : State) (core line : Nat) : State :=
  match kfind (kget ({} : Core) s.cores core).l1 line with
  | none => s
  | some v =>
    let s := modCore s core fun c => { c with l1 := kdel c.l1 line }
    if v.dirty then modDie s (dieOf core) fun d => { d with l2 := kput d.l2 line true } else s
/-- A die's L2 gives up a line, with the copies of it that it tracks: a modified one goes to its home slice (R431). -/
def l2Leave (s : State) (die line : Nat) : State :=
  let tracked := fun (c : Nat) (x : Core) => c / 64 == die && (match kfind x.l1 line with | some v => !v.selfInv | none => false)
  let dirty := kget false (kget ({} : Die) s.dies die).l2 line ||
    s.cores.any fun c => tracked c.1 c.2 && (match kfind c.2.l1 line with | some v => v.dirty | none => false)
  let s := { s with cores := kmap (fun c x => if tracked c x then { x with l1 := kdel x.l1 line } else x) s.cores }
  let s := modDie s die fun d => { d with l2 := kdel d.l2 line, dir := d.dir.filter fun e => !(e.size == 0 && e.base == line) }
  if dirty then llcTouch s line 0xFF#8 true true else s
/-- A holder of a directory drops a line. -/
def holderDrops (s : State) (dir line holder : Nat) : State :=
  if dir < 8 then l1Leave s (64 * dir + holder) line else if holder < 8 then l2Leave s holder line else s

/-! ## Directories (R427 to R431) -/

/-- Directory `n`: below 8 a die's L2, whose holders are cores of the die; 8 and above an LLC slice, whose holders are dies, with
holder 8 the host. Entries, conflicts, and holders to a vector bit. -/
def dirOf (s : State) (n : Nat) : List DirEntry × List Conflict :=
  if n < 8 then let d := kget ({} : Die) s.dies n; (d.dir, d.conflicts) else let d := kget ({} : Slice) s.slices (n - 8); (d.dir, d.conflicts)
def setDir (s : State) (n : Nat) (d : List DirEntry) (c : List Conflict) : State :=
  if n < 8 then modDie s n fun x => { x with dir := d, conflicts := c } else modSlice s (n - 8) fun x => { x with dir := d, conflicts := c }
def dirGroup (n : Nat) : Nat := if n < 8 then 8 else 1
/-- Every holder an entry stands for. -/
def allHolders (n : Nat) (e : DirEntry) : List Nat := (e.holders (dirGroup n) ++ (if e.host then [8] else [])).eraseDups
/-- The holder that reads a line on which writes wait is noted by the last of them: its copy is made after the grant. -/
def lateReader (line h : Nat) : List Conflict → List Conflict
  | [] => []
  | c :: cs => if c.line == line && !cs.any (·.line == line) then { c with late := (h :: c.late).eraseDups } :: cs else c :: lateReader line h cs
/-- A holder reads a line (R428). -/
def readDir (s : State) (dir line h : Nat) : State :=
  let (d, cs) := dirOf s dir
  setDir s dir (dirRead d (dirGroup dir) line h) (lateReader line h cs)
/-- The bank of a directory that a region's entry lies in: an L2 has 64 banks (R6), and a slice's directory stands as one. DESIGN CHOICE
(log 122): the spec gives no hash; the region's number picks the bank. -/
def dirBank (dir line : Nat) : Nat := if dir < 8 then line / 512 % 64 else 0
/-- An entry is freed: its holders give up every line of its region (R429). -/
def freeRegion (s : State) (dir : Nat) (e : DirEntry) : State :=
  let held := if dir < 8 then (s.cores.filter fun c => c.1 / 64 == dir).flatMap fun c => c.2.l1.map (·.1) else s.dies.flatMap fun d => d.2.l2.map (·.1)
  let s := ((held.filter e.covers).eraseDups).foldl (fun s l => (allHolders dir e).foldl (fun s h => holderDrops s dir l h) s) s
  let (d, cs) := dirOf s dir
  setDir s dir (d.filter fun x => !(x.base == e.base && x.size == e.size)) cs
/-- Entries a bank holds: ten at least, as one split needs them; the spec gives no number. -/
def bankRoom : Nat := 10 + Config.bankEntries
/-- Room for a line's entry to split: the least recently used entries of its bank, none with a write waiting, are freed first (R429). -/
def makeEntries (s : State) (dir line : Nat) : State :=
  let (d, cs) := dirOf s dir
  let bank := d.filter fun e => dirBank dir e.base == dirBank dir line
  let more := match bank.find? (·.covers line) with | some e => e.size | none => 0
  let out := (bank.filter fun e => !e.covers line && !cs.any fun c => e.covers c.line).reverse.take (bank.length + more - bankRoom)
  out.foldl (fun s e => freeRegion s dir e) s
/-- A conflict (R429): the line's entry splits, and every other holder is sent an invalidation. The line's own entry is quiet no longer. -/
def conflictAt (s : State) (dir line writer : Nat) (others : List Nat) : State :=
  let s := makeEntries s dir line
  let (d, cs) := dirOf s dir
  let split := d.flatMap fun x => if x.covers line then splitDown x.size x line else [x]
  setDir s dir (dirUse split line id) (cs ++ [{ line := line, writer := writer, waiting := others }])
/-- A write of a line (R429): a conflict with its other holders, with those of an earlier write still waiting when there is one; with none,
the writer holds the line, when it is a holder. -/
def writeDir (s : State) (dir line writer : Nat) : State :=
  let (d, cs) := dirOf s dir
  match (cs.filter (·.line == line)).getLast? with
  | some c =>
    let others := ((if isHolder (dirGroup dir) c.writer then c.writer :: c.late else c.late).eraseDups).filter (· != writer)
    if others ≠ [] then setDir s dir (dirUse d line id) (cs ++ [{ line := line, writer := writer, waiting := others }])
    else setDir s dir (dirUse d line id) (if isHolder (dirGroup dir) writer then lateReader line writer cs else cs)
  | none =>
    let others := match d.find? (·.covers line) with | some e => (allHolders dir e).filter (· != writer) | none => []
    if others ≠ [] then conflictAt s dir line writer others
    else setDir s dir (if isHolder (dirGroup dir) writer then dirRead d (dirGroup dir) line writer else dirUse d line id) cs
/-- A write of lines by an agent, performed at their home slices, with the agent's number among the holders: 8 the host, 9 one that is
no holder. Every line becomes modified at its slice, and its other holders give it up (R423, R429, R431); a line in host bias goes to
memory (R411). The cells are named as the caches name them. -/
def homeWrites (s : State) (cells : List Host.Cell) (agent : Nat := 9) : State :=
  let written := fun (n k : Nat) => ((cells.filter fun c => c.1 / k == n).map (·.1)).eraseDups.length == k
  ((cells.map fun c => c.1 / 128).eraseDups).foldl (fun s line =>
    if hostBias s line then
      ([2 * line, 2 * line + 1].filter fun h => cells.any fun c => c.1 / 64 == h).foldl (fun s h => dramWrite s h (written h 64)) s
    else
      let s := llcTouch s line 0xFF#8 true (written line 128)
      match lineHome s line with
      | some n => writeDir s (8 + n) line agent
      | none => s) s

/-! ## Lines that enter the L1s and L2s (R75, R91, R432) -/

/-- A line enters an L2 of 2^20 lines. DESIGN CHOICE (log 114): the lowest-numbered line leaves a full one. -/
def l2Put (s : State) (die line : Nat) (dirty : Bool) : State :=
  let lines := (kget ({} : Die) s.dies die).l2
  let s := match kfind lines line, lines with
    | none, (l, _) :: _ => if 2 ^ 20 ≤ lines.length then
        (match lineHome s l with
          | some n => let t := l2Leave s die l; let (d, cs) := dirOf t (8 + n); setDir t (8 + n) (dirLeave d l die) cs
          | none => l2Leave s die l)
        else s
    | _, _ => s
  modDie s die fun d => { d with l2 := kput d.l2 line (kget false d.l2 line || dirty) }
/-- Lines of a core's L1 that loads still outstanding, or the one that issues, have reserved (R75). -/
def reservedLines (s : State) (core : Nat) : List Nat :=
  (kget ({} : Core) s.cores core).reserved.flatMap fun q => if q.1 = s.fresh ∨ s.ops.any (fun o => o.id == q.1) then q.2 else []
/-- A load that is about to issue reserves its footprint's lines, 64 at most, when those the L1's other reservations leave are enough (R75). -/
def reserveLines (s : State) (core : Nat) (lines : List Nat) : State :=
  let others := (kget ({} : Core) s.cores core).reserved.filter fun q => s.ops.any fun o => o.id == q.1
  let taken := (others.flatMap (·.2) ++ lines).eraseDups
  if lines = [] ∨ 64 < lines.length ∨ 2048 < taken.length then s
  else modCore s core fun c => { c with reserved := others ++ [(s.fresh, lines)] }
/-- A line enters an L1 of 2,048 lines, or changes there; a reserved line is not replaced (R75). DESIGN CHOICE (log 114): the line filled
first leaves a full one, its notice handled at once. -/
def l1Put (s : State) (core line : Nat) (v : L1Line) : State :=
  let lines := (kget ({} : Core) s.cores core).l1
  if (kfind lines line).isSome || lines.length < 2048 then modCore s core fun c => { c with l1 := kput c.l1 line v }
  else
    let kept := reservedLines s core
    match lines.filter fun q => !kept.contains q.1 with
    | [] => s
    | q :: qs =>
      let out := (qs.foldl (fun m q => if q.2.stamp < m.2.stamp then q else m) q).1
      let t := modDie (l1Leave s core out) (dieOf core) fun d => { d with dir := dirLeave d.dir out (core % 64) }
      modCore t core fun c => { c with l1 := kput c.l1 line v }
/-- Lines that an operation has written, as the caches name them. -/
def Op.lines (op : Op) : List Nat :=
  (op.touched.filterMap fun a => if a / 2 ^ 60 ≤ 1 then some (cacheKey op.part (a / 2 ^ 60) (a % 2 ^ 60) / 128) else none).eraseDups
/-- The writes of an operation are granted: no conflict of its die or core stands on a line it has written (R161, R429). -/
def granted (s : State) (op : Op) : Bool :=
  let core := op.group / 64
  let die := dieOf core
  op.lines.all fun line =>
    !((kget ({} : Die) s.dies die).conflicts.any fun c => c.line == line && c.writer % 64 == core % 64) &&
    match lineHome s line with
    | some n => !((kget ({} : Slice) s.slices n).conflicts.any fun c => c.line == line && (c.writer == die || c.writer == 9))
    | none => true
/-- The acquire's invalidation: lines of self-invalidating pages filled at or before the stamp, to 64 ns, leave the core's L1 (R432); they
are written through, and none is modified. -/
def l1Acquire (s : State) (core stamp : Nat) : State :=
  let goes := fun (x : Nat × L1Line) => x.2.selfInv && x.2.stamp / 64 * 64 ≤ stamp
  if (kget ({} : Core) s.cores core).l1.any goes then modCore s core fun c => { c with l1 := c.l1.filter fun x => !goes x } else s
/-- The same for groups that have just acquired, by their keys. -/
def l1Acquires (s : State) (ks : List Nat) : State := ks.foldl (fun s k => l1Acquire s (k / 64) (kget ({} : Group) s.groups k).acqStamp) s
/-- What is left of an entry without the lines a test names: itself where there is none, else entries of its halves. -/
def unhit (hit : Nat → Bool) : Nat → DirEntry → List DirEntry
  | n, e =>
    if !((List.range (2 ^ n)).any fun i => hit (e.base + i)) then [{ e with size := n }]
    else match n with
      | 0 => []
      | n + 1 => unhit hit n { e with size := n } ++ unhit hit n { e with base := e.base + 2 ^ n, size := n }
/-- The lines a test names leave every cache and directory, modified ones going back to memory (R412, R434, R436); the other lines of their
regions keep their holders. -/
def dropLines (s : State) (hit : Nat → Bool) : State :=
  let clean := fun (d : List DirEntry) => d.flatMap fun e => unhit hit e.size e
  let dirty := (s.cores.flatMap fun c => c.2.l1.filterMap fun l => if hit l.1 && l.2.dirty then some l.1 else none) ++
    (s.dies.flatMap fun d => d.2.l2.filterMap fun l => if hit l.1 && l.2 then some l.1 else none) ++
    (s.slices.flatMap fun x => x.2.llc.flatMap fun q => q.2.filterMap fun l => if hit l.line && l.dirty then some l.line else none)
  let s := dirty.eraseDups.foldl dramBack s
  { s with
    cores := kmap (fun _ c => { c with l1 := c.l1.filter fun x => !hit x.1 }) s.cores
    dies := kmap (fun _ d => { d with l2 := d.l2.filter fun x => !hit x.1, dir := clean d.dir, conflicts := d.conflicts.filter fun c => !hit c.line }) s.dies
    slices := kmap (fun _ sl => { sl with
      llc := kmap (fun _ q => q.filter fun l => !hit l.line) sl.llc, dir := clean sl.dir, conflicts := sl.conflicts.filter fun c => !hit c.line }) s.slices }

end Sys2Proof.Machine
end

