-- ==== Sys2Proof/Machine/Tlb.lean ====
section
/-!
DEFINITION. The TLBs of cores and dies and the walk caches, what a walk leaves in them, and their snoops (R396 to R399).
-/
namespace Sys2Proof.Machine

/-- A TLB entry holds an address of a partition. -/
def TlbEntry.holds (t : TlbEntry) (p va : Nat) : Bool := t.part == p && (if t.big then t.vpage == va / 2 ^ 29 else t.vpage == va / 65536)
/-- The TLB entry for a page: the core's, or its die's (R397). -/
def tlbFind (s : State) (core p va : Nat) : Option TlbEntry :=
  ((kget ({} : Core) s.cores core).tlb.find? (·.holds p va)).or ((kget ({} : Die) s.dies (dieOf core)).tlb.find? (·.holds p va))

/-- Entries compared without their accessed and dirty bits, which the walker itself sets (R396). -/
def sameEntry (a b : Nat) : Bool := a - 8192 * bits a 14 13 == b - 8192 * bits b 14 13

/-- An entry enters a TLB, as the last used: it takes the place of its page's, or of the one used longest ago. -/
def tlbPut (l : List TlbEntry) (size : Nat) (t : TlbEntry) : List TlbEntry :=
  (t :: l.filter fun q => !(q.part == t.part && q.big == t.big && q.vpage == t.vpage)).take size
/-- The pointers a walk went through, from the lowest up; `n` is the level of the first (R397). -/
def pointersOf (s : State) (p va : Nat) : Nat → List Nat → List WalkPtr
  | _, [] => []
  | n, a :: up => { part := p, level := n, span := va / 2 ^ (16 + 13 * n), node := bits (read8 s a) 51 16, path := a :: up } :: pointersOf s p va (n + 1) up
/-- The lines that a walk has read: each is held in the directory of its home slice, with the die's TLB as a sharer (R398). -/
def walkLines (s : State) (core : Nat) (path : List Nat) : State :=
  (path.map (· / 128)).foldl (fun s line =>
    let s := homeRead s line
    match homeSlice s (128 * line) with
    | some n => readDir s (8 + n) line (dieOf core)
    | none => s) s
/-- A walk that succeeds is held by the core's TLB and the die's, and its pointers by the die's walk caches (R397). -/
def holdWalk (s : State) (core va : Nat) (t : TlbEntry) : State :=
  let s := modCore s core fun c => { c with tlb := tlbPut c.tlb 256 t }
  let ptrs := pointersOf s t.part va (if t.big then 2 else 1) t.path.tail
  modDie s (dieOf core) fun d => { d with
    tlb := if d.tlb.contains t then d.tlb else tlbPut d.tlb 16384 t
    pointers := ptrs ++ d.pointers.filter fun q => !(ptrs.any fun r => r.part == q.part && r.level == q.level && r.span == q.span) }

/-- Translate one access: a held TLB entry that no longer matches its PTE, not yet snooped, may still be used (R398,
R399); otherwise the tables are walked. A walk that succeeds is held; one that fails leaves nothing (R397). -/
def translate (s : State) (core p : Nat) (lvl : Level) (acc : Acc) (va : Nat) : Xlate × State :=
  let w := walk s p va
  let s := if w.malformed then setFault s p 2 else s
  let fresh (s : State) : Xlate × State :=
    match judge s p lvl acc va w with
    | .ok t pl fr pte =>
      let s := mark s (w.path.headD 0) acc
      let pte := pte ||| (if acc = .write then 0x6000 else 0x2000)
      (.ok t pl fr pte, holdWalk s core va { part := p, vpage := if w.big then va / 2 ^ 29 else va / 65536, big := w.big, pte := pte, path := w.path })
    | r => (r, s)
  match tlbFind s core p va with
  | none => fresh (walkLines s core w.path)
  | some t =>
    if sameEntry t.pte w.pte && t.path == w.path then fresh s
    else
      let (useOld, s) := draw s
      if useOld && !(acc == .write && !bitOf t.pte 14) then
        (judge s p lvl acc va { pte := t.pte, path := t.path, big := t.big }, s)
      else fresh (walkLines s core w.path)

/-- Drop from every TLB and walk cache what a test of partition and path names. -/
def dropWalks (s : State) (gone : Nat → List Nat → Bool) : State :=
  { s with
    cores := kmap (fun _ c => { c with tlb := c.tlb.filter fun t => !gone t.part t.path }) s.cores
    dies := kmap (fun _ d => { d with tlb := d.tlb.filter fun t => !gone t.part t.path, pointers := d.pointers.filter fun t => !gone t.part t.path }) s.dies }
/-- A write accepted to a line the walker read drops every TLB entry and cached pointer whose walk used an entry of that line: with an
entry's own, those below a pointer of the line (R398). -/
def snoopTlb (s : State) (touched : List Nat) : State :=
  let lines := touched.map (· / 128)
  dropWalks s fun _ path => path.any fun a => lines.contains (a / 128)
/-- Drop every TLB entry and cached pointer of a partition (R398, R443). -/
def dropTlb (s : State) (p : Nat) : State := dropWalks s fun q _ => q == p

end Sys2Proof.Machine
end

