-- ==== Sys2Proof/Machine/PhysMem.lean ====
section
/-!
DEFINITION. Bytes where they live: exact-sum entries, poison markers, and the raw reads and writes of device memory and of the
host's space (R144, R402, R410, R433).
-/
namespace Sys2Proof.Machine

/-! ## Exact sums -/

/-- The format of an exact-sum entry (R433). -/
def sumFmt (n : Nat) : Fmt := match n with | 0 => fp32 | 1 => fp16 | _ => bf16
/-- The bytes of an entry's format. -/
def sumSize (n : Nat) : Nat := if n = 0 then 4 else 2
/-- The rounded value a read of the location returns (R144). -/
def sumValue (x : ExactSum) : Nat :=
  let f := sumFmt x.fmt
  if x.nan || (x.pinf && x.ninf) then f.nanEnc
  else if x.pinf then f.infEnc
  else if x.ninf then f.withSign true f.infEnc
  else (f.encode 0 (ofInt x.sum (-149) x.negz)).1
/-- An entry with one contribution added (R144). -/
def sumAdd (x : ExactSum) (v : FVal) : ExactSum :=
  match v with
  | .nan => { x with nan := true, negz := false }
  | .inf false => { x with pinf := true, negz := false }
  | .inf true => { x with ninf := true, negz := false }
  | w => { x with sum := x.sum + w.scaled (-149), negz := x.negz && w.isZero && w.isNeg }
/-- Key of an address among the exact sums and marks: tier and address together. -/
def tkey (tier a : Nat) : Nat := tier * 2 ^ 60 + a
/-- The open entry that covers an address: its slice, its own address key, and it. -/
def findSum (s : State) (tier a : Nat) : Option (Nat × Nat × ExactSum) :=
  s.slices.findSome? fun (n, sl) =>
    sl.sums.findSome? fun (k, x) => if k ≤ tkey tier a && tkey tier a < k + sumSize x.fmt then some (n, k, x) else none

/-- Write bytes without any other effect. -/
def rawWrite (s : State) (tier : Nat) (cells : List Host.Cell) : State :=
  if tier = 0 then { s with mem := mputAll s.mem cells } else { s with hostMem := mputAll s.hostMem cells }
/-- Remember the bytes that a write replaces, for fetches that may still return them (R146). -/
def notePast (s : State) (tier : Nat) (cells : List Host.Cell) : State :=
  cells.foldl (fun s c =>
    let old := tierByte s tier c.1
    if old = c.2 then s
    else { s with past := kput s.past (tkey tier c.1) ({ byte := old, clock := s.clock, stamp := stampNow s } :: kget [] s.past (tkey tier c.1)) }) s
/-- Name the group that made the writes of this clock to some bytes. -/
def claimPast (s : State) (gid : Nat) (keys : List Nat) : State :=
  { s with past := keys.foldl (fun m k => kmod m k (List.map fun (q : Past) => if q.clock = s.clock ∧ q.gid = 0 then { q with gid := gid } else q)) s.past }

/-- Cells of consecutive bytes. -/
def cellsAt : Nat → List Byte → List Host.Cell
  | _, [] => []
  | a, b :: bs => (a, b) :: cellsAt (a + 1) bs

/-- Number of sets, log2, of a partition's exact-sum area; the set of an address, and an entry's place in the area (R433). -/
def sumSets (s : State) (p : Nat) : Nat := wbits (preg s p 0x21D) 4 0
def sumSet (s : State) (p a : Nat) : Nat := a / 128 % 2 ^ sumSets s p
def areaAt (s : State) (x : ExactSum) (a : Nat) : Nat := preg2 s x.part 0x21B + 64 * (8 * sumSet s x.part a + x.way)
/-- An entry's 64 bytes in the area (R433). -/
def areaBytes (x : ExactSum) (a : Nat) : List Byte :=
  leOut 8 (a % 2 ^ 52 + x.fmt * 2 ^ 52 + (b2n x.pinf + 2 * b2n x.ninf + 4 * b2n x.nan) * 2 ^ 56) ++ leOut 40 (x.sum % 2 ^ 320).toNat ++
  List.replicate 16 0
/-- The place of an entry in its partition's area lies in a frame that the partition owns (R451). -/
def areaOpen (s : State) (x : ExactSum) (a : Nat) : Bool := frameOwner s (areaAt s x a / 65536) == x.part
/-- The area holds an evicted entry's bytes as it stands; a closed one's are zero. -/
def storeArea (s : State) (x : ExactSum) (a : Nat) (bs : List Byte) : State :=
  if x.inSlice || !areaOpen s x a then s else rawWrite s 0 (cellsAt (areaAt s x a) bs)
/-- Close an exact-sum entry: the location takes the rounded sum (R144). -/
def closeSum (s : State) (tier : Nat) (slice key : Nat) (x : ExactSum) : State :=
  let a := key - tier * 2 ^ 60
  let s := rawWrite s tier (cellsAt a (leOut (sumSize x.fmt) (sumValue x)))
  let s := storeArea s x a (List.replicate 64 0)
  modSlice s slice fun sl => { sl with sums := kdel sl.sums key }

/-- Close every entry that one of the cells touches (R144). -/
def closeSums (s : State) (tier : Nat) : List Host.Cell → State
  | [] => s
  | (a, _) :: t =>
    match findSum s tier a with
    | none => closeSums s tier t
    | some (n, k, x) => closeSums (closeSum s tier n k x) tier t

/-- One byte as a read returns it: an open exact-sum entry reads as its rounded sum (R144). -/
def physByte (s : State) (tier a : Nat) : Byte :=
  match findSum s tier a with
  | none => tierByte s tier a
  | some (_, k, x) => BitVec.ofNat 8 (sumValue x / 256 ^ (tkey tier a - k))

/-- Bytes as a read returns them. -/
def physRead (s : State) (tier a : Nat) : Nat → List Byte
  | 0 => []
  | n + 1 => physByte s tier a :: physRead s tier (a + 1) n

/-- Bytes read by the device from a virtual address on: each page is translated at its first byte, `at'` being where the address stands. -/
def deviceBytes (s : State) (p : Nat) : Nat → Nat → Option (Nat × Nat) → Option (List Byte)
  | 0, _, _ => some []
  | n + 1, va, at' =>
    match (if va % 65536 = 0 then deviceAddr s p .read va else at') with
    | none => none
    | some (t, a) =>
      if badByte s t a || (t = 2 && (Config.peerByte s.clock a).isNone) then none
      else (deviceBytes s p n (va + 1) (some (t, a + 1))).map (physByte s t a :: ·)
/-- Bytes read by the device through a partition's translation; nothing when a page fails, a block is poisoned or a peer refuses. -/
def deviceRead (s : State) (p va n : Nat) : Option (List Byte) := deviceBytes s p n va (deviceAddr s p .read va)

/-- A write of a partition to some bytes meets an error of the host: it is dropped there, and sets sfault bit 3 (R402). -/
def hostFault (s : State) (p tier : Nat) (cells : List Host.Cell) : State := if cells.any fun c => hostFails s tier c.1 then setFault s p 3 else s
/-- The bytes of a write that the host takes. -/
def hostTakes (s : State) (tier : Nat) (cells : List Host.Cell) : List Host.Cell := cells.filter fun c => !hostFails s tier c.1
/-- Bytes written to memory: exact sums they touch close first, and a marked block written whole loses its marker (R144, R410). -/
def physStore (s : State) (tier : Nat) (cells : List Host.Cell) : State :=
  let s := closeSums s tier cells
  let s := rawWrite (notePast s tier cells) tier cells
  let whole := fun (blk : Nat) => (List.range 64).all fun i => cells.any fun c => c.1 == 64 * blk + i
  if tier ≠ 0 then { s with hostPoison := s.hostPoison.filter fun b => !whole b }
  else
    { s with poison := s.poison.filter (fun b => !whole b), badBlocks := s.badBlocks.filter (fun b => !whole b) }

/-- A write performed at its home slices, or at proxy homes of its partition, or of each when none is named, by an agent: a group's atomic or control word, a copy, the device, a peer or the
host (R423 to R431). -/
def physWrite (s : State) (tier : Nat) (cells : List Host.Cell) (agent : Nat := 9) (part : Nat := 64) : State :=
  let parts := if part < 64 then [part] else s.parts.map (·.1)
  homeWrites (physStore s tier cells) (if tier = 0 then cells else if tier = 1 then parts.flatMap fun p => cells.map fun c => (cacheKey p 1 c.1, c.2) else []) agent

/-- The same by a partition: what the host answers with an error is dropped (R402). -/
def partWrite (s : State) (p tier : Nat) (cells : List Host.Cell) : State := physWrite (hostFault s p tier cells) tier (hostTakes s tier cells) 9 p

/-- The walks of a read by the device (R340, R396). -/
def markRead (s : State) (p va n : Nat) : State := deviceWalk s p .read va n

/-- The device writes bytes through a partition's translation, all or nothing (R340): the write bit is checked; bytes of peers go out as
remote writes. -/
def deviceWrite (s : State) (p va : Nat) (bs : List Byte) : Option State :=
  let cells := (List.range bs.length).map fun i => (deviceAddr s p .write (va + i), bs.getD i 0)
  if cells.any fun c => c.1.isNone then none
  else
    let pick := fun t => cells.filterMap fun c => match c.1 with | some (u, a) => if u = t then some (a, c.2) else none | none => none
    let s := deviceWalk s p .write va bs.length
    let s := partWrite (partWrite s p 0 (pick 0)) p 1 (pick 1)
    let s := (putAll s { type := 1, dst := 0, part := p } ((pick 2).map fun c => (c.1 / 2 ^ 52, (c.1 % 2 ^ 52, c.2)))).2
    some (snoopTlb s ((pick 0).map (·.1)))
/-! ## Releases beside locations (R124) -/

/-- Add a release to those beside a location; one by the same party at the same scope carries the later stamp. -/
def addMark (m : RelMark) : List RelMark → List RelMark
  | [] => [m]
  | o :: t => if { o with stamp := m.stamp } = m then { m with stamp := max o.stamp m.stamp } :: t else o :: addMark m t
/-- The releases beside a location after a write to it: those before it stand on under a read-modify-write. -/
def marksAfter (rmw : Bool) (new old : List RelMark) : List RelMark :=
  new.foldl (fun l m => addMark m l) (if rmw then old else old.foldl (fun l m => addMark { m with past := true } l) [])
/-- Locations written with no release: those beside them end. -/
def endMarks (m : KMap (List RelMark)) (keys : List Nat) : KMap (List RelMark) := keys.foldl (fun m k => kmod m k (marksAfter false [])) m
/-- Key of a location's marks: a peer's address has its device number above. -/
def markKey (tier place a : Nat) : Nat := tkey tier (if tier = 2 then place * 2 ^ 52 + a else a)
/-- Marks beside some bytes after a write of all of them that leaves releases; with none to leave, only those that stand there change. -/
def writeMarks (m : KMap (List RelMark)) (keys : List Nat) (rmw : Bool) (new : List RelMark) : KMap (List RelMark) :=
  if new = [] then (if rmw then m else endMarks m keys) else keys.foldl (fun m k => kput m k (marksAfter rmw new (kget [] m k))) m
/-- The mark a cairn action or another agent's release leaves: device scope, of no group. -/
def agentMark (s : State) : RelMark := { stamp := stampNow s, scope := 3, group := 2 ^ 20, block := 0 }
/-- The device's write of a word that other parties acquire, as a release at device scope (R404, R414). -/
def releasePut (s : State) (p va : Nat) (bs : List Byte) : Option State :=
  let keys := (List.range bs.length).filterMap fun i =>
    (deviceAddr s p .write (va + i)).map fun q => tkey q.1 q.2
  deviceWrite { s with marks := writeMarks s.marks keys false [agentMark s] } p va bs

/-! ## Writes of the device that wait -/

/-- The device's write, held while one of its pages migrates (R395, R401); nothing when a page refuses it. -/
def devicePut (s : State) (p va : Nat) (bs : List Byte) : Option State :=
  if deviceWaits s p .write va bs.length then some (modPart s p fun q => { q with held := q.held ++ [(va, bs)] }) else deviceWrite s p va bs
/-- Held writes whose pages migrate no longer are made, in their order; one that a page then refuses is dropped with bit 9 of sfault. -/
def flushHeld (s : State) (p : Nat) : State :=
  (kget {} s.parts p).held.foldl (fun s (va, bs) =>
    if deviceWaits s p .write va bs.length then modPart s p fun q => { q with held := q.held ++ [(va, bs)] }
    else (deviceWrite s p va bs).getD (setFault (deviceWalk s p .write va bs.length) p 9)) (modPart s p fun q => { q with held := [] })

/-- Append a record to a log or ring whose base, capacity and next index stand at a register (R365): the index always
advances, and a record that cannot be written is dropped with bit 9 of sfault. -/
def logAppend (s : State) (p reg : Nat) (bs : List Byte) : State :=
  let base := preg2 s p reg
  let cap := (preg s p (reg + 2)).toNat
  let idx := preg s p (reg + 3)
  let s := if cap = 0 ∨ popBits 32 cap ≠ 1 then s
    else
      let va := base + bs.length * (idx.toNat % cap)
      match devicePut s p va bs with
      | some s => s
      | none => setFault (deviceWalk s p .write va bs.length) p 9
  setPreg s p (reg + 3) (idx + 1)

end Sys2Proof.Machine
end

