-- ==== Sys2Proof/Machine/Record.lean ====
section
/-!
DEFINITION. Buffer records: fields, validity, reach and element addresses (R81 to R87).
-/
namespace Sys2Proof.Machine

/-- Bits hi..lo of a record. -/
def rb (r : Rec) (hi lo : Nat) : Nat := bits r.toNat hi lo
/-- Kind: tile or linear (R81, R83). -/
def isTile (r : Rec) : Bool := bitOf r.toNat 123
/-- Element size in bytes of a size code (R81). -/
def sizeOf (code : Nat) : Nat := 2 ^ code
/-- Element size in bytes of a tile's efmt (R83). -/
def efmtSize (f : Nat) : Nat := if f ≤ 1 then 2 else if f ≤ 5 then 1 else 4
/-- Tile fields (R83). -/
def tEfmt (r : Rec) : Nat := rb r 64 61
def tSwz (r : Rec) : Nat := rb r 66 65
def tPitch (r : Rec) : Nat := rb r 60 45
def tCols (r : Rec) : Nat := rb r 44 33
def tRows (r : Rec) : Nat := rb r 32 21
def tOffset (r : Rec) : Nat := rb r 20 0
def tRcirc (r : Rec) : Bool := bitOf r.toNat 72
def tCcirc (r : Rec) : Bool := bitOf r.toNat 73
/-- Linear fields (R81). -/
def lBase (r : Rec) : Nat := rb r 56 0
def lSpace (r : Rec) : Bool := bitOf r.toNat 57
def lEsize (r : Rec) : Nat := rb r 63 60
def lExtent (r : Rec) : Nat := rb r 95 64
def lStrideField (r : Rec) : Nat := rb r 119 96
/-- Element size in bytes of either kind. -/
def recSize (r : Rec) : Nat := if isTile r then efmtSize (tEfmt r) else sizeOf (lEsize r)
/-- The stride in force: the element size when the field is zero (R82). -/
def lStride (r : Rec) : Nat := if lStrideField r = 0 then sizeOf (lEsize r) else lStrideField r
/-- Whether the record names scratchpad (R81, R83). -/
def inScratch (r : Rec) : Bool := isTile r || lSpace r
/-- Bounds mode: 0 trap, 1 mask, 2 clamp, 3 wrap (R72). -/
def bmode (r : Rec) : Nat := if isTile r then rb r 71 70 else rb r 59 58
/-- Permissions (R86). -/
def pread (r : Rec) : Bool := if isTile r then bitOf r.toNat 67 else bitOf r.toNat 120
def pwrite (r : Rec) : Bool := if isTile r then bitOf r.toNat 68 else bitOf r.toNat 121
def patom (r : Rec) : Bool := if isTile r then bitOf r.toNat 69 else bitOf r.toNat 122
/-- The plumb stage's extent, in elements (R82, R84). -/
def extent (r : Rec) : Nat := if isTile r then tRows r * tCols r else lExtent r

/-- Validity (R85). -/
def validRec (r : Rec) : Bool :=
  if isTile r then
    rb r 127 124 == 0 && rb r 122 74 == 0 && tEfmt r ≤ 7 && tSwz r ≤ 2 && tCols r * efmtSize (tEfmt r) ≤ tPitch r &&
    (tSwz r == 0 || (tOffset r % 512 == 0 && tPitch r % 512 == 0))
  else
    rb r 127 124 == 0 && lEsize r ≤ 4 && (!lSpace r || rb r 56 21 == 0)

/-- The byte address of element (row, col) of a tile, swizzle included (R84). -/
def tileAddr (r : Rec) (row col : Nat) : Nat :=
  let a := tOffset r + row * tPitch r + col * efmtSize (tEfmt r)
  let bank := a / 8 % 64
  let rest := a - 8 * bank
  match tSwz r with
  | 1 => rest + 8 * ((bank + row % 64) % 64)
  | 2 => rest + 8 * (bank ^^^ (row % 64))
  | _ => a

/-- The byte address of element `idx` (R82, R84). -/
def elemAddr (r : Rec) (idx : Nat) : Nat :=
  if isTile r then tileAddr r (idx / tCols r) (idx % tCols r) else lBase r + idx * lStride r

/-- The reach: first byte and one past the last, nothing when it is empty (R82, R84). -/
def reach (r : Rec) : Option (Nat × Nat) :=
  if isTile r then
    if tRows r = 0 ∨ tCols r = 0 then none else some (tOffset r, tOffset r + tRows r * tPitch r)
  else if lExtent r = 0 then none
  else some (lBase r, lBase r + (lExtent r - 1) * lStride r + max (sizeOf (lEsize r)) (lStride r))

/-- Whether `n` bytes from `a` lie within the record's reach. -/
def inReach (r : Rec) (a n : Nat) : Bool :=
  match reach r with
  | none => n == 0
  | some (lo, hi) => lo ≤ a && a + n ≤ hi

/-- Permission bits as a number: read, write, atomic from bit 0 (R238). -/
def perms (r : Rec) : Nat := b2n (pread r) + 2 * b2n (pwrite r) + 4 * b2n (patom r)

/-- A result of rsub is narrower than its source (R87); `fr` and `fc` are a tile's first row and column. -/
def narrower (src res : Rec) (fr fc : Nat) : Bool :=
  isTile src == isTile res &&
  (isTile src || lSpace src == lSpace res) &&
  (match reach res with | none => true | some (lo, hi) => match reach src with | none => false | some (l, h) => l ≤ lo && hi ≤ h) &&
  (perms res &&& perms src) == perms res &&
  (!isTile src || (tEfmt src == tEfmt res && tSwz src == tSwz res && tPitch src == tPitch res &&
                   tRcirc src == tRcirc res && tCcirc src == tCcirc res)) &&
  (!isTile src || tSwz src == 0 || (fr % 64 == 0 && fc * efmtSize (tEfmt src) % 512 == 0))

/-- A linear record from its fields (R81). -/
def mkLinear (perm stride ext esize bm : Nat) (space : Bool) (base : Nat) : Rec :=
  BitVec.ofNat 128 (perm % 8 * 2 ^ 120 + stride % 2 ^ 24 * 2 ^ 96 + ext % 2 ^ 32 * 2 ^ 64 + esize % 16 * 2 ^ 60 +
    bm % 4 * 2 ^ 58 + b2n space * 2 ^ 57 + base % 2 ^ 57)

/-- A tile record from a source's kept fields and new ones (R83, R238). -/
def mkTile (src : Rec) (perm bm rows cols offset : Nat) : Rec :=
  BitVec.ofNat 128 (2 ^ 123 + rb src 73 72 * 2 ^ 72 + bm % 4 * 2 ^ 70 + perm % 8 * 2 ^ 67 + tSwz src * 2 ^ 65 +
    tEfmt src * 2 ^ 61 + tPitch src * 2 ^ 45 + cols % 4096 * 2 ^ 33 + rows % 4096 * 2 ^ 21 + offset % 2 ^ 21)

end Sys2Proof.Machine
end

