-- ==== Sys2Proof/Machine/Ops.lean ====
section
/-!
DEFINITION. The named operations over a group's registers, shadows and fragments; how a block ends; and taking a trap,
as one operation, with the return from one beside it.
-/
namespace Sys2Proof.Machine

/-- What a step answers. -/
abbrev Out := Host.Outcome State Fault Refusal

/-! ## The executing fragment -/

/-- A fragment with everything around it, taken apart from the state while a step works on it. -/
structure Env where
  s : State
  k : Nat
  g : Group
  e : Nat
  f : Frag
  b : Block

/-- A fragment of a group, by group and split-table entry. -/
def envAt (s : State) (k e : Nat) : Option Env :=
  match kfind s.groups k with
  | none => none
  | some g =>
    match kfind g.table e with
    | none => none
    | some f => some ⟨s, k, g, e, f, kget {} s.blocks g.block⟩

/-- The state with the fragment, its group and its block put back. -/
def Env.commit (x : Env) : State :=
  { x.s with
    groups := kput x.s.groups x.k { x.g with table := kput x.g.table x.e x.f }
    blocks := kput x.s.blocks x.g.block x.b }

/-- Put everything back and take the same fragment apart again. -/
def Env.reload (x : Env) (s : State) : Env := (envAt s x.k x.e).getD { x with s := s }

/-- Run a meaning on the current fragment; a step that names none does not exist. -/
def withFrag (s : State) (m : Env → State) : Out :=
  match envAt s s.cur.1 s.cur.2 with
  | none => .fault .noFragment
  | some x => .next (m x)

/-- The core a group key names, and its slot. -/
def Env.core (x : Env) : Nat := x.k / 64
def Env.slot (x : Env) : Nat := x.k % 64

/-! ## Registers -/

/-- A vector register may be named under the group's allotment; lk always (R36). -/
def nameable (g : Group) (r : Nat) : Bool := r < 8 * g.units || r == 95
/-- One lane of a vector register. -/
def vreg (g : Group) (r l : Nat) : Word := kget 0 g.vregs (32 * r + l)
/-- A group-wide register. -/
def greg (g : Group) (r : Nat) : Word := kget 0 g.gregs r
/-- A vector source field: v, a broadcast g register, or zero (R35). -/
def vsrc (g : Group) (f l : Nat) : Word := if f ≤ 95 then vreg g f l else if f ≤ 126 then greg g (f - 96) else 0
/-- A group-wide source field: g or zero (R35). -/
def gsrc (g : Group) (f : Nat) : Word := if f ≤ 63 then greg g f else 0
/-- A vector predicate as a mask; p0 reads true (R37). -/
def pmask (g : Group) (p : Nat) : Mask := if p = 0 then allLanes else kget 0 g.preds p
/-- A group predicate; gp0 reads true (R37). -/
def gpred (g : Group) (p : Nat) : Bool := p == 0 || g.gpreds.getLsbD p
/-- A record register. -/
def brec (g : Group) (b : Nat) : Rec := kget 0 g.brecs b

/-- Register code of a vector source field, and of a group-wide one (R359). -/
def vcode (f : Nat) : Nat := if f ≤ 95 then f else if f ≤ 126 then 128 + (f - 96) else 127
def gcode (f : Nat) : Nat := if f ≤ 63 then 128 + f else 127
/-- Codes of a vector and of a group predicate among the pending bits. -/
def pcode (p : Nat) : Nat := 200 + p
def gpcode (p : Nat) : Nat := 208 + p

/-! ## Shadows and views -/

/-- A register's group shadow; the zero register's is [0, 0] (R35, R38). -/
def shadow (g : Group) (c : Nat) : Shadow := if c = 127 then {} else kget {} g.shadows c
/-- A shadow as an interval. -/
def Shadow.iv (s : Shadow) : Iv := ⟨s.lo, s.hi⟩
/-- The view of a register in a fragment: its shadow met with the fragment's narrowing (R57). -/
def view (g : Group) (f : Frag) (c : Nat) : Iv :=
  match f.narrow.find? (·.reg == c) with
  | some n => if c ≤ 95 then meet (shadow g c).iv ⟨n.lo, n.hi⟩ else (shadow g c).iv
  | none => (shadow g c).iv
/-- Reading a register through its view makes its narrowing the most recently used (R65). -/
def touch (f : Frag) (c : Nat) : Frag :=
  match f.narrow.find? (·.reg == c) with
  | some n => { f with narrow := n :: f.narrow.filter (·.reg != c) }
  | none => f
/-- Record a narrowing: replace the register's own, take a free slot, or the least recently used one (R65). -/
def narrowTo (f : Frag) (c : Nat) (i : Iv) : Frag :=
  { f with narrow := (⟨c, i.lo, i.hi⟩ :: f.narrow.filter (·.reg != c)).take 4 }

/-- Verdict-cache entries that name an index register are dropped when its pin changes or clears (R74). -/
def dropIdx (g : Group) (c : Nat) : Group :=
  { g with verdicts := g.verdicts.filter fun v => v.idx != c }
/-- Verdict-cache entries that name a record register are dropped when it is written (R74). -/
def dropRec (g : Group) (b : Nat) : Group := { g with verdicts := g.verdicts.filter fun v => v.recReg != b }

/-- Write a shadow for a nonempty written set (R60, R68): `full` when the set is the group's live mask. -/
def shadowWrite (g : Group) (c : Nat) (full : Bool) (i : Iv) : Group :=
  let s := shadow g c
  let h := hull s.iv i
  if s.pin then
    if h = s.iv then g
    else dropIdx { g with shadows := kput g.shadows c ⟨h.lo, h.hi, false⟩ } c
  else
    let r := if full then i else h
    { g with shadows := kput g.shadows c ⟨r.lo, r.hi, false⟩ }

/-- The code of a register among g56–g63, which the bank sets aside (R341). -/
def bankedCode (c : Nat) : Bool := 184 ≤ c && c < 192
/-- A provenance compares a register. -/
def Prov.compares (p : Prov) (c : Nat) : Bool := p.valid && (p.ra == c || (!p.useImm && p.rb == c))
/-- Any write to a compared register invalidates the provenance (R63), one set aside too, unless the register written is not the one it
names, which is set aside with it (R341). -/
def dropProv (g : Group) (c : Nat) : Group :=
  { g with provs := kmap (fun n p => if p.compares c && !(16 ≤ n && bankedCode c) then {} else p) g.provs }

/-- Set a register word's own errors right: a write of every lane value in a 64-bit word replaces its code (R54). -/
def clearErrors (g : Group) (c : Nat) (m : Mask) : Group :=
  let stays := fun (w : Nat) => !(w / 16 == c && inMask m (2 * (w % 16)) && inMask m (2 * (w % 16) + 1))
  { g with regErrors := g.regErrors.filter stays, regSingles := g.regSingles.filter stays }
/-- The same for group-wide registers: one instruction writes both registers that share a word (R54). -/
def clearWide (g : Group) (ds : List Nat) : Group :=
  let stays := fun (w : Nat) => !(128 ≤ w / 16 && ds.contains (w / 16 - 128) && ds.contains (w / 16 - 127))
  { g with regErrors := g.regErrors.filter stays, regSingles := g.regSingles.filter stays }
/-- The word of a group-wide register among g56–g63, which the bank sets aside (R54, R341). -/
def bankedWord (w : Nat) : Bool := 184 ≤ w / 16 && w / 16 < 192

/-- The lanes of a vector write: every written lane takes its value; shadow and narrowing follow from the live lanes
among them (R60, R61, R171). -/
def Env.vwriteAt (x : Env) (d : Nat) (m : Mask) (val : Nat → Word) (i : Iv) : Env :=
  if m = 0 then x else
  let g := { x.g with vregs := kputAll x.g.vregs ((lanesOf m).map fun l => (32 * d + l, val l)) }
  let g := clearErrors (dropProv g d) d m
  let ws := m &&& g.live
  let g := if ws = 0 then g else shadowWrite g d (ws == g.live) i
  let f := match x.f.narrow.find? (·.reg == d) with
    | some n =>
      if ws = 0 then x.f
      else
        let r := if ws = x.f.members then i else hull ⟨n.lo, n.hi⟩ i
        { x.f with narrow := x.f.narrow.map fun (q : Narrow) => if q.reg == d then ⟨d, r.lo, r.hi⟩ else q }
    | none => x.f
  { x with g := g, f := { f with loop := f.loop.map fun p => { p with written := d :: p.written.filter (· != d) } } }

/-- A vector write by the executing fragment to the lanes of exec whose guard is true (R171). -/
def Env.vwrite (x : Env) (d : Nat) (guard : Mask) (val : Nat → Word) (i : Iv) : Env :=
  x.vwriteAt d (x.f.exec &&& guard ||| helperExec x &&& guard) val i
where
  /-- Helper lanes execute when their leader, the lowest live lane of the quad, is in exec (R13). -/
  helperExec (x : Env) : Mask :=
    maskOf fun l => inMask x.g.helper l &&
      (match (List.range 4).find? (fun q => inMask x.g.live (4 * (l / 4) + q)) with
       | some q => inMask x.f.exec (4 * (l / 4) + q)
       | none => false)

/-- Helper lanes that execute with the fragment (R13). -/
def Env.helpers (x : Env) : Mask := Env.vwrite.helperExec x

/-- A group-wide register write (R60, R63). -/
def Env.gwrite (x : Env) (d : Nat) (v : Word) (i : Iv) : Env :=
  let c := 128 + d
  let g := dropProv { x.g with gregs := kput x.g.gregs d v } c
  let g := shadowWrite g c true i
  { x with g := g, f := { x.f with loop := x.f.loop.map fun p => { p with written := c :: p.written.filter (· != c) } } }

/-- Group-wide registers that one instruction has written together: words it replaced whole lose their errors (R54). -/
def Env.wrote (x : Env) (ds : List Nat) : Env := { x with g := clearWide x.g ds }

/-- A write to lanes of a vector predicate; p0 discards it (R37). DESIGN CHOICE (log 126): one that writes no lane leaves the provenance too, as R63
says of a guarded compare; it does not say so of predicate operations, fcmp and a poll that no lane receives (R185, R195). -/
def Env.pwrite (x : Env) (p : Nat) (m val : Mask) (pr : Prov) : Env :=
  if p = 0 ∨ m = 0 then x
  else { x with g := { x.g with preds := kput x.g.preds p ((kget 0 x.g.preds p &&& ~~~m) ||| (val &&& m)),
                                provs := kput x.g.provs p pr },
                f := { x.f with loop := x.f.loop.map fun q => { q with written := pcode p :: q.written.filter (· != pcode p) } } }
/-- A write to a group predicate; gp0 discards it (R37). -/
def Env.gpwrite (x : Env) (p : Nat) (v : Bool) (pr : Prov) : Env :=
  if p = 0 then x
  else { x with g := { x.g with gpreds := if v then x.g.gpreds ||| (1#8 <<< p) else x.g.gpreds &&& ~~~(1#8 <<< p),
                                provs := kput x.g.provs (8 + p) pr },
                f := { x.f with loop := x.f.loop.map fun q => { q with written := gpcode p :: q.written.filter (· != gpcode p) } } }
/-- A record register write (R74). -/
def Env.bwrite (x : Env) (b : Nat) (r : Rec) : Env :=
  { x with g := dropRec { x.g with brecs := kput x.g.brecs b r } b }

/-- Advance past an instruction of `n` bytes. -/
def Env.skip (x : Env) (n : Nat) : Env := { x with f := { x.f with pc := x.f.pc + word n } }

/-! ## Releasing the waiters of the cluster barrier (R210) -/

/-- Groups of a cluster that have not ended, as block × 16 + index: its resident blocks' and its saved ones'. -/
def clusterGroups (s : State) (c : Nat) : List Nat :=
  let of := fun (id : Nat) (b : Block) => (List.range 16).filterMap fun i => if b.alive.getLsbD i then some (16 * id + i) else none
  s.blocks.flatMap (fun (id, b) => if b.cluster = c then of id b else []) ++
  s.saved.flatMap (fun (id, b) => if b.block.cluster = c then of id b.block else [])

/-- Change every fragment of a group, the one set aside by a trap included. -/
def mapFrags (c : Frag → Frag) (g : Group) : Group :=
  { g with table := kmap (fun _ f => c f) g.table
           spill := g.spill.map c
           bank := g.bank.map fun k => { k with frag := c k.frag } }

/-- Release the fragments waiting in cbar.sync (R210). -/
def cbarFree (now : Nat) (f : Frag) : Frag := if f.wait = .cbar then { f with wait := .none, pc := f.pc + 4, reached := now } else f

/-- The same for a saved group: its cbar.sync waiters wait no longer once they are restored (R211). -/
def keepFree (g : Group) : Group := { g with kept := kmap (fun _ q => { q with waits := false }) g.kept }
/-- Complete the cluster barrier's phase when the arrived groups are as many as the groups that have not ended (R210). DEDUCED (log 21): a group
that has arrived and whose block then ends or is killed stays among the arrived. -/
def cbarCheck (s : State) (c : Nat) : State :=
  match kfind s.clusters c with
  | none => s
  | some cl =>
    if cl.arrived = [] ∨ cl.arrived.length < (clusterGroups s c).length then s
    else
      let hit := fun (g : Group) => (kget ({} : Block) s.blocks g.block).cluster == c
      l1Acquires { s with
        clusters := kput s.clusters c { cl with arrived := [], phase := !cl.phase, stamp := 0 }
        saved := kmap (fun _ b => if b.block.cluster = c then { b with groups := kmap (fun _ g => keepFree g) b.groups } else b) s.saved
        groups := kmap (fun _ g =>
          if hit g then mapFrags (cbarFree s.clock) { g with acqStamp := max g.acqStamp cl.stamp } else g)
          s.groups } (s.groups.filterMap fun q => if hit q.2 then some q.1 else none)

/-! ## The end of a block (R32, R348) -/

/-- Keys of a block's resident groups. -/
def blockGroups (s : State) (b : Nat) : List Nat := s.groups.filterMap fun (k, g) => if g.block = b then some k else none

/-- Priority at which a saved cluster waits: its launch's, or its task group's (R383, R387). -/
def clusterPri (s : State) (c : Nat) : Nat :=
  match (kget ({} : Cluster) s.clusters c).launch with
  | some l => bits (leAt (kget ({} : Launch) s.launches l).bytes 36 4) 2 0
  | none => ((s.saved.find? fun x => x.2.block.cluster == c).map (·.2.block.pri)).getD 0
/-- Work that is a saved cluster. -/
def Waiting.isSaved (c : Nat) : Waiting → Bool
  | .saved d _ => d == c
  | _ => false
/-- A cluster's saved blocks join the list of the die they left, once none of its blocks is still to be saved (R357, R387). -/
def queueSaved (s : State) (c : Nat) : State :=
  match s.saved.find? fun x => x.2.block.cluster == c with
  | none => s
  | some (_, sb) =>
    let d := kget ({} : Die) s.dies sb.die
    if s.blocks.any (fun x => x.2.cluster == c && x.2.preempting) || d.waiting.any (·.isSaved c) || d.reservation.any (·.work.isSaved c) then s
    else modDie s sb.die fun d => { d with waiting := d.waiting ++ [.saved c (clusterPri s c)] }
/-- A block of a cluster has gone: the cluster ends with its last block, and its launch counts it (R32). -/
def clusterEnd (s : State) (c : Nat) : State :=
  if s.blocks.any (fun x => x.2.cluster == c) || s.saved.any (fun x => x.2.block.cluster == c) then queueSaved (cbarCheck s c) c
  else
    match kfind s.clusters c with
    | none => s
    | some cl =>
      let s := { s with clusters := kdel s.clusters c }
      match cl.launch with
      | none => s
      | some l => { s with launches := kmod s.launches l fun x => { x with ended := x.ended + 1 } }

/-- An operation whose records or beacons have not been accepted: a kill ends it (R348). -/
def unaccepted (o : Op) : Bool := match o.kind with | .spawn _ _ => true | .post _ _ => true | .beacon _ _ => true | _ => false
/-- Free save slots of a partition (R385). -/
def freeSaveSlots (s : State) (p : Nat) (ns : List Nat) : State :=
  if ns = [] then s else modPart s p fun q => { q with slots := q.slots.filter fun n => !ns.contains n }
/-- Give back everything a block holds on its core and end it (R32, R348, R385). -/
def blockEnd (s : State) (b : Nat) (killed : Bool) : State :=
  match kfind s.blocks b with
  | none => s
  | some blk =>
    let ks := blockGroups s b
    let gids := ks.map fun k => (kget ({} : Group) s.groups k).gid
    let s := { s with
      ops := s.ops.filter fun o => !(killed && unaccepted o && gids.contains o.gid)
      groups := s.groups.filter (fun (_, g) => g.block != b)
      blocks := kdel s.blocks b
      slices := kmap (fun _ sl => { sl with waiters := sl.waiters.filter fun (_, w) => !ks.contains w.1 }) s.slices }
    let s := modCore s blk.core fun c => { c with
      locks := c.locks.filter fun l => l.block != b
      keystones := c.keystones.filter fun (_, q) => q.block != b
      quarry := if killed then c.quarry.filter fun f => !(f.cont && ks.contains (64 * blk.core + f.slot)) else c.quarry
      division := if s.blocks.any (fun x => x.2.core == blk.core) then c.division else none }
    let s := freeSaveSlots s blk.part (blk.slot.toList ++ blk.resumeSlot.toList)
    let s := match (kget ({} : Cluster) s.clusters blk.cluster).launch with
      | some l => if killed then { s with launches := kmod s.launches l fun x => { x with killed := true } } else s
      | none => s
    clusterEnd s blk.cluster

/-- The task-kill log record of a killed task group (R376). -/
def killRecord (s : State) (k : Nat) (g : Group) (code cause : Nat) : List Byte :=
  let (n, node, origin) := g.task.getD (0, 0, 0)
  let linked := g.links
  let low := (linked.head?.map (·.2)).getD 0
  let high := (linked.getLast?.map (·.2)).getD 0
  leOut 2 node ++ leOut 1 origin ++ leOut 1 n ++ leOut 4 (k / 64 + 1024 * (k % 64)) ++ leOut 1 code ++ leOut 1 cause ++ leOut 2 0 ++
  leOut 4 (maskOf fun l => linked.any (·.1 == l)).toNat ++ leOut 8 low ++ leOut 8 high ++ leOut 6 (stampNow s) ++ List.replicate 26 0

/-- The kill disposition: every group of the block ends at once, without join decrements, and its copies with it (R348). -/
def killBlock (s : State) (b code cause : Nat) : State :=
  match kfind s.blocks b with
  | none => s
  | some blk =>
    let active := (kget ({} : Partition) s.parts blk.part).state == .active
    let s := (blockGroups s b).foldl (fun s k =>
      match kfind s.groups k with
      | none => s
      | some g =>
        if g.task.isSome && active then
          let s := logAppend s blk.part 0x40 (killRecord s k g code cause)
          let v := preg s blk.part 0x44
          if bitOf v.toNat 5 then signal s blk.part (v.toNat % 32) else s
        else s) s
    blockEnd s b true

/-! ## Taking a trap (R341 to R343) -/

/-- Word 0 to 15 of the trap record (R343). -/
def trapWords (t : Trap) : List Word :=
  [word (t.code + 256 * t.cause + 65536 * t.entry + 524288 * b2n t.inWait), t.pc, t.mask, t.word,
   word t.addr, word (t.addr / 2 ^ 32 % 2 ^ 25), t.detail, word t.slot] ++ (t.command ++ List.replicate 8 0).take 8

/-- A trap record as bytes, for the logs. -/
def trapBytes (t : Trap) : List Byte := (trapWords t).flatMap fun w => leOut 4 w.toNat

/-- Append a trap record to the partition's sflog and signal sfvec (R342, R365). -/
def faultLog (s : State) (p : Nat) (t : Trap) : State :=
  signal (logAppend s p 0x38 (trapBytes t)) p ((preg s p 0x3C).toNat % 32)

/-- A supervisor fault: the block ends as by kill, logged and signalled (R342). -/
def supervisorFault (s : State) (b : Nat) (t : Trap) : State :=
  killBlock (faultLog s (kget {} s.blocks b).part t) b t.code t.cause

/-- A 128-bit record from four system registers, lowest first (R340). -/
def pregRec (s : State) (p n : Nat) : Rec :=
  BitVec.ofNat 128 ((List.range 4).foldl (fun a i => a + (preg s p (n + i)).toNat * 2 ^ (32 * i)) 0)

/-- Key of a fetch block: its virtual block number under the code record and the level it is fetched with (R339). -/
def codeKey (r : Rec) (lvl : Level) (va : Nat) : Nat := (2 * r.toNat + if lvl = .supervisor then 1 else 0) * 2 ^ 60 + va / 32
/-- The fetched code bytes of a group at a virtual address, as far as known, for the trap record's word (R343). -/
def peekByte (s : State) (p : Nat) (r : Rec) (lvl : Level) (g : Group) (va : Nat) : Byte :=
  match kfind g.fetched (codeKey r lvl va) with
  | some bs => bs.getD (va % 32) 0
  | none => match deviceAddr s p .read va with
    | some (t, a) => if t ≤ 1 then physByte s t a else Config.noCode s.clock va
    | none => Config.noCode s.clock va

/-- The code record a group fetches through (R339, R340). -/
def codeRec (s : State) (b : Block) (lvl : Level) : Rec := if lvl = .supervisor then pregRec s b.part 4 else b.code

/-- The 32-bit word at a code address, or the halfword of a 16-bit instruction (R343). -/
def peekWord (s : State) (b : Block) (g : Group) (pc : Word) : Word :=
  let r := codeRec s b g.level
  let at' := fun i => peekByte s b.part r g.level g (lBase r + pc.toNat + i)
  if (at' 0).toNat % 2 = 0 then word (leVal [at' 0, at' 1]) else word (leVal [at' 0, at' 1, at' 2, at' 3])

/-- What a group's banked registers hold, set aside (R341); their provenances stay in the group, beside the others. -/
def setAside (g : Group) (k : Bank) : Bank :=
  { k with
    errors := g.regErrors.filter bankedWord, singles := g.regSingles.filter bankedWord
    gvals := (List.range' 56 8).map fun r => (r, greg g r)
    gshadows := (List.range' 56 8).map fun r => (128 + r, shadow g (128 + r))
    gpreds := g.gpreds
    recs := (List.range' 4 4).map fun b => (b, brec g b) }
/-- Set aside the user values of g56–g63, gp6, gp7 and b4–b7, and install the handler's (R341 step 3). -/
def bankIn (s : State) (part : Nat) (g : Group) (t : Trap) (f : Frag) : Group :=
  let regs := List.range' 56 8
  let bank := setAside g { trap := t, frag := f }
  let w0 := (trapWords t).headD 0
  let mine := [(30, kget {} g.provs 14), (31, kget {} g.provs 15)]
  let g := regs.foldl (fun g r => dropIdx (dropProv g (128 + r)) (128 + r)) g
  let g := (List.range' 4 4).foldl dropRec g
  { g with
    bank := some bank
    level := .supervisor
    regErrors := g.regErrors.filter fun w => !bankedWord w
    regSingles := g.regSingles.filter fun w => !bankedWord w
    strec := trapWords t
    gregs := kputAll g.gregs (regs.map fun r => (r, if r = 56 then w0 else 0))
    shadows := kputAll g.shadows (regs.map fun r => (128 + r, if r = 56 then ⟨sgn w0, sgn w0, false⟩ else {}))
    gpreds := g.gpreds &&& 0x3F#8
    provs := kputAll g.provs ([(14, {}), (15, {})] ++ mine)
    brecs := kputAll g.brecs ((List.range' 4 4).map fun b => (b, pregRec s part (0x10 + 4 * (b - 4)))) }

/-- The fragment as the handler starts: fmt zero, at shvec, members, exec and narrowings kept (R341 step 4), and its arrivals at barriers,
which are the fragment's (R209). -/
def handlerFrag (f : Frag) (shvec : Word) : Frag :=
  { members := f.members, exec := f.exec, pc := shvec, narrow := f.narrow, age := f.age, arrive := .header, arrived := f.arrived,
    lastIssue := f.lastIssue, reached := f.reached }

/-- Take a trap in the executing fragment (R341). At supervisor level it is a supervisor fault (R342). -/
def takeTrap (x : Env) (t : Trap) : State :=
  let t := { t with entry := x.e, word := if t.word = 0 then peekWord x.s x.b x.g t.pc else t.word }
  if x.g.level = .supervisor then supervisorFault x.commit x.g.block t
  else
    let x := if t.replay.isSome then { x with f := { x.f with replay := t.replay } } else x
    let g := bankIn x.s x.b.part x.g t x.f
    { x with g := g, f := handlerFrag x.f (preg x.s x.b.part 0) }.commit

/-- A trap at the instruction, before any effect (R341, R347). -/
def trapAt (x : Env) (code cause : Nat) (len : Nat := 4) : State :=
  takeTrap x { code := code, cause := cause, pc := x.f.pc, mask := x.f.exec, next := x.f.pc + word len }

/-- The illegal-encoding trap at the instruction (R165). -/
def illegal (x : Env) (len : Nat := 4) : State := trapAt x 1 0 len

/-! ## The return from a trap (R346) -/

/-- The user's registers in their places, those set aside put back (R341, R346). -/
def unbank (g : Group) (k : Bank) : Group :=
  { g with
    regErrors := (g.regErrors.filter fun w => !bankedWord w) ++ k.errors
    regSingles := (g.regSingles.filter fun w => !bankedWord w) ++ k.singles
    gregs := kputAll g.gregs k.gvals
    shadows := kputAll g.shadows k.gshadows
    gpreds := (g.gpreds &&& 0x3F#8) ||| (k.gpreds &&& 0xC0#8)
    provs := kdel (kdel (kputAll g.provs [(14, kget {} g.provs 30), (15, kget {} g.provs 31)]) 30) 31
    brecs := kputAll g.brecs k.recs }
/-- Put the banked user values back: registers, shadows, pins, provenances and records (R346, R74). -/
def bankOut (g : Group) (k : Bank) : Group :=
  let g := (List.range' 4 4).foldl dropRec g
  let g := (List.range' 56 8).foldl (fun g r => dropIdx (dropProv g (128 + r)) (128 + r)) g
  { unbank g k with bank := none, level := .user }
/-- The user's registers set aside again: `u` holds them in their places, `g` what the handler holds there. -/
def rebank (u g : Group) : Group :=
  let keep := fun {α : Type} (d : α) (m old : KMap α) (ks : List Nat) => ks.foldl (fun m q => kput m q (kget d old q)) m
  let handlers := ([1, 2, 3, 4, 5, 6, 7, 9, 10, 11, 12, 13]).filter fun n => (List.range' 184 8).any (kget {} g.provs n).compares
  { u with
    bank := u.bank.map (setAside u)
    regErrors := (u.regErrors.filter fun w => !bankedWord w) ++ g.regErrors.filter bankedWord
    regSingles := (u.regSingles.filter fun w => !bankedWord w) ++ g.regSingles.filter bankedWord
    gregs := keep 0 u.gregs g.gregs (List.range' 56 8)
    shadows := keep {} u.shadows g.shadows (List.range' 184 8)
    gpreds := (u.gpreds &&& 0x3F#8) ||| (g.gpreds &&& 0xC0#8)
    provs := kputAll (keep {} u.provs g.provs ([14, 15] ++ handlers)) [(30, kget {} u.provs 14), (31, kget {} u.provs 15)]
    brecs := keep 0 u.brecs g.brecs (List.range' 4 4) }
/-- A change of the user's registers, made on those set aside while a handler runs (R341). -/
def userChange (c : Group → Group) (g : Group) : Group :=
  match g.bank with
  | none => c g
  | some k => rebank (c (unbank g k)) g

/-- The fragment as it stood when the trap was taken, with the narrowings the handler left and the arrivals it has made (R209, R346). -/
def userFrag (k : Bank) (now : Frag) : Frag :=
  { k.frag with narrow := now.narrow, arrived := now.arrived, lastIssue := now.lastIssue, rewait := true, peer := none }

/-- Leave the handler: user level, user registers, F's program counter, exec and fmt (R346). -/
def leaveHandler (x : Env) (k : Bank) : Env := { x with g := bankOut x.g k, f := userFrag k x.f }

end Sys2Proof.Machine
end

