-- ==== Sys2Proof/Machine/Flags.lean ====
section
/-!
DEFINITION. What an instruction leaves beside its result: the result intervals of R58 and R59, the provenance of a compare
(R63), and the refinement of shadows by a branch (R64, R66).
-/
namespace Sys2Proof.Machine

/-! ## Result intervals (R58) -/

def ivAdd (a b : Iv) : Iv := orTop ⟨a.lo + b.lo, a.hi + b.hi⟩
def ivSub (a b : Iv) : Iv := orTop ⟨a.lo - b.hi, a.hi - b.lo⟩
/-- Hull of the four products. -/
def ivMulExact (a b : Iv) : Iv :=
  hull (hull (point (a.lo * b.lo)) (point (a.lo * b.hi))) (hull (point (a.hi * b.lo)) (point (a.hi * b.hi)))
def ivMul (a b : Iv) : Iv := orTop (ivMulExact a b)
/-- The product interval plus the third operand; TOP on overflow at either step. -/
def ivMad (a b c : Iv) : Iv := if orTop (ivMulExact a b) = ivMulExact a b then ivAdd (ivMulExact a b) c else top
/-- A known amount or control word: the view is one point (R59). -/
def known (b : Iv) : Option Nat := if b.lo = b.hi then some (b.lo % 2 ^ 32).toNat else none
def ivShl (a b : Iv) : Iv :=
  match known b with
  | some n => let k := min n 32; orTop ⟨a.lo * 2 ^ k, a.hi * 2 ^ k⟩
  | none => top
def ivSar (a b : Iv) : Iv :=
  match known b with
  | some n => let k := min n 32; ⟨a.lo / 2 ^ k, a.hi / 2 ^ k⟩
  | none => ⟨min a.lo 0, max a.hi 0⟩
def ivShr (a b : Iv) : Iv :=
  match known b with
  | some n =>
    let k := min n 32
    if k = 0 then a else if 0 ≤ a.lo then ⟨a.lo / 2 ^ k, a.hi / 2 ^ k⟩ else ⟨0, 4294967295 / 2 ^ k⟩
  | none => if 0 ≤ a.lo then ⟨0, a.hi⟩ else top
def ivAnd (a b : Iv) : Iv :=
  if 0 ≤ a.lo ∧ 0 ≤ b.lo then ⟨0, min a.hi b.hi⟩ else if 0 ≤ a.lo then ⟨0, a.hi⟩ else if 0 ≤ b.lo then ⟨0, b.hi⟩ else top
def ivAndn (a _b : Iv) : Iv := if 0 ≤ a.lo then ⟨0, a.hi⟩ else top
def ivOr (a b : Iv) : Iv :=
  if 0 ≤ a.lo ∧ 0 ≤ b.lo then ⟨0, 2 ^ bitLen (max a.hi b.hi).toNat - 1⟩ else top
def ivMinI (a b : Iv) : Iv := ⟨min a.lo b.lo, min a.hi b.hi⟩
def ivMaxI (a b : Iv) : Iv := ⟨max a.lo b.lo, max a.hi b.hi⟩
def ivMinN (a b : Iv) : Iv :=
  if 0 ≤ a.lo ∧ 0 ≤ b.lo then ⟨min a.lo b.lo, min a.hi b.hi⟩
  else if 0 ≤ a.lo then ⟨0, a.hi⟩ else if 0 ≤ b.lo then ⟨0, b.hi⟩ else top
def ivMaxN (a b : Iv) : Iv := if 0 ≤ a.lo ∧ 0 ≤ b.lo then ⟨max a.lo b.lo, max a.hi b.hi⟩ else top
def ivAbs (a : Iv) : Iv :=
  if 0 ≤ a.lo then a else if a.lo = minI then top else if a.hi ≤ 0 then ⟨-a.hi, -a.lo⟩ else ⟨0, max (-a.lo) a.hi⟩
def ivNeg (a : Iv) : Iv := if minI < a.lo then ⟨-a.hi, -a.lo⟩ else top
/-- The field width of a bfe control word (R177). -/
def bfeWidth (ctl : Nat) : Nat := min (bits ctl 15 8) 32
def ivBfeN (_a b : Iv) : Iv :=
  match known b with
  | some c => let w := bfeWidth c; if 1 ≤ w ∧ w ≤ 31 then ⟨0, 2 ^ w - 1⟩ else top
  | none => top
def ivBfeI (_a b : Iv) : Iv :=
  match known b with
  | some c => let w := bfeWidth c; if 1 ≤ w ∧ w ≤ 31 then ⟨-(2 ^ (w - 1)), 2 ^ (w - 1) - 1⟩ else top
  | none => top
def ivDivN (a b : Iv) : Iv := if 0 ≤ a.lo ∧ 1 ≤ b.lo then ⟨a.lo / b.hi, a.hi / b.lo⟩ else top
def ivRemN (a b : Iv) : Iv :=
  if 0 ≤ a.lo ∧ 1 ≤ b.lo then ⟨0, min a.hi (b.hi - 1)⟩ else if 0 ≤ a.lo ∧ b.lo = 0 then ⟨0, a.hi⟩ else top
def ivTop2 (_a _b : Iv) : Iv := top
def ivTop1 (_a : Iv) : Iv := top
def ivCount (_a : Iv) : Iv := ⟨0, 32⟩

/-! ## Compares (R63, R163, R183) -/

/-- The relation and signedness of a condition code (R63, R163). -/
def condRel (c : Nat) : Rel × Bool :=
  match c with
  | 0 => (.eq, true) | 1 => (.ne, true) | 2 => (.lt, true) | 3 => (.le, true) | 4 => (.gt, true) | 5 => (.ge, true)
  | 6 => (.lt, false) | 7 => (.le, false) | 8 => (.gt, false) | _ => (.ge, false)

/-- Whether a relation holds between two integers. -/
def Rel.holds (r : Rel) (a b : Int) : Bool :=
  match r with | .eq => a == b | .ne => a != b | .lt => a < b | .le => a ≤ b | .gt => b < a | .ge => b ≤ a

/-- The truth of a condition between two words (R183). -/
def condHolds (c : Nat) (a b : Word) : Bool :=
  let (r, s) := condRel c
  if s then r.holds a.toInt b.toInt else r.holds a.toNat b.toNat

/-! ## Refinement (R64) -/

def Rel.negate : Rel → Rel
  | .eq => .ne | .ne => .eq | .lt => .ge | .le => .gt | .gt => .le | .ge => .lt
def Rel.mirror : Rel → Rel
  | .eq => .eq | .ne => .ne | .lt => .gt | .le => .ge | .gt => .lt | .ge => .le

/-- The interval R64 gives x when the relation holds between x and y, before it is met with x's view. -/
def refineIv (r : Rel) (signed : Bool) (x y : Iv) : Option Iv :=
  let ne : Option Iv :=
    if y.lo = y.hi then
      (if y.lo = x.lo then some ⟨x.lo + 1, x.hi⟩ else if y.lo = x.hi then some ⟨x.lo, x.hi - 1⟩ else none)
    else none
  if signed then
    match r with
    | .lt => some ⟨x.lo, y.hi - 1⟩
    | .le => some ⟨x.lo, y.hi⟩
    | .gt => some ⟨y.lo + 1, x.hi⟩
    | .ge => some ⟨y.lo, x.hi⟩
    | .eq => some (meet x y)
    | .ne => ne
  else
    match r with
    | .lt => if 0 ≤ y.lo then some ⟨0, y.hi - 1⟩ else none
    | .le => if 0 ≤ y.lo then some ⟨0, y.hi⟩ else none
    | .gt => if 0 ≤ x.lo ∧ 0 ≤ y.lo then some ⟨y.lo + 1, x.hi⟩ else none
    | .ge => if 0 ≤ x.lo ∧ 0 ≤ y.lo then some ⟨y.lo, x.hi⟩ else none
    | .eq => if 0 ≤ y.lo then some (meet x y) else none
    | .ne => if 0 ≤ y.lo then ne else none

/-- The view of a provenance's second operand: its register's, or the immediate as one point. -/
def provY (g : Group) (f : Frag) (p : Prov) : Iv := if p.useImm then point p.imm.toInt else view g f p.rb

/-- The narrowings a branch in direction `dir` records in a fragment (R64), from the views before the branch. -/
def refineFrag (g : Group) (f : Frag) (p : Prov) (dir : Bool) : Frag :=
  let r := if dir then p.rel else p.rel.negate
  let x := view g f p.ra
  let y := provY g f p
  let put (f : Frag) (c : Nat) (v : Iv) (o : Option Iv) : Frag :=
    match o with
    | some i => let m := meet v i; if c ≤ 95 ∧ m.lo ≤ m.hi then narrowTo f c m else f
    | none => f
  let f := put f p.ra x (refineIv r p.signed x y)
  if p.useImm then f else put f p.rb y (refineIv r.mirror p.signed y x)

/-- The refinement of group shadows by a uniform branch (R66): g registers that are not pinned. -/
def refineGroup (g : Group) (f : Frag) (p : Prov) (dir : Bool) : Group :=
  let r := if dir then p.rel else p.rel.negate
  let x := view g f p.ra
  let y := provY g f p
  let put (g : Group) (c : Nat) (v : Iv) (o : Option Iv) : Group :=
    match o with
    | some i =>
      let m := meet v i
      if 128 ≤ c ∧ !(shadow g c).pin ∧ m.lo ≤ m.hi then { g with shadows := kput g.shadows c ⟨m.lo, m.hi, false⟩ } else g
    | none => g
  let g' := put g p.ra x (refineIv r p.signed x y)
  if p.useImm then g' else put g' p.rb y (refineIv r.mirror p.signed y x)

end Sys2Proof.Machine
end

