-- ==== Sys2Proof/Machine/Operands.lean ====
section
/-!
DEFINITION. How an instruction issues: the register-field checks of R35, R36 and R165, waiting for pending registers (R39),
double-bit errors in the words it reads (R54), and the operand forms shared by many instructions.
-/
namespace Sys2Proof.Machine

/-- The instruction waits at issue: nothing has changed (R39, R44, R245, R249). -/
def stall (x : Env) : State := { x.s with stalled := true }

/-- A vector source field names something the group may name (R35, R36). -/
def srcOk (g : Group) (f : BitVec 7) : Bool := 96 ≤ f.toNat || nameable g f.toNat
/-- A vector destination field (R35, R36). -/
def dstOk (g : Group) (f : BitVec 7) : Bool := f.toNat ≤ 95 && nameable g f.toNat
/-- A group-wide source and destination field (R35). -/
def gsOk (f : BitVec 7) : Bool := f.toNat ≤ 63 || f.toNat == 127
def gdOk (f : BitVec 7) : Bool := f.toNat ≤ 63
/-- A vector pair source: even register with both in the allotment, a broadcast pair, or a pair of zero (R100, R177). -/
def srcPairOk (g : Group) (f : BitVec 7) : Bool :=
  f.toNat == 127 || (f.toNat % 2 == 0 && (96 ≤ f.toNat || (nameable g f.toNat && nameable g (f.toNat + 1))))
/-- A vector pair destination (R100, R181). -/
def dstPairOk (g : Group) (f : BitVec 7) : Bool := f.toNat % 2 == 0 && f.toNat ≤ 94 && nameable g f.toNat && nameable g (f.toNat + 1)
/-- Group-wide pairs (R100). -/
def gsPairOk (f : BitVec 7) : Bool := f.toNat == 127 || (f.toNat % 2 == 0 && f.toNat ≤ 62)
def gdPairOk (f : BitVec 7) : Bool := f.toNat % 2 == 0 && f.toNat ≤ 62
/-- A block of g registers by its first: a multiple of `n`, ending at or below g63 (R236, R266). -/
def gblockOk (n : Nat) (f : BitVec 7) : Bool := f.toNat % n == 0 && f.toNat + n ≤ 64

/-- The second register of a pair source field. -/
def pairHi (f : Nat) : Nat := if f = 127 then 127 else f + 1
/-- The value of the second register of a vector pair source in a lane; the broadcast pair 126 reaches g31 (R35). -/
def vsrcHi (g : Group) (f l : Nat) : Word := if f ≤ 95 then vreg g (f + 1) l else if f ≤ 126 then greg g (f - 95) else 0
/-- The code of that register. -/
def vcodeHi (f : Nat) : Nat := if f ≤ 95 then f + 1 else if f ≤ 126 then 128 + (f - 95) else 127

/-- The registers an instruction reads, by code, each with the lanes whose values are read; helper lanes raise no trap of their own
(R13, R54). -/
abbrev Reads := List (Nat × Mask)
/-- The same lanes of every register. -/
def readsOf (codes : List Nat) (m : Mask) : Reads := codes.map fun c => (c, m)
/-- A register word is among those read. -/
def wordRead (rs : Reads) (w : Nat) : Bool :=
  rs.any fun (c, m) => if c ≤ 95 then w / 16 == c && (inMask m (2 * (w % 16)) || inMask m (2 * (w % 16) + 1))
                       else 128 ≤ c && c < 192 && w / 16 == c / 2 * 2
/-- A register word the instruction reads that holds a double-bit error, and those that hold a single-bit error (R54). -/
def errorWord (g : Group) (rs : Reads) : Option Nat := g.regErrors.find? (wordRead rs)
def singleWords (g : Group) (rs : Reads) : List Nat := g.regSingles.filter (wordRead rs)

/-- The data-error trap of a register word (R54): the register's code in detail, the word's lanes in the mask. DESIGN CHOICE (log 80):
two group-wide registers, 2k and 2k + 1, share a word, and its trap reports the even one's code and F's exec. -/
def errorTrap (x : Env) (w len : Nat) : State :=
  takeTrap x { code := 7, cause := 2, pc := x.f.pc, next := x.f.pc + word len, detail := word (w / 16)
               mask := if w / 16 ≤ 95 then lane1 (2 * (w % 16)) ||| lane1 (2 * (w % 16) + 1) else x.f.exec }

/-- Single-bit errors in words that are read are corrected and counted in the core's counters (R54, R96). -/
def corrected (s : State) (core n : Nat) : State := if n = 0 then s else modCore s core fun c => { c with corrected := c.corrected + n }
/-- The meaning of an instruction whose words hold single-bit errors; one that then waits at issue has read nothing. -/
def Env.correct (x : Env) (ws : List Nat) (m : Env → State) : State :=
  if ws = [] then m x
  else
    let t := m { x with s := corrected x.s x.core ws.length, g := { x.g with regSingles := x.g.regSingles.filter fun w => !ws.contains w } }
    if t.stalled then m x else t

/-- Issue: decode checks of the word's fields, then the wait for pending registers, then errors in the words read, then the
instruction's own meaning, with the views of its sources touched (R39, R54, R57, R65, R165). DESIGN CHOICE (log 81): of several
narrowed sources the last listed, B after A, is the most recently used. -/
def issueReads (x : Env) (ok : Bool) (srcs dsts : List Nat) (reads : Reads) (len : Nat) (m : Env → State) : State :=
  if !ok then illegal x len
  else if (srcs ++ dsts).any x.g.pending.contains then stall x
  else match errorWord x.g reads with
    | some w => errorTrap x w len
    | none => { x with f := srcs.foldl touch x.f }.correct (singleWords x.g reads) m
/-- Issue of an instruction that reads the same lanes of every source. -/
def issueWith (x : Env) (ok : Bool) (srcs dsts : List Nat) (reads : Mask) (len : Nat) (m : Env → State) : State :=
  issueReads x ok srcs dsts (readsOf srcs reads) len m

/-- Issue of an instruction whose lanes read their own values. -/
def issue (x : Env) (ok : Bool) (srcs dsts : List Nat) (m : Env → State) : State :=
  issueWith x ok srcs dsts x.f.exec 4 m

/-! ## Vector and group-wide instructions of the arithmetic chapter (R171) -/

/-- A vector instruction of two sources: destination, guard, operation on (a, b, prior) and its result interval. -/
def vec2 (x : Env) (b a d : BitVec 7) (g : BitVec 3) (op : Word → Word → Word → Word) (iv : Iv → Iv → Iv → Iv)
    (prior : Bool := false) : State :=
  issue x (dstOk x.g d && srcOk x.g a && srcOk x.g b)
    ([vcode a.toNat, vcode b.toNat] ++ (if prior then [d.toNat] else []) ++ (if g = 0 then [] else [pcode g.toNat])) [d.toNat] fun x =>
    let i := iv (view x.g x.f (vcode a.toNat)) (view x.g x.f (vcode b.toNat)) (view x.g x.f d.toNat)
    ((x.vwrite d.toNat (pmask x.g g.toNat)
      (fun l => op (vsrc x.g a.toNat l) (vsrc x.g b.toNat l) (vreg x.g d.toNat l)) i).skip 4).commit

/-- Its group-wide twin (R162, R171). -/
def grp2 (x : Env) (b a d : BitVec 7) (g : BitVec 3) (op : Word → Word → Word → Word) (iv : Iv → Iv → Iv → Iv)
    (prior : Bool := false) : State :=
  issue x (gdOk d && gsOk a && gsOk b)
    ([gcode a.toNat, gcode b.toNat] ++ (if prior then [128 + d.toNat] else []) ++ (if g = 0 then [] else [gpcode g.toNat]))
    [128 + d.toNat] fun x =>
    let i := iv (view x.g x.f (gcode a.toNat)) (view x.g x.f (gcode b.toNat)) (view x.g x.f (128 + d.toNat))
    let x := if gpred x.g g.toNat then
        x.gwrite d.toNat (op (gsrc x.g a.toNat) (gsrc x.g b.toNat) (greg x.g d.toNat)) i
      else x
    (x.skip 4).commit

/-- A vector instruction of one source. -/
def vec1 (x : Env) (a d : BitVec 7) (g : BitVec 3) (op : Word → Word) (iv : Iv → Iv) : State :=
  issue x (dstOk x.g d && srcOk x.g a) ([vcode a.toNat] ++ (if g = 0 then [] else [pcode g.toNat])) [d.toNat] fun x =>
    ((x.vwrite d.toNat (pmask x.g g.toNat) (fun l => op (vsrc x.g a.toNat l))
      (iv (view x.g x.f (vcode a.toNat)))).skip 4).commit

/-- Its group-wide twin. -/
def grp1 (x : Env) (a d : BitVec 7) (g : BitVec 3) (op : Word → Word) (iv : Iv → Iv) : State :=
  issue x (gdOk d && gsOk a) ([gcode a.toNat] ++ (if g = 0 then [] else [gpcode g.toNat])) [128 + d.toNat] fun x =>
    let x := if gpred x.g g.toNat then x.gwrite d.toNat (op (gsrc x.g a.toNat)) (iv (view x.g x.f (gcode a.toNat))) else x
    (x.skip 4).commit

/-- A vector immediate instruction (R182); the joined form of a LIT pair is `len` 8 (R153). -/
def vecImm (x : Env) (imm : Word) (a d : BitVec 7) (g : BitVec 3) (len : Nat) (op : Word → Word → Word) (iv : Iv → Iv → Iv) : State :=
  issueWith x (dstOk x.g d && srcOk x.g a) ([vcode a.toNat] ++ (if g = 0 then [] else [pcode g.toNat])) [d.toNat]
    x.f.exec len fun x =>
    ((x.vwrite d.toNat (pmask x.g g.toNat) (fun l => op (vsrc x.g a.toNat l) imm)
      (iv (view x.g x.f (vcode a.toNat)) (point imm.toInt))).skip len).commit

/-- Its group-wide twin. -/
def grpImm (x : Env) (imm : Word) (a d : BitVec 7) (g : BitVec 3) (len : Nat) (op : Word → Word → Word) (iv : Iv → Iv → Iv) : State :=
  issueWith x (gdOk d && gsOk a) ([gcode a.toNat] ++ (if g = 0 then [] else [gpcode g.toNat])) [128 + d.toNat]
    x.f.exec len fun x =>
    let x := if gpred x.g g.toNat then
        x.gwrite d.toNat (op (gsrc x.g a.toNat) imm) (iv (view x.g x.f (gcode a.toNat)) (point imm.toInt))
      else x
    (x.skip len).commit

/-- A 16-bit instruction: destination and first source d, second source a register or an immediate (R152, R191). -/
def half2 (x : Env) (s2 : Option Nat) (imm : Word) (d : Nat) (readD : Bool) (op : Word → Word → Word) (iv : Iv → Iv → Iv) : State :=
  let ok := nameable x.g d && (match s2 with | some r => nameable x.g r | none => true)
  let srcs := (if readD then [d] else []) ++ (match s2 with | some r => [r] | none => [])
  issueWith x ok srcs [d] x.f.exec 2 fun x =>
    let b := fun l => match s2 with | some r => vreg x.g r l | none => imm
    let vb := match s2 with | some r => view x.g x.f r | none => point imm.toInt
    ((x.vwrite d allLanes (fun l => op (vreg x.g d l) (b l)) (iv (view x.g x.f d) vb)).skip 2).commit

/-- A vector compare: destination predicate, with its provenance (R63, R183). -/
def vecCmp (x : Env) (b : Option (BitVec 7)) (imm : Word) (a : BitVec 7) (c : BitVec 4) (p g : BitVec 3) (len : Nat) : State :=
  let ok := c.toNat ≤ 9 && srcOk x.g a && (match b with | some r => srcOk x.g r | none => true)
  let bc := match b with | some r => [vcode r.toNat] | none => []
  issueWith x ok ([vcode a.toNat] ++ bc ++ (if g = 0 then [] else [pcode g.toNat])) [pcode p.toNat] x.f.exec len fun x =>
    let bv := fun l => match b with | some r => vsrc x.g r.toNat l | none => imm
    let m := (x.f.exec ||| x.helpers) &&& pmask x.g g.toNat
    let (r, s) := condRel c.toNat
    let pr : Prov := { valid := true, signed := s, rel := r, useImm := b.isNone, ra := vcode a.toNat
                       rb := bc.headD 255, imm := if b.isNone then imm else 0, mask := m &&& x.g.live }
    let x := if m &&& x.g.live = 0 then
        { x with g := (x.pwrite p.toNat m (maskOf fun l => condHolds c.toNat (vsrc x.g a.toNat l) (bv l)) (kget {} x.g.provs p.toNat)).g }
      else x.pwrite p.toNat m (maskOf fun l => condHolds c.toNat (vsrc x.g a.toNat l) (bv l)) pr
    (x.skip len).commit

/-- Its group-wide twin (R63, R183). -/
def grpCmp (x : Env) (b : Option (BitVec 7)) (imm : Word) (a : BitVec 7) (c : BitVec 4) (p g : BitVec 3) (len : Nat) : State :=
  let ok := c.toNat ≤ 9 && gsOk a && (match b with | some r => gsOk r | none => true)
  let bc := match b with | some r => [gcode r.toNat] | none => []
  issueWith x ok ([gcode a.toNat] ++ bc ++ (if g = 0 then [] else [gpcode g.toNat])) [gpcode p.toNat] x.f.exec len fun x =>
    let bv := match b with | some r => gsrc x.g r.toNat | none => imm
    let (r, s) := condRel c.toNat
    let pr : Prov := { valid := true, signed := s, rel := r, useImm := b.isNone, ra := gcode a.toNat
                       rb := bc.headD 255, imm := if b.isNone then imm else 0 }
    let x := if gpred x.g g.toNat then x.gpwrite p.toNat (condHolds c.toNat (gsrc x.g a.toNat) bv) pr else x
    (x.skip len).commit

/-- A predicate operation on a vector predicate: written lanes, value mask; the provenance becomes invalid (R63, R185). -/
def vecPred (x : Env) (srcs : List Nat) (ok : Bool) (d : BitVec 3) (m : Env → Mask) (val : Env → Mask) : State :=
  issue x ok srcs [pcode d.toNat] fun x =>
    ((x.pwrite d.toNat (m x) (val x) {}).skip 4).commit

/-- The lanes that execute an unguarded vector instruction: exec with its helper lanes (R13, R171). -/
def Env.active (x : Env) : Mask := x.f.exec ||| x.helpers

/-- Round-mode field of the fragment's fmt, and its FP8 overflow bit (R41). -/
def rnd (f : Frag) : Nat := f.fmt.toNat % 4
def f8ov (f : Frag) : Bool := bitOf f.fmt.toNat 2

/-- A vector FP instruction of two sources; the destination's shadow becomes TOP (R186). -/
def fp2 (x : Env) (b a d : BitVec 7) (g : BitVec 3) (op : Nat → Word → Word → Word → Word) (prior : Bool := false) : State :=
  vec2 x b a d g (op (rnd x.f)) (fun _ _ _ => top) prior

/-- A vector FP instruction of one source (R189, R190). -/
def fp1 (x : Env) (a d : BitVec 7) (g : BitVec 3) (op : Nat → Bool → Word → Word) : State :=
  vec1 x a d g (op (rnd x.f) (f8ov x.f)) ivTop1

end Sys2Proof.Machine
end

