-- ==== Sys2Proof/Machine/Code.lean ====
section
/-!
DEFINITION. Fetching code: blocks of 32 bytes, the bytes an instruction is decoded from, and what an instruction sees at another code
address (R146 to R148, R153, R158, R160, R231, R339).
-/
namespace Sys2Proof.Machine

/-- Why a fetch brings no instruction. -/
inductive FetchStop
  | trap (code cause addr : Nat)
  | park (pte : Nat)
  | waits
  deriving DecidableEq, Repr
/-- A write that a group's fetches need not have seen: none of what happens-before the fence.acq of its last sequence of R147, or before
its start, whose acquire stamp and clock the group holds. -/
def unseen (g : Group) (q : Past) : Bool :=
  match g.codeSeen with
  | none => true
  | some (stamp, clock) => stamp < q.stamp && !(q.gid == g.gid && q.clock ≤ clock)
/-- A byte as a fetch may return it: as it stands, or as it stood before some of the writes named, newest first (R146). -/
def agedByte : Byte → List Past → State → Byte × State
  | b, [], s => (b, s)
  | b, q :: qs, s =>
    let (older, s) := draw s
    if older then agedByte q.byte qs s else (b, s)
/-- Bytes of device memory or of the host's space as a group's fetch returns them, each chosen for itself (R121, R146). -/
def agedBytes (g : Group) (tier a : Nat) : Nat → State → List Byte × State
  | 0, s => ([], s)
  | n + 1, s =>
    let (b, s) := agedByte (physByte s tier a) ((kget [] s.past (tkey tier a)).takeWhile (unseen g)) s
    let (bs, s) := agedBytes g tier (a + 1) n s
    (b :: bs, s)
/-- Key of an instruction-cache line: the partition beside the block's own key. -/
def lineKey (part key : Nat) : Nat := part * 2 ^ 200 + key
/-- The group and its core's instruction cache hold a block's bytes (R231). -/
def holdBlock (s : State) (k part key : Nat) (bs : List Byte) : State :=
  let s := { s with groups := kmod s.groups k fun g => { g with fetched := kput g.fetched key bs } }
  modCore s (k / 64) fun c => { c with icache := kput c.icache (lineKey part key) bs }
/-- One fetch block of 32 bytes. A peer's block comes from the group's fetched bytes, from the core's instruction cache, or is asked for;
the empty list stands for an error answer. -/
def fetchBlock (s : State) (k part : Nat) (lvl : Level) (r : Rec) (vb : Nat) : Sum FetchStop (List Byte) × State :=
  let va := 32 * vb
  let key := codeKey r lvl va
  match translate s (k / 64) part lvl .fetch va with
  | (.trap c u, s) => (.inl (.trap c u va), s)
  | (.park a, s) => (.inl (.park a), s)
  | (.ok tier place frame _, s) =>
    let g := kget ({} : Group) s.groups k
    let a := 65536 * frame + va % 65536
    if tier = 2 then
      match kfind g.fetched key, kfind (kget ({} : Core) s.cores (k / 64)).icache (lineKey part key) with
      | some [], _ => (.inl (.trap 7 0 va), { s with groups := kmod s.groups k fun g => { g with fetched := kdel g.fetched key } })
      | some bs, _ => (.inr bs, holdBlock s k part key bs)
      | none, some bs => (.inr bs, holdBlock s k part key bs)
      | none, none =>
        if s.remotes.any fun q => q.2.code == some (k, key) then (.inl .waits, s)
        else (.inl .waits, (askSector s { type := 0, dst := place, part := part, code := some (k, key), pa := a }).2)
    else if tier = 0 ∧ poisoned s a then (.inl (.trap 7 (b2n (s.badBlocks.contains (a / 64))) va), s)
    else if badByte s tier a then (.inl (.trap 7 0 va), s)
    else
      let (bs, s) := agedBytes g tier a 32 s
      (.inr bs, holdBlock s k part key bs)
/-- Bytes of code from a code address: each within the code record's reach, each block's page open to fetch (R160). -/
def fetchBytes (s : State) (k part : Nat) (lvl : Level) (r : Rec) (pc : Nat) : Nat → Sum FetchStop (List Byte) × State
  | 0 => (.inr [], s)
  | n + 1 =>
    match fetchBytes s k part lvl r pc n with
    | (.inl t, s) => (.inl t, s)
    | (.inr bs, s) =>
      let va := lBase r + pc + n
      if !(validRec r && !isTile r && !inScratch r && pread r && inReach r va 1) || 2 ^ 57 ≤ va then (.inl (.trap 6 3 va), s)
      else if n ≠ 0 && va % 32 ≠ 0 then
        (.inr (bs ++ [(kget [] (kget ({} : Group) s.groups k).fetched (codeKey r lvl va)).getD (va % 32) 0]), s)
      else match fetchBlock s k part lvl r (va / 32) with
        | (.inl t, s) => (.inl t, s)
        | (.inr blk, s) => (.inr (bs ++ [blk.getD (va % 32) 0]), s)
/-- The bytes of one instruction: two, four, or a LIT's with its follower's (R148, R153). -/
def fetchInstr (s : State) (k part : Nat) (lvl : Level) (r : Rec) (pc : Nat) : Sum FetchStop (List Byte) × State :=
  match fetchBytes s k part lvl r pc 2 with
  | (.inl t, s) => (.inl t, s)
  | (.inr h, s) =>
    if leVal h % 2 = 0 then (.inr h, s)
    else match fetchBytes s k part lvl r pc 4 with
      | (.inl t, s) => (.inl t, s)
      | (.inr w, s) =>
        if leVal w % 256 ≠ 0xF9 then (.inr w, s)
        else match fetchBytes s k part lvl r pc 6 with
          | (.inl t, s) => (.inl t, s)
          | (.inr l, s) => if leVal (l.drop 4) % 2 = 0 then (.inr l, s) else fetchBytes s k part lvl r pc 8

/-- What an executing fragment finds at another code address: four bytes as its fetch returns them, and the machine after it. -/
def codeAt (x : Env) (a : Word) : Sum FetchStop Nat × Env :=
  match fetchBytes x.commit x.k x.b.part x.g.level (codeRec x.s x.b x.g.level) a.toNat 4 with
  | (.inl t, s) => (.inl t, x.reload s)
  | (.inr bs, s) => (.inr (leVal bs), x.reload s)
/-- The first instruction at another code address: its two bytes, or its four (R148). -/
def firstAt (x : Env) (a : Word) : Sum FetchStop Nat × Env :=
  match fetchBytes x.commit x.k x.b.part x.g.level (codeRec x.s x.b x.g.level) a.toNat 2 with
  | (.inl t, s) => (.inl t, x.reload s)
  | (.inr bs, s) => if leVal bs % 2 = 0 then (.inr (leVal bs), x.reload s) else codeAt (x.reload s) a
/-- The group's access is parked at a migrating page: its instruction issues again when the page has come (R401). -/
def Env.park (x : Env) (pte : Nat) : State := { x with g := { x.g with parked := some ⟨x.e, pte, 15, []⟩ } }.commit

end Sys2Proof.Machine
end

