-- ==== Sys2Proof/Machine/Fragments.lean ====
section
/-!
DEFINITION. Fragments of one group: splits, spill and reload, reconvergence, rotation, transfers, the spin detector and the
end of lanes (R13, R15 to R25, R32, R205); block barriers, which count fragments (R209).
-/
namespace Sys2Proof.Machine

/-! ## The split table (R15, R16, R20, R21) -/

/-- Every fragment of a group. -/
def groupFrags (g : Group) : List Frag := g.table.map (·.2) ++ g.spill
/-- The lowest free split-table entry. -/
def freeEntry (g : Group) : Option Nat := (List.range Config.tableEntries).find? fun e => (kfind g.table e).isNone
/-- Reload spilled fragments, the most recently ejected first, while an entry is free; each evaluates its wait mask again
(R21, R159). -/
def reloadSpill : Nat → Group → Group
  | 0, g => g
  | n + 1, g =>
    match freeEntry g, g.spill with
    | some e, f :: rest => reloadSpill n { g with table := kput g.table e { f with rewait := true }, spill := rest }
    | _, _ => g
/-- Reload what the free entries can take. -/
def refill (g : Group) : Group := reloadSpill Config.spillEntries g
/-- Give a new fragment an entry, or eject it to the spill area (R20). -/
def addFrag (g : Group) (f : Frag) : Group :=
  match freeEntry g with
  | some e => { g with table := kput g.table e f }
  | none => { g with spill := f :: g.spill }

/-! ## Reconvergence (R18, R19) -/

/-- The fragment is at an address and may fuse there. -/
def atAddr (a : Word) (f : Frag) : Bool := f.pc == a && (f.wait == .none || f.wait == .reconv)
/-- The one of a list with the least value of a measure, the first of them, and the one with the greatest, the last of them. -/
def leastBy (m : Frag → Nat) : List Frag → Frag
  | [] => {}
  | f :: fs => fs.foldl (fun b g => if m g < m b then g else b) f
def greatestBy (m : Frag → Nat) : List Frag → Frag
  | [] => {}
  | f :: fs => fs.foldl (fun b g => if m b ≤ m g then g else b) f
/-- What a fused fragment still owes on arrival. -/
def arriveJoin (fs : List Frag) : Arrival :=
  if fs.any (·.arrive == .calli) then .calli
  else if fs.any (·.arrive == .header) then .header else .none
/-- For each register narrowed in every fusing fragment, the hull of the narrowings (R18). DESIGN CHOICE (log 81): their order of use is
that of the first fusing fragment, the one in the lowest entry. -/
def fuseNarrow : List Frag → List Narrow
  | [] => []
  | f :: fs => f.narrow.filterMap fun n =>
      let others := fs.map fun g => g.narrow.find? (·.reg == n.reg)
      if others.any (·.isNone) then none
      else
        let h := others.foldl (fun (i : Iv) o => match o with | some m => hull i ⟨m.lo, m.hi⟩ | none => i) ⟨n.lo, n.hi⟩
        some ⟨n.reg, h.lo, h.hi⟩
/-- The fused fragment, still waiting at `a`: the enclosing address is that of the fragment that waited longest, fmt that
of the last to arrive (R18). DESIGN CHOICE (log 38): of several that arrived last in one clock, as when one barrier released them, fmt is that of
the last in the order of the entries and then of the spill area. -/
def fuse (a : Word) (fs : List Frag) : Frag :=
  let own := leastBy (·.reached) (fs.filter fun f => f.reconv == some a)
  let last := greatestBy (·.reached) fs
  { members := fs.foldl (fun m f => m ||| f.members) 0
    exec := fs.foldl (fun m f => m ||| f.exec) 0
    pc := a, reconv := some a, encl := own.encl, fmt := last.fmt, narrow := fuseNarrow fs, wait := .reconv
    header := own.header, hword := own.hword, arrive := arriveJoin fs
    arrived := own.arrived.filter fun b => fs.all fun f => f.arrived.contains b
    lastIssue := (greatestBy (·.lastIssue) fs).lastIssue, rotated := own.rotated, reached := last.reached }
/-- Proceed past the reconvergence address (R18, R19). -/
def proceed (f : Frag) : Frag := { f with wait := .none, reconv := f.encl, encl := none }

/-- Settle one address at which some fragment reconverges. DESIGN CHOICE (log 38): where every fusing fragment stands in the spill area, so that
there is no lowest entry (R18), the fused one goes to the front of the spill list, as the most recently ejected. -/
def settleAt (g : Group) (a : Word) : Group :=
  let here := g.table.filter fun x => atAddr a x.2
  let spilled := g.spill.filter (atAddr a)
  let fs := here.map (·.2) ++ spilled
  if fs.length ≤ 1 then
    mapFrags (fun f => if atAddr a f && f.reconv == some a then { f with wait := .reconv } else f) g
  else
    let rest : Group := { g with table := g.table.filter (fun x => !atAddr a x.2), spill := g.spill.filter (fun f => !atAddr a f) }
    let f := fuse a fs
    let f := if (groupFrags rest).any (fun o => o.reconv == some a) then f else proceed f
    match here with
    | (e, _) :: _ => refill { rest with table := kput rest.table e f }
    | [] => refill { rest with spill := f :: rest.spill }

/-- A fragment whose address must be settled: it has reached its reconvergence address, or it meets a fragment waiting there (R18). -/
def unsettled (g : Group) (f : Frag) : Bool :=
  f.wait == .none && (f.reconv == some f.pc || (groupFrags g).any fun o => o.wait == .reconv && o.pc == f.pc)
/-- Settle every address that a fragment has reached (R18). -/
def settleFuel : Nat → Group → Group
  | 0, g => g
  | n + 1, g =>
    match (groupFrags g).find? (unsettled g) with
    | none => g
    | some f => settleFuel n (settleAt g f.pc)
/-- Settlement of a group at user level; a handler's fragment has no reconvergence address, and the others are stopped. -/
def settle (g : Group) : Group := if g.level = .user then settleFuel 96 g else g

/-- A waiting fragment may proceed without fusing (R19). -/
def mayProceed (g : Group) (e : Nat) (f : Frag) : Bool :=
  let others := (g.table.filter fun x => x.1 != e).map (·.2) ++ g.spill
  f.wait == .reconv &&
  (others.all (fun o => o.reconv != some f.pc && o.encl != some f.pc) || others.all (fun o => o.wait != .none))

/-! ## Rotation (R21) -/

/-- The table fragment a rotation ejects. -/
def rotationVictim (g : Group) : Option Nat :=
  let ok := g.table.filter fun x => !x.2.rotated
  match ok.find? fun x => x.2.wait != .none with
  | some x => some x.1
  | none =>
    match ok.find? fun x => x.2.spin with
    | some x => some x.1
    | none =>
      let least := leastBy (·.lastIssue) (ok.map (·.2))
      (ok.find? fun x => x.2.lastIssue == least.lastIssue).map (·.1)
/-- Exchange the fragment ejected longest ago with the victim (R21, R159). -/
def rotate (g : Group) (now : Nat) : Group :=
  let g := { g with rotClock := now }
  match rotationVictim g, g.spill.getLast? with
  | some e, some f =>
    { g with table := kput g.table e { f with rotated := true, rewait := true }
             spill := (kget {} g.table e) :: g.spill.dropLast }
  | _, _ => g

/-- The entry of a group's fragment that satisfies a test; a spilled one changes places with a free entry or with the fragment a rotation
would eject, the handler's entry and one that a park names apart. -/
def bringIn (g : Group) (p : Frag → Bool) : Option (Nat × Group) :=
  match g.table.find? (fun x => p x.2), g.spill.find? p with
  | some (e, _), _ => some (e, g)
  | none, none => none
  | none, some f =>
    let kept := [g.bank.map (·.trap.entry), g.parked.map (·.entry), g.resuming.map (·.entry)]
    let free := { g with table := g.table.filter fun x => !kept.contains (some x.1) }
    let e := match freeEntry g with | some e => e | none => (rotationVictim free).getD ((free.table.map (·.1)).headD 0)
    some (e, { g with table := kput g.table e { f with rotated := true }, spill := (kfind g.table e).toList ++ g.spill.erase f })

/-! ## The spin detector (R25) -/

/-- Bytes of the instruction whose first word is `w`. -/
def instrBytes (w : Word) : Nat := if w.toNat % 2 = 0 then 2 else if wbits w 7 1 = 0x7C then 8 else 4
/-- Instructions from `a` up to `pc` are at most the fuel. -/
def fewBack (s : State) (b : Block) (g : Group) (pc : Nat) : Nat → Nat → Nat → Bool
  | 0, _, a => a == pc
  | steps + 1, n, a =>
    if a = pc then true
    else if pc < a then false
    else
      let w := peekWord s b g (word a)
      if wbits w 7 0 = 0xFF then fewBack s b g pc steps n (a + (if bitOf w.toNat 29 then 8 else 4))
      else if n = 0 then false
      else fewBack s b g pc steps (n - 1) (a + instrBytes w)
/-- A value the fragment wrote in the loop has changed since the snapshot. -/
def loopChanged (g : Group) (f : Frag) (p : LoopSnap) : Bool :=
  f.exec != p.exec || p.written.any fun c =>
    if c ≤ 95 then (lanesOf f.members).any fun l => vreg g c l != kget 0 p.vregs (32 * c + l)
    else if c < 192 then greg g (c - 128) != kget 0 p.gregs (c - 128)
    else if c < 208 then kget 0 g.preds (c - 200) &&& f.members != kget 0 p.preds (c - 200) &&& f.members
    else g.gpreds.getLsbD (c - 208) != p.gpreds.getLsbD (c - 208)
/-- A branch taken by the whole fragment: what the detector learns from it. -/
def spinSee (x : Env) (t : Word) : Frag :=
  if t.toNat ≤ x.f.pc.toNat && fewBack x.s x.b x.g x.f.pc.toNat 64 16 t.toNat then
    let snap : LoopSnap := { branch := x.f.pc, target := t, written := [], vregs := x.g.vregs, gregs := x.g.gregs
                             preds := x.g.preds, gpreds := x.g.gpreds, exec := x.f.exec }
    match x.f.loop with
    | some p => { x.f with loop := some snap, spin := p.branch == x.f.pc && p.target == t && !loopChanged x.g x.f p }
    | none => { x.f with loop := some snap }
  else x.f
/-- The mark clears when a value has changed. A fragment with no loop on record, restored without one, keeps its mark until it issues. -/
def spinDrop (g : Group) (f : Frag) : Frag :=
  match f.loop with
  | some p => if f.spin && loopChanged g f p then { f with spin := false } else f
  | none => f
/-- The same for every fragment of a group, when its registers have been written: while a handler runs, against the user's registers but
for the handler's own fragment (R25, R341). -/
def spinSettle (g : Group) : Group :=
  if !(groupFrags g).any (·.spin) && !(g.bank.any (·.frag.spin)) then g
  else match g.bank with
    | none => mapFrags (spinDrop g) g
    | some k =>
      let u := mapFrags (spinDrop (unbank g k)) g
      { u with table := kmap (fun e f => if e = k.trap.entry then spinDrop g (kget {} g.table e) else f) u.table }
/-- The mark before an instruction issues at `pc`: it clears outside the loop, and when a value has changed. -/
def spinClear (g : Group) (f : Frag) : Frag :=
  match f.loop with
  | none => { f with spin := false }
  | some p => if f.pc.toNat < p.target.toNat || p.branch.toNat < f.pc.toNat then { f with loop := none, spin := false } else spinDrop g f

/-- Transfer the whole fragment to a code address, which it must find to be a clause header (R158). -/
def Env.goto (x : Env) (t : Word) : Env := { x with f := { x.f with pc := t, arrive := .header } }
/-- The same for a branch the spin detector watches. -/
def Env.branch (x : Env) (t : Word) : Env := { x with f := { spinSee x t with pc := t, arrive := .header } }

/-! ## Block barriers (R209, R131) -/

/-- Fragments of a group released by barrier `n`: one that waits for its second arrival executes its instruction again. -/
def barFree (now n : Nat) (f : Frag) : Frag :=
  let f' := { f with arrived := f.arrived.filter (· != n) }
  if f.wait = .bar n then
    if f.again then { f' with wait := .none, again := false } else { f' with wait := .none, pc := f.pc + 4, reached := now }
  else f'
/-- A group departs from barrier `n`: a fragment of it waits there in bar.sync. -/
def departs (g : Group) (n : Nat) : Bool :=
  (groupFrags g ++ (match g.bank with | some k => [k.frag] | none => [])).any fun f => f.wait == .bar n && !f.again
/-- A group has arrived at barrier `n`: every fragment it holds has. -/
def groupArrived (g : Group) (n : Nat) : Bool := groupFrags g != [] && (groupFrags g).all fun f => f.arrived.contains n
/-- The stamp an arrival carries: the group's own writes and what its acquires brought (R131, R145). -/
def releaseStamp (g : Group) : Nat := max g.wrStamp g.acqStamp
/-- The group arrives, when its last fragment has: the first arriving group sets the expected count (R209). -/
def barArrive (s : State) (k n : Nat) : State :=
  match kfind s.groups k with
  | none => s
  | some g =>
    let b := kget {} s.blocks g.block
    let bar := kget {} b.bars n
    if groupArrived g n && !bar.arrived.getLsbD g.index then
      let bar := { bar with
        arrived := bar.arrived ||| (1#16 <<< g.index)
        expected := if bar.countSet then bar.expected else kget 0 g.barCounts n
        countSet := true
        stamp := max bar.stamp (releaseStamp g) }
      { s with blocks := kput s.blocks g.block { b with bars := kput b.bars n bar } }
    else s
/-- Complete the phase when the arrived groups reach the expected count (R209): departing groups synchronise with the arrivals (R131). -/
def barCheck (s : State) (blk n : Nat) : State :=
  match kfind s.blocks blk with
  | none => s
  | some b =>
    let bar := kget {} b.bars n
    let want := if bar.expected = 0 then popBits 16 b.alive.toNat else bar.expected
    if bar.countSet && want ≤ popBits 16 bar.arrived.toNat then
      l1Acquires { s with
        blocks := kput s.blocks blk { b with bars := kput b.bars n { phase := !bar.phase } }
        groups := kmap (fun _ g =>
          if g.block = blk then mapFrags (barFree s.clock n) (if departs g n then { g with acqStamp := max g.acqStamp bar.stamp } else g) else g)
          s.groups } (s.groups.filterMap fun q => if q.2.block = blk ∧ departs q.2 n then some q.1 else none)
    else s
/-- A fragment waits in cbar.sync: itself, or in its handler (R210, R341). -/
def inCbar (g : Group) (e : Nat) (f : Frag) : Bool := f.wait == .cbar || g.bank.any fun q => q.trap.entry == e && q.frag.wait == .cbar
/-- A group arrives at its cluster's barrier when its last fragment has (R210). -/
def cbarArrive (s : State) (k : Nat) : State :=
  match kfind s.groups k with
  | none => s
  | some g =>
    let id := 16 * g.block + g.index
    let c := (kget ({} : Block) s.blocks g.block).cluster
    let cl := kget ({} : Cluster) s.clusters c
    if groupFrags g != [] && g.table.all (fun x => inCbar g x.1 x.2) && g.spill.all (fun f => f.wait == .cbar) && !cl.arrived.contains id then
      { s with clusters := kput s.clusters c { cl with arrived := cl.arrived ++ [id], stamp := max cl.stamp (releaseStamp g) } }
    else s
/-- Both, for every barrier of a group's block and its cluster's: after a fragment or a group has ended (R209, R210). -/
def recount (s : State) (k blk : Nat) : State :=
  let s := (List.range 16).foldl (fun s n => barCheck (barArrive s k n) blk n) s
  cbarCheck (cbarArrive s k) (kget ({} : Block) s.blocks blk).cluster

/-! ## The end of lanes (R13, R32, R205) -/

/-- Lanes of the quads that hold a lane of the mask. -/
def quadsOf (m : Mask) : Mask := maskOf fun l => (List.range 4).any fun q => inMask m (4 * (l / 4) + q)
/-- A fragment without some lanes. -/
def lessLanes (m : Mask) (f : Frag) : Frag := { f with members := f.members &&& ~~~m, exec := f.exec &&& ~~~m }
/-- End lanes of the executing fragment, in a handler those of the fragment it interrupted: helper lanes while another lane of the quad is
live (R13, R205, R341). -/
def Env.endLanes (x : Env) (m : Mask) : Env :=
  let live := x.g.live &&& ~~~m
  { x with g := { x.g with live := live, helper := (x.g.helper ||| m) &&& quadsOf live &&& ~~~live
                           bank := x.g.bank.map fun k => { k with frag := lessLanes m k.frag } }
           f := lessLanes m x.f }
/-- Put back the fragment; one with no member left ends and its entry frees (R205). A group's last one stays, empty, until the
group ends: a trap of a copy would be taken in it (R279). -/
def Env.commitEnd (x : Env) : State :=
  if x.f.members = 0 then
    let rest := kdel x.g.table x.e
    let last : Frag := { pc := x.f.pc, header := x.f.header, hword := x.f.hword, fmt := x.f.fmt, age := x.f.age, lastIssue := x.f.lastIssue }
    let s := { x.s with
      groups := kput x.s.groups x.k (if rest = [] ∧ x.g.spill = [] then { x.g with table := [(x.e, last)] } else refill { x.g with table := rest })
      blocks := kput x.s.blocks x.g.block x.b }
    recount s x.k x.g.block
  else x.commit

/-! ## Holding an instruction at issue -/

/-- Operations of the executing group still short of their completion points (R161). -/
def Env.outstanding (x : Env) : List Op := x.s.ops.filter fun o => o.gid == x.g.gid
/-- Arrivals of the executing group at keystones whose joint issue has not come (R249). -/
def Env.gangs (x : Env) : List KArrival :=
  (kget ({} : Core) x.s.cores x.core).keystones.flatMap fun q => if q.2.block = x.g.block then q.2.members.filter fun m => m.group == x.k else []
/-- A releasing operation waits for earlier matrix instructions, for those that have arrived at a keystone too, for earlier returning
read-modify-writes, for an earlier fence.rel or fence.ar, and for earlier writes whose lines other holders have still to give up, as it
carries their stamps (R133, R141, R230, R432). -/
def releaseHeld (x : Env) : Bool :=
  x.gangs != [] || x.outstanding.any fun o => !granted x.s o || match o.kind with
    | .matrix _ _ _ => true
    | .tile _ _ => true
    | .atomic r => r
    | .fence k _ => k != 1
    | _ => false
/-- A later access waits for an earlier ld.acq and for an earlier fence (R229, R230). -/
def accessHeld (x : Env) : Bool :=
  x.outstanding.any fun o => match o.kind with
    | .load acq _ => acq
    | .fence _ _ => true
    | _ => false

end Sys2Proof.Machine
end

