-- ==== Sys2Proof/Machine/IntAlu.lean ====
section
/-!
DEFINITION. The integer three-register instructions and their group-wide twins (R175 to R181).
-/
namespace Sys2Proof.Machine

/-! ## Results (R99, R175 to R181) -/

/-- The shift amount (R176). -/
def shAmt (b : Word) : Nat := min b.toNat 32
def shlW (a b : Word) : Word := a <<< shAmt b
def shrW (a b : Word) : Word := a >>> shAmt b
def sarW (a b : Word) : Word := BitVec.sshiftRight a (shAmt b)
/-- Bits [63:32] of the products (R175). -/
def mulhiNW (a b : Word) : Word := word (a.toNat * b.toNat / 2 ^ 32)
def mulhiIW (a b : Word) : Word := wordI (a.toInt * b.toInt / 2 ^ 32)
def minIW (a b : Word) : Word := if a.toInt ≤ b.toInt then a else b
def maxIW (a b : Word) : Word := if a.toInt ≤ b.toInt then b else a
def minNW (a b : Word) : Word := if a.toNat ≤ b.toNat then a else b
def maxNW (a b : Word) : Word := if a.toNat ≤ b.toNat then b else a
/-- Bit fields (R177): pos = c[7:0], w = min(c[15:8], 32). -/
def bfeNW (a c : Word) : Word := word (a.toNat / 2 ^ wbits c 7 0 % 2 ^ bfeWidth c.toNat)
def bfeIW (a c : Word) : Word :=
  let w := bfeWidth c.toNat
  let v : Int := (a.toInt / 2 ^ wbits c 7 0) % 2 ^ w
  if w = 0 then 0 else if 2 ^ (w - 1) ≤ v then wordI (v - 2 ^ w) else wordI v
def bfiW (base ctl a : Word) : Word :=
  let pos := wbits ctl 7 0
  let w := bfeWidth ctl.toNat
  let m := word ((2 ^ w - 1) * 2 ^ pos)
  (base &&& ~~~m) ||| (word (a.toNat * 2 ^ pos) &&& m)
/-- One result byte of bytemix (R178). -/
def mixByte (a : Word) (s : Nat) : Nat :=
  let src := wbits a (8 * (s % 4) + 7) (8 * (s % 4))
  match s / 4 with | 0 => src | 1 => 0 | 2 => if 128 ≤ src then 255 else 0 | _ => 255
def bytemixW (a b : Word) : Word :=
  word (((List.range 4).map fun i => 2 ^ (8 * i) * mixByte a (wbits b (4 * i + 3) (4 * i))).sum)
/-- Division (R99, R180). -/
def divNW (a b : Word) : Word := if b = 0 then 0xFFFFFFFF else word (a.toNat / b.toNat)
def remNW (a b : Word) : Word := if b = 0 then a else word (a.toNat % b.toNat)
def divIW (a b : Word) : Word := if b = 0 then (if 0 ≤ a.toInt then 0xFFFFFFFF else 1) else wordI (a.toInt.tdiv b.toInt)
def remIW (a b : Word) : Word := if b = 0 then a else wordI (a.toInt.tmod b.toInt)
/-- Pairs as 64-bit values (R100, R181). -/
def pairVal (lo hi : Word) : Nat := lo.toNat + 2 ^ 32 * hi.toNat
def add64W (a b : Nat) : Nat := (a + b) % 2 ^ 64
def sub64W (a b : Nat) : Nat := (a + 2 ^ 64 - b) % 2 ^ 64

/-- bfi on vector registers: B names the pair of base and control word (R177). -/
def vecBfi (x : Env) (b a d : BitVec 7) (g : BitVec 3) : State :=
  issue x (dstOk x.g d && srcOk x.g a && srcPairOk x.g b)
    ([vcode a.toNat, vcode b.toNat, vcodeHi b.toNat] ++ (if g = 0 then [] else [pcode g.toNat])) [d.toNat] fun x =>
    ((x.vwrite d.toNat (pmask x.g g.toNat)
      (fun l => bfiW (vsrc x.g b.toNat l) (vsrcHi x.g b.toNat l) (vsrc x.g a.toNat l)) top).skip 4).commit
/-- Its group-wide twin. -/
def grpBfi (x : Env) (b a d : BitVec 7) (g : BitVec 3) : State :=
  issue x (gdOk d && gsOk a && gsPairOk b)
    ([gcode a.toNat, gcode b.toNat, gcode (pairHi b.toNat)] ++ (if g = 0 then [] else [gpcode g.toNat])) [128 + d.toNat] fun x =>
    let x := if gpred x.g g.toNat then
        x.gwrite d.toNat (bfiW (gsrc x.g b.toNat) (gsrc x.g (pairHi b.toNat)) (gsrc x.g a.toNat)) top
      else x
    (x.skip 4).commit
/-- sel: the guard field selects, and every exec lane is written (R179). -/
def vecSel (x : Env) (b a d : BitVec 7) (p : BitVec 3) : State :=
  issue x (dstOk x.g d && srcOk x.g a && srcOk x.g b)
    ([vcode a.toNat, vcode b.toNat] ++ (if p = 0 then [] else [pcode p.toNat])) [d.toNat] fun x =>
    ((x.vwrite d.toNat allLanes
      (fun l => if inMask (pmask x.g p.toNat) l then vsrc x.g a.toNat l else vsrc x.g b.toNat l)
      (hull (view x.g x.f (vcode a.toNat)) (view x.g x.f (vcode b.toNat)))).skip 4).commit
/-- Its group-wide twin. -/
def grpSel (x : Env) (b a d : BitVec 7) (p : BitVec 3) : State :=
  issue x (gdOk d && gsOk a && gsOk b)
    ([gcode a.toNat, gcode b.toNat] ++ (if p = 0 then [] else [gpcode p.toNat])) [128 + d.toNat] fun x =>
    ((x.gwrite d.toNat (if gpred x.g p.toNat then gsrc x.g a.toNat else gsrc x.g b.toNat)
      (hull (view x.g x.f (gcode a.toNat)) (view x.g x.f (gcode b.toNat)))).skip 4).commit
/-- add.64 and sub.64 on vector pairs (R100, R181). -/
def vec64 (x : Env) (b a d : BitVec 7) (g : BitVec 3) (op : Nat → Nat → Nat) : State :=
  issue x (dstPairOk x.g d && srcPairOk x.g a && srcPairOk x.g b)
    ([vcode a.toNat, vcodeHi a.toNat, vcode b.toNat, vcodeHi b.toNat] ++ (if g = 0 then [] else [pcode g.toNat]))
    [d.toNat, d.toNat + 1] fun x =>
    let r := fun l => op (pairVal (vsrc x.g a.toNat l) (vsrcHi x.g a.toNat l)) (pairVal (vsrc x.g b.toNat l) (vsrcHi x.g b.toNat l))
    let m := pmask x.g g.toNat
    (((x.vwrite d.toNat m (fun l => word (r l)) top).vwrite (d.toNat + 1) m (fun l => word (r l / 2 ^ 32)) top).skip 4).commit
/-- Their group-wide twins. -/
def grp64 (x : Env) (b a d : BitVec 7) (g : BitVec 3) (op : Nat → Nat → Nat) : State :=
  issue x (gdPairOk d && gsPairOk a && gsPairOk b)
    ([gcode a.toNat, gcode (pairHi a.toNat), gcode b.toNat, gcode (pairHi b.toNat)] ++ (if g = 0 then [] else [gpcode g.toNat]))
    [128 + d.toNat, 128 + (d.toNat + 1)] fun x =>
    let r := op (pairVal (gsrc x.g a.toNat) (gsrc x.g (pairHi a.toNat))) (pairVal (gsrc x.g b.toNat) (gsrc x.g (pairHi b.toNat)))
    let x := if gpred x.g g.toNat then ((x.gwrite d.toNat (word r) top).gwrite (d.toNat + 1) (word (r / 2 ^ 32)) top).wrote [d.toNat, d.toNat + 1] else x
    (x.skip 4).commit

/-! ## Instructions (R175 to R181) -/

/-- ADD (R175). -/
def execAdd (b a d : BitVec 7) (g : BitVec 3) (s : State) : Out :=
  withFrag s fun x => vec2 x b a d g (fun a b _ => a + b) (fun a b _ => ivAdd a b)
/-- ADD_G (R175). -/
def execAddG (b a d : BitVec 7) (g : BitVec 3) (s : State) : Out :=
  withFrag s fun x => grp2 x b a d g (fun a b _ => a + b) (fun a b _ => ivAdd a b)
/-- SUB (R175). -/
def execSub (b a d : BitVec 7) (g : BitVec 3) (s : State) : Out :=
  withFrag s fun x => vec2 x b a d g (fun a b _ => a - b) (fun a b _ => ivSub a b)
/-- SUB_G (R175). -/
def execSubG (b a d : BitVec 7) (g : BitVec 3) (s : State) : Out :=
  withFrag s fun x => grp2 x b a d g (fun a b _ => a - b) (fun a b _ => ivSub a b)
/-- MUL (R175). -/
def execMul (b a d : BitVec 7) (g : BitVec 3) (s : State) : Out :=
  withFrag s fun x => vec2 x b a d g (fun a b _ => a * b) (fun a b _ => ivMul a b)
/-- MUL_G (R175). -/
def execMulG (b a d : BitVec 7) (g : BitVec 3) (s : State) : Out :=
  withFrag s fun x => grp2 x b a d g (fun a b _ => a * b) (fun a b _ => ivMul a b)
/-- MULHI_N (R175). -/
def execMulhiN (b a d : BitVec 7) (g : BitVec 3) (s : State) : Out :=
  withFrag s fun x => vec2 x b a d g (fun a b _ => mulhiNW a b) (fun _ _ _ => top)
/-- MULHI_N_G (R175). -/
def execMulhiNG (b a d : BitVec 7) (g : BitVec 3) (s : State) : Out :=
  withFrag s fun x => grp2 x b a d g (fun a b _ => mulhiNW a b) (fun _ _ _ => top)
/-- MULHI_I (R175). -/
def execMulhiI (b a d : BitVec 7) (g : BitVec 3) (s : State) : Out :=
  withFrag s fun x => vec2 x b a d g (fun a b _ => mulhiIW a b) (fun _ _ _ => top)
/-- MULHI_I_G (R175). -/
def execMulhiIG (b a d : BitVec 7) (g : BitVec 3) (s : State) : Out :=
  withFrag s fun x => grp2 x b a d g (fun a b _ => mulhiIW a b) (fun _ _ _ => top)
/-- MIN_I (R175). -/
def execMinI (b a d : BitVec 7) (g : BitVec 3) (s : State) : Out :=
  withFrag s fun x => vec2 x b a d g (fun a b _ => minIW a b) (fun a b _ => ivMinI a b)
/-- MIN_I_G (R175). -/
def execMinIG (b a d : BitVec 7) (g : BitVec 3) (s : State) : Out :=
  withFrag s fun x => grp2 x b a d g (fun a b _ => minIW a b) (fun a b _ => ivMinI a b)
/-- MAX_I (R175). -/
def execMaxI (b a d : BitVec 7) (g : BitVec 3) (s : State) : Out :=
  withFrag s fun x => vec2 x b a d g (fun a b _ => maxIW a b) (fun a b _ => ivMaxI a b)
/-- MAX_I_G (R175). -/
def execMaxIG (b a d : BitVec 7) (g : BitVec 3) (s : State) : Out :=
  withFrag s fun x => grp2 x b a d g (fun a b _ => maxIW a b) (fun a b _ => ivMaxI a b)
/-- MIN_N (R175). -/
def execMinN (b a d : BitVec 7) (g : BitVec 3) (s : State) : Out :=
  withFrag s fun x => vec2 x b a d g (fun a b _ => minNW a b) (fun a b _ => ivMinN a b)
/-- MIN_N_G (R175). -/
def execMinNG (b a d : BitVec 7) (g : BitVec 3) (s : State) : Out :=
  withFrag s fun x => grp2 x b a d g (fun a b _ => minNW a b) (fun a b _ => ivMinN a b)
/-- MAX_N (R175). -/
def execMaxN (b a d : BitVec 7) (g : BitVec 3) (s : State) : Out :=
  withFrag s fun x => vec2 x b a d g (fun a b _ => maxNW a b) (fun a b _ => ivMaxN a b)
/-- MAX_N_G (R175). -/
def execMaxNG (b a d : BitVec 7) (g : BitVec 3) (s : State) : Out :=
  withFrag s fun x => grp2 x b a d g (fun a b _ => maxNW a b) (fun a b _ => ivMaxN a b)
/-- AND (R175). -/
def execAnd (b a d : BitVec 7) (g : BitVec 3) (s : State) : Out :=
  withFrag s fun x => vec2 x b a d g (fun a b _ => a &&& b) (fun a b _ => ivAnd a b)
/-- AND_G (R175). -/
def execAndG (b a d : BitVec 7) (g : BitVec 3) (s : State) : Out :=
  withFrag s fun x => grp2 x b a d g (fun a b _ => a &&& b) (fun a b _ => ivAnd a b)
/-- OR (R175). -/
def execOr (b a d : BitVec 7) (g : BitVec 3) (s : State) : Out :=
  withFrag s fun x => vec2 x b a d g (fun a b _ => a ||| b) (fun a b _ => ivOr a b)
/-- OR_G (R175). -/
def execOrG (b a d : BitVec 7) (g : BitVec 3) (s : State) : Out :=
  withFrag s fun x => grp2 x b a d g (fun a b _ => a ||| b) (fun a b _ => ivOr a b)
/-- XOR (R175). -/
def execXor (b a d : BitVec 7) (g : BitVec 3) (s : State) : Out :=
  withFrag s fun x => vec2 x b a d g (fun a b _ => a ^^^ b) (fun a b _ => ivOr a b)
/-- XOR_G (R175). -/
def execXorG (b a d : BitVec 7) (g : BitVec 3) (s : State) : Out :=
  withFrag s fun x => grp2 x b a d g (fun a b _ => a ^^^ b) (fun a b _ => ivOr a b)
/-- ANDN (R175). -/
def execAndn (b a d : BitVec 7) (g : BitVec 3) (s : State) : Out :=
  withFrag s fun x => vec2 x b a d g (fun a b _ => a &&& ~~~b) (fun a b _ => ivAndn a b)
/-- ANDN_G (R175). -/
def execAndnG (b a d : BitVec 7) (g : BitVec 3) (s : State) : Out :=
  withFrag s fun x => grp2 x b a d g (fun a b _ => a &&& ~~~b) (fun a b _ => ivAndn a b)
/-- SHL (R176). -/
def execShl (b a d : BitVec 7) (g : BitVec 3) (s : State) : Out :=
  withFrag s fun x => vec2 x b a d g (fun a b _ => shlW a b) (fun a b _ => ivShl a b)
/-- SHL_G (R176). -/
def execShlG (b a d : BitVec 7) (g : BitVec 3) (s : State) : Out :=
  withFrag s fun x => grp2 x b a d g (fun a b _ => shlW a b) (fun a b _ => ivShl a b)
/-- SHR (R176). -/
def execShr (b a d : BitVec 7) (g : BitVec 3) (s : State) : Out :=
  withFrag s fun x => vec2 x b a d g (fun a b _ => shrW a b) (fun a b _ => ivShr a b)
/-- SHR_G (R176). -/
def execShrG (b a d : BitVec 7) (g : BitVec 3) (s : State) : Out :=
  withFrag s fun x => grp2 x b a d g (fun a b _ => shrW a b) (fun a b _ => ivShr a b)
/-- SAR (R176). -/
def execSar (b a d : BitVec 7) (g : BitVec 3) (s : State) : Out :=
  withFrag s fun x => vec2 x b a d g (fun a b _ => sarW a b) (fun a b _ => ivSar a b)
/-- SAR_G (R176). -/
def execSarG (b a d : BitVec 7) (g : BitVec 3) (s : State) : Out :=
  withFrag s fun x => grp2 x b a d g (fun a b _ => sarW a b) (fun a b _ => ivSar a b)
/-- BFE_N (R177). -/
def execBfeN (b a d : BitVec 7) (g : BitVec 3) (s : State) : Out :=
  withFrag s fun x => vec2 x b a d g (fun a b _ => bfeNW a b) (fun a b _ => ivBfeN a b)
/-- BFE_N_G (R177). -/
def execBfeNG (b a d : BitVec 7) (g : BitVec 3) (s : State) : Out :=
  withFrag s fun x => grp2 x b a d g (fun a b _ => bfeNW a b) (fun a b _ => ivBfeN a b)
/-- BFE_I (R177). -/
def execBfeI (b a d : BitVec 7) (g : BitVec 3) (s : State) : Out :=
  withFrag s fun x => vec2 x b a d g (fun a b _ => bfeIW a b) (fun a b _ => ivBfeI a b)
/-- BFE_I_G (R177). -/
def execBfeIG (b a d : BitVec 7) (g : BitVec 3) (s : State) : Out :=
  withFrag s fun x => grp2 x b a d g (fun a b _ => bfeIW a b) (fun a b _ => ivBfeI a b)
/-- BYTEMIX (R178). -/
def execBytemix (b a d : BitVec 7) (g : BitVec 3) (s : State) : Out :=
  withFrag s fun x => vec2 x b a d g (fun a b _ => bytemixW a b) (fun _ _ _ => top)
/-- BYTEMIX_G (R178). -/
def execBytemixG (b a d : BitVec 7) (g : BitVec 3) (s : State) : Out :=
  withFrag s fun x => grp2 x b a d g (fun a b _ => bytemixW a b) (fun _ _ _ => top)
/-- DIV_N (R180). -/
def execDivN (b a d : BitVec 7) (g : BitVec 3) (s : State) : Out :=
  withFrag s fun x => vec2 x b a d g (fun a b _ => divNW a b) (fun a b _ => ivDivN a b)
/-- DIV_N_G (R180). -/
def execDivNG (b a d : BitVec 7) (g : BitVec 3) (s : State) : Out :=
  withFrag s fun x => grp2 x b a d g (fun a b _ => divNW a b) (fun a b _ => ivDivN a b)
/-- REM_N (R180). -/
def execRemN (b a d : BitVec 7) (g : BitVec 3) (s : State) : Out :=
  withFrag s fun x => vec2 x b a d g (fun a b _ => remNW a b) (fun a b _ => ivRemN a b)
/-- REM_N_G (R180). -/
def execRemNG (b a d : BitVec 7) (g : BitVec 3) (s : State) : Out :=
  withFrag s fun x => grp2 x b a d g (fun a b _ => remNW a b) (fun a b _ => ivRemN a b)
/-- DIV_I (R180). -/
def execDivI (b a d : BitVec 7) (g : BitVec 3) (s : State) : Out :=
  withFrag s fun x => vec2 x b a d g (fun a b _ => divIW a b) (fun _ _ _ => top)
/-- DIV_I_G (R180). -/
def execDivIG (b a d : BitVec 7) (g : BitVec 3) (s : State) : Out :=
  withFrag s fun x => grp2 x b a d g (fun a b _ => divIW a b) (fun _ _ _ => top)
/-- REM_I (R180). -/
def execRemI (b a d : BitVec 7) (g : BitVec 3) (s : State) : Out :=
  withFrag s fun x => vec2 x b a d g (fun a b _ => remIW a b) (fun _ _ _ => top)
/-- REM_I_G (R180). -/
def execRemIG (b a d : BitVec 7) (g : BitVec 3) (s : State) : Out :=
  withFrag s fun x => grp2 x b a d g (fun a b _ => remIW a b) (fun _ _ _ => top)
/-- MAD (R175). -/
def execMad (b a d : BitVec 7) (g : BitVec 3) (s : State) : Out :=
  withFrag s fun x => vec2 x b a d g (fun a b c => a * b + c) ivMad true
/-- MAD_G (R175). -/
def execMadG (b a d : BitVec 7) (g : BitVec 3) (s : State) : Out :=
  withFrag s fun x => grp2 x b a d g (fun a b c => a * b + c) ivMad true
/-- BFI (R177). -/
def execBfi (b a d : BitVec 7) (g : BitVec 3) (s : State) : Out :=
  withFrag s fun x => vecBfi x b a d g
/-- BFI_G (R177). -/
def execBfiG (b a d : BitVec 7) (g : BitVec 3) (s : State) : Out :=
  withFrag s fun x => grpBfi x b a d g
/-- SEL (R179). -/
def execSel (b a d : BitVec 7) (p : BitVec 3) (s : State) : Out :=
  withFrag s fun x => vecSel x b a d p
/-- SEL_G (R179). -/
def execSelG (b a d : BitVec 7) (p : BitVec 3) (s : State) : Out :=
  withFrag s fun x => grpSel x b a d p
/-- ADD_64 (R181). -/
def execAdd64 (b a d : BitVec 7) (g : BitVec 3) (s : State) : Out :=
  withFrag s fun x => vec64 x b a d g add64W
/-- ADD_64_G (R181). -/
def execAdd64G (b a d : BitVec 7) (g : BitVec 3) (s : State) : Out :=
  withFrag s fun x => grp64 x b a d g add64W
/-- SUB_64 (R181). -/
def execSub64 (b a d : BitVec 7) (g : BitVec 3) (s : State) : Out :=
  withFrag s fun x => vec64 x b a d g sub64W
/-- SUB_64_G (R181). -/
def execSub64G (b a d : BitVec 7) (g : BitVec 3) (s : State) : Out :=
  withFrag s fun x => grp64 x b a d g sub64W

end Sys2Proof.Machine
end

