-- ==== Sys2Proof/Machine/ImmAlu.lean ====
section
/-!
DEFINITION. The immediate instructions, the compares, and the LIT word that joins a longer immediate (R153, R182, R183).
-/
namespace Sys2Proof.Machine

/-- ADDI with its immediate and length: 4, or 8 in a LIT pair (R153, R182). -/
def immAddi (x : Env) (imm : Word) (a d : BitVec 7) (g : BitVec 3) (len : Nat) : State :=
  vecImm x imm a d g len (fun a b => a + b) ivAdd
/-- ADDI (R182). -/
def execAddi (i a d : BitVec 7) (g : BitVec 3) (s : State) : Out :=
  withFrag s fun x => immAddi x (i.signExtend 32) a d g 4
/-- ADDI_G with its immediate and length: 4, or 8 in a LIT pair (R153, R182). -/
def immAddiG (x : Env) (imm : Word) (a d : BitVec 7) (g : BitVec 3) (len : Nat) : State :=
  grpImm x imm a d g len (fun a b => a + b) ivAdd
/-- ADDI_G (R182). -/
def execAddiG (i a d : BitVec 7) (g : BitVec 3) (s : State) : Out :=
  withFrag s fun x => immAddiG x (i.signExtend 32) a d g 4
/-- MULI with its immediate and length: 4, or 8 in a LIT pair (R153, R182). -/
def immMuli (x : Env) (imm : Word) (a d : BitVec 7) (g : BitVec 3) (len : Nat) : State :=
  vecImm x imm a d g len (fun a b => a * b) ivMul
/-- MULI (R182). -/
def execMuli (i a d : BitVec 7) (g : BitVec 3) (s : State) : Out :=
  withFrag s fun x => immMuli x (i.signExtend 32) a d g 4
/-- MULI_G with its immediate and length: 4, or 8 in a LIT pair (R153, R182). -/
def immMuliG (x : Env) (imm : Word) (a d : BitVec 7) (g : BitVec 3) (len : Nat) : State :=
  grpImm x imm a d g len (fun a b => a * b) ivMul
/-- MULI_G (R182). -/
def execMuliG (i a d : BitVec 7) (g : BitVec 3) (s : State) : Out :=
  withFrag s fun x => immMuliG x (i.signExtend 32) a d g 4
/-- ANDI with its immediate and length: 4, or 8 in a LIT pair (R153, R182). -/
def immAndi (x : Env) (imm : Word) (a d : BitVec 7) (g : BitVec 3) (len : Nat) : State :=
  vecImm x imm a d g len (fun a b => a &&& b) ivAnd
/-- ANDI (R182). -/
def execAndi (i a d : BitVec 7) (g : BitVec 3) (s : State) : Out :=
  withFrag s fun x => immAndi x (i.signExtend 32) a d g 4
/-- ANDI_G with its immediate and length: 4, or 8 in a LIT pair (R153, R182). -/
def immAndiG (x : Env) (imm : Word) (a d : BitVec 7) (g : BitVec 3) (len : Nat) : State :=
  grpImm x imm a d g len (fun a b => a &&& b) ivAnd
/-- ANDI_G (R182). -/
def execAndiG (i a d : BitVec 7) (g : BitVec 3) (s : State) : Out :=
  withFrag s fun x => immAndiG x (i.signExtend 32) a d g 4
/-- ORI with its immediate and length: 4, or 8 in a LIT pair (R153, R182). -/
def immOri (x : Env) (imm : Word) (a d : BitVec 7) (g : BitVec 3) (len : Nat) : State :=
  vecImm x imm a d g len (fun a b => a ||| b) ivOr
/-- ORI (R182). -/
def execOri (i a d : BitVec 7) (g : BitVec 3) (s : State) : Out :=
  withFrag s fun x => immOri x (i.signExtend 32) a d g 4
/-- ORI_G with its immediate and length: 4, or 8 in a LIT pair (R153, R182). -/
def immOriG (x : Env) (imm : Word) (a d : BitVec 7) (g : BitVec 3) (len : Nat) : State :=
  grpImm x imm a d g len (fun a b => a ||| b) ivOr
/-- ORI_G (R182). -/
def execOriG (i a d : BitVec 7) (g : BitVec 3) (s : State) : Out :=
  withFrag s fun x => immOriG x (i.signExtend 32) a d g 4
/-- XORI with its immediate and length: 4, or 8 in a LIT pair (R153, R182). -/
def immXori (x : Env) (imm : Word) (a d : BitVec 7) (g : BitVec 3) (len : Nat) : State :=
  vecImm x imm a d g len (fun a b => a ^^^ b) ivOr
/-- XORI (R182). -/
def execXori (i a d : BitVec 7) (g : BitVec 3) (s : State) : Out :=
  withFrag s fun x => immXori x (i.signExtend 32) a d g 4
/-- XORI_G with its immediate and length: 4, or 8 in a LIT pair (R153, R182). -/
def immXoriG (x : Env) (imm : Word) (a d : BitVec 7) (g : BitVec 3) (len : Nat) : State :=
  grpImm x imm a d g len (fun a b => a ^^^ b) ivOr
/-- XORI_G (R182). -/
def execXoriG (i a d : BitVec 7) (g : BitVec 3) (s : State) : Out :=
  withFrag s fun x => immXoriG x (i.signExtend 32) a d g 4
/-- SHLI with its immediate and length: 4, or 8 in a LIT pair (R153, R182). -/
def immShli (x : Env) (imm : Word) (a d : BitVec 7) (g : BitVec 3) (len : Nat) : State :=
  vecImm x imm a d g len (fun a b => shlW a b) ivShl
/-- SHLI (R182). -/
def execShli (i a d : BitVec 7) (g : BitVec 3) (s : State) : Out :=
  withFrag s fun x => immShli x (i.signExtend 32) a d g 4
/-- SHLI_G with its immediate and length: 4, or 8 in a LIT pair (R153, R182). -/
def immShliG (x : Env) (imm : Word) (a d : BitVec 7) (g : BitVec 3) (len : Nat) : State :=
  grpImm x imm a d g len (fun a b => shlW a b) ivShl
/-- SHLI_G (R182). -/
def execShliG (i a d : BitVec 7) (g : BitVec 3) (s : State) : Out :=
  withFrag s fun x => immShliG x (i.signExtend 32) a d g 4
/-- SHRI with its immediate and length: 4, or 8 in a LIT pair (R153, R182). -/
def immShri (x : Env) (imm : Word) (a d : BitVec 7) (g : BitVec 3) (len : Nat) : State :=
  vecImm x imm a d g len (fun a b => shrW a b) ivShr
/-- SHRI (R182). -/
def execShri (i a d : BitVec 7) (g : BitVec 3) (s : State) : Out :=
  withFrag s fun x => immShri x (i.signExtend 32) a d g 4
/-- SHRI_G with its immediate and length: 4, or 8 in a LIT pair (R153, R182). -/
def immShriG (x : Env) (imm : Word) (a d : BitVec 7) (g : BitVec 3) (len : Nat) : State :=
  grpImm x imm a d g len (fun a b => shrW a b) ivShr
/-- SHRI_G (R182). -/
def execShriG (i a d : BitVec 7) (g : BitVec 3) (s : State) : Out :=
  withFrag s fun x => immShriG x (i.signExtend 32) a d g 4
/-- SARI with its immediate and length: 4, or 8 in a LIT pair (R153, R182). -/
def immSari (x : Env) (imm : Word) (a d : BitVec 7) (g : BitVec 3) (len : Nat) : State :=
  vecImm x imm a d g len (fun a b => sarW a b) ivSar
/-- SARI (R182). -/
def execSari (i a d : BitVec 7) (g : BitVec 3) (s : State) : Out :=
  withFrag s fun x => immSari x (i.signExtend 32) a d g 4
/-- SARI_G with its immediate and length: 4, or 8 in a LIT pair (R153, R182). -/
def immSariG (x : Env) (imm : Word) (a d : BitVec 7) (g : BitVec 3) (len : Nat) : State :=
  grpImm x imm a d g len (fun a b => sarW a b) ivSar
/-- SARI_G (R182). -/
def execSariG (i a d : BitVec 7) (g : BitVec 3) (s : State) : Out :=
  withFrag s fun x => immSariG x (i.signExtend 32) a d g 4
/-- CMP (R183). -/
def execCmp (b a : BitVec 7) (c : BitVec 4) (p g : BitVec 3) (s : State) : Out :=
  withFrag s fun x => vecCmp x (some b) 0 a c p g 4
/-- CMP_G (R183). -/
def execCmpG (b a : BitVec 7) (c : BitVec 4) (p g : BitVec 3) (s : State) : Out :=
  withFrag s fun x => grpCmp x (some b) 0 a c p g 4
/-- CMPI (R183). -/
def execCmpi (i a : BitVec 7) (c : BitVec 4) (p g : BitVec 3) (s : State) : Out :=
  withFrag s fun x => vecCmp x none (i.signExtend 32) a c p g 4
/-- CMPI_G (R183). -/
def execCmpiG (i a : BitVec 7) (c : BitVec 4) (p g : BitVec 3) (s : State) : Out :=
  withFrag s fun x => grpCmp x none (i.signExtend 32) a c p g 4

/-! ## LIT (R153, R157, R165) -/

/-- The joined immediate: payload × 128 + imm7 as a 31-bit two's-complement number (R153). -/
def joined (p : BitVec 24) (w : Word) : Word := (BitVec.ofNat 31 (p.toNat * 128 + wbits w 31 25)).signExtend 32
/-- Fields of a follower word. -/
def fA (w : Word) : BitVec 7 := BitVec.ofNat 7 (wbits w 24 18)
def fD (w : Word) : BitVec 7 := BitVec.ofNat 7 (wbits w 17 11)
def fG (w : Word) : BitVec 3 := BitVec.ofNat 3 (wbits w 10 8)
/-- Halfwords from the start of the clause body to an address (R157). -/
def bodyOffset (f : Frag) (a : Nat) : Nat := (a - (f.header.toNat + (if bitOf f.hword.toNat 29 then 8 else 4))) / 2
/-- The immediate instruction of a pair: its own checks first, then the rules of LIT, a pair being eight bytes long. A
follower of another kind raises the illegal-encoding trap at the LIT, but one of major 0x7D at user level the privilege
trap (R153, R157, R165). -/
def litPair (x : Env) (p : BitVec 24) (w : Word) : State :=
  let imm := joined p w
  let c : BitVec 4 := BitVec.ofNat 4 (wbits w 17 14)
  let pd : BitVec 3 := BitVec.ofNat 3 (wbits w 13 11)
  let fits := bodyOffset x.f (x.f.pc.toNat + 8) ≤ Config.clauseHalfwords
  let run := fun (m : State) => if fits then m else illegal x 8
  if w.toNat % 2 = 0 then illegal x 4
  else
    match wbits w 7 1 with
    | 0x20 => run (immAddi x imm (fA w) (fD w) (fG w) 8)
    | 0x21 => run (immMuli x imm (fA w) (fD w) (fG w) 8)
    | 0x22 => run (immAndi x imm (fA w) (fD w) (fG w) 8)
    | 0x23 => run (immOri x imm (fA w) (fD w) (fG w) 8)
    | 0x24 => run (immXori x imm (fA w) (fD w) (fG w) 8)
    | 0x25 => run (immShli x imm (fA w) (fD w) (fG w) 8)
    | 0x26 => run (immShri x imm (fA w) (fD w) (fG w) 8)
    | 0x27 => run (immSari x imm (fA w) (fD w) (fG w) 8)
    | 0x60 => run (immAddiG x imm (fA w) (fD w) (fG w) 8)
    | 0x61 => run (immMuliG x imm (fA w) (fD w) (fG w) 8)
    | 0x62 => run (immAndiG x imm (fA w) (fD w) (fG w) 8)
    | 0x63 => run (immOriG x imm (fA w) (fD w) (fG w) 8)
    | 0x64 => run (immXoriG x imm (fA w) (fD w) (fG w) 8)
    | 0x65 => run (immShliG x imm (fA w) (fD w) (fG w) 8)
    | 0x66 => run (immShriG x imm (fA w) (fD w) (fG w) 8)
    | 0x67 => run (immSariG x imm (fA w) (fD w) (fG w) 8)
    | 0x1D => run (vecCmp x none imm (fA w) c pd (fG w) 8)
    | 0x5D => run (grpCmp x none imm (fA w) c pd (fG w) 8)
    | 0x7D => if x.g.level = .user then trapAt x 2 0 4 else illegal x 4
    | _ => illegal x 4

/-- LIT (R153). -/
def execLit (p : BitVec 24) (s : State) : Out :=
  withFrag s fun x => litPair x p (peekWord x.s x.b x.g (x.f.pc + 4))

end Sys2Proof.Machine
end

