-- ==== Sys2Proof/Machine/Unary.lean ====
section
/-!
DEFINITION. The integer unary instructions and conversions, with their group-wide twins (R184).
-/
namespace Sys2Proof.Machine

/-- Bit counts and reversals (R184). -/
def popcW (a : Word) : Word := word (popBits 32 a.toNat)
def clzW (a : Word) : Word := word (32 - bitLen a.toNat)
def brevW (a : Word) : Word := maskOf fun i => a.getLsbD (31 - i)
def absW (a : Word) : Word := if a.toInt < 0 then -a else a
/-- Saturation of an integer to a range (R184). -/
def sat (lo hi v : Int) : Word := wordI (max lo (min hi v))

/-- MOV (R184). -/
def execMov (a d : BitVec 7) (g : BitVec 3) (s : State) : Out :=
  withFrag s fun x => vec1 x a d g (fun a => a) id
/-- MOV_G (R184). -/
def execMovG (a d : BitVec 7) (g : BitVec 3) (s : State) : Out :=
  withFrag s fun x => grp1 x a d g (fun a => a) id
/-- NOT (R184). -/
def execNot (a d : BitVec 7) (g : BitVec 3) (s : State) : Out :=
  withFrag s fun x => vec1 x a d g (fun a => ~~~a) ivTop1
/-- NOT_G (R184). -/
def execNotG (a d : BitVec 7) (g : BitVec 3) (s : State) : Out :=
  withFrag s fun x => grp1 x a d g (fun a => ~~~a) ivTop1
/-- NEG (R184). -/
def execNeg (a d : BitVec 7) (g : BitVec 3) (s : State) : Out :=
  withFrag s fun x => vec1 x a d g (fun a => -a) ivNeg
/-- NEG_G (R184). -/
def execNegG (a d : BitVec 7) (g : BitVec 3) (s : State) : Out :=
  withFrag s fun x => grp1 x a d g (fun a => -a) ivNeg
/-- ABS (R184). -/
def execAbs (a d : BitVec 7) (g : BitVec 3) (s : State) : Out :=
  withFrag s fun x => vec1 x a d g (fun a => absW a) ivAbs
/-- ABS_G (R184). -/
def execAbsG (a d : BitVec 7) (g : BitVec 3) (s : State) : Out :=
  withFrag s fun x => grp1 x a d g (fun a => absW a) ivAbs
/-- POPC (R184). -/
def execPopc (a d : BitVec 7) (g : BitVec 3) (s : State) : Out :=
  withFrag s fun x => vec1 x a d g (fun a => popcW a) ivCount
/-- POPC_G (R184). -/
def execPopcG (a d : BitVec 7) (g : BitVec 3) (s : State) : Out :=
  withFrag s fun x => grp1 x a d g (fun a => popcW a) ivCount
/-- CLZ (R184). -/
def execClz (a d : BitVec 7) (g : BitVec 3) (s : State) : Out :=
  withFrag s fun x => vec1 x a d g (fun a => clzW a) ivCount
/-- CLZ_G (R184). -/
def execClzG (a d : BitVec 7) (g : BitVec 3) (s : State) : Out :=
  withFrag s fun x => grp1 x a d g (fun a => clzW a) ivCount
/-- BREV (R184). -/
def execBrev (a d : BitVec 7) (g : BitVec 3) (s : State) : Out :=
  withFrag s fun x => vec1 x a d g (fun a => brevW a) ivTop1
/-- BREV_G (R184). -/
def execBrevG (a d : BitVec 7) (g : BitVec 3) (s : State) : Out :=
  withFrag s fun x => grp1 x a d g (fun a => brevW a) ivTop1
/-- CVT_I8_I32 (R184). -/
def execCvtI8I32 (a d : BitVec 7) (g : BitVec 3) (s : State) : Out :=
  withFrag s fun x => vec1 x a d g (fun a => sat (-128) 127 a.toInt) ivTop1
/-- CVT_I8_I32_G (R184). -/
def execCvtI8I32G (a d : BitVec 7) (g : BitVec 3) (s : State) : Out :=
  withFrag s fun x => grp1 x a d g (fun a => sat (-128) 127 a.toInt) ivTop1
/-- CVT_N8_I32 (R184). -/
def execCvtN8I32 (a d : BitVec 7) (g : BitVec 3) (s : State) : Out :=
  withFrag s fun x => vec1 x a d g (fun a => sat 0 255 a.toInt) ivTop1
/-- CVT_N8_I32_G (R184). -/
def execCvtN8I32G (a d : BitVec 7) (g : BitVec 3) (s : State) : Out :=
  withFrag s fun x => grp1 x a d g (fun a => sat 0 255 a.toInt) ivTop1
/-- CVT_I16_I32 (R184). -/
def execCvtI16I32 (a d : BitVec 7) (g : BitVec 3) (s : State) : Out :=
  withFrag s fun x => vec1 x a d g (fun a => sat (-32768) 32767 a.toInt) ivTop1
/-- CVT_I16_I32_G (R184). -/
def execCvtI16I32G (a d : BitVec 7) (g : BitVec 3) (s : State) : Out :=
  withFrag s fun x => grp1 x a d g (fun a => sat (-32768) 32767 a.toInt) ivTop1
/-- CVT_N16_I32 (R184). -/
def execCvtN16I32 (a d : BitVec 7) (g : BitVec 3) (s : State) : Out :=
  withFrag s fun x => vec1 x a d g (fun a => sat 0 65535 a.toInt) ivTop1
/-- CVT_N16_I32_G (R184). -/
def execCvtN16I32G (a d : BitVec 7) (g : BitVec 3) (s : State) : Out :=
  withFrag s fun x => grp1 x a d g (fun a => sat 0 65535 a.toInt) ivTop1
/-- CVT_N32_I32 (R184). -/
def execCvtN32I32 (a d : BitVec 7) (g : BitVec 3) (s : State) : Out :=
  withFrag s fun x => vec1 x a d g (fun a => sat 0 maxI a.toInt) ivTop1
/-- CVT_N32_I32_G (R184). -/
def execCvtN32I32G (a d : BitVec 7) (g : BitVec 3) (s : State) : Out :=
  withFrag s fun x => grp1 x a d g (fun a => sat 0 maxI a.toInt) ivTop1
/-- CVT_I32_N32 (R184). -/
def execCvtI32N32 (a d : BitVec 7) (g : BitVec 3) (s : State) : Out :=
  withFrag s fun x => vec1 x a d g (fun a => sat 0 maxI a.toNat) ivTop1
/-- CVT_I32_N32_G (R184). -/
def execCvtI32N32G (a d : BitVec 7) (g : BitVec 3) (s : State) : Out :=
  withFrag s fun x => grp1 x a d g (fun a => sat 0 maxI a.toNat) ivTop1
/-- CVT_N8_N32 (R184). -/
def execCvtN8N32 (a d : BitVec 7) (g : BitVec 3) (s : State) : Out :=
  withFrag s fun x => vec1 x a d g (fun a => sat 0 255 a.toNat) ivTop1
/-- CVT_N8_N32_G (R184). -/
def execCvtN8N32G (a d : BitVec 7) (g : BitVec 3) (s : State) : Out :=
  withFrag s fun x => grp1 x a d g (fun a => sat 0 255 a.toNat) ivTop1
/-- CVT_N16_N32 (R184). -/
def execCvtN16N32 (a d : BitVec 7) (g : BitVec 3) (s : State) : Out :=
  withFrag s fun x => vec1 x a d g (fun a => sat 0 65535 a.toNat) ivTop1
/-- CVT_N16_N32_G (R184). -/
def execCvtN16N32G (a d : BitVec 7) (g : BitVec 3) (s : State) : Out :=
  withFrag s fun x => grp1 x a d g (fun a => sat 0 65535 a.toNat) ivTop1

end Sys2Proof.Machine
end

