-- ==== Sys2Proof/Machine/Predicate.lean ====
section
/-!
DEFINITION. The predicate operations and their group-wide twins (R185).
-/
namespace Sys2Proof.Machine

/-- A binary operation on vector predicates: the guard field names the second operand, and every exec lane is written (R185). -/
def vecPred2 (x : Env) (a d b : BitVec 3) (op : Mask → Mask → Mask) : State :=
  vecPred x ([pcode a.toNat, pcode b.toNat]) true d (fun x => x.active) (fun x => op (pmask x.g a.toNat) (pmask x.g b.toNat))
/-- The same on group predicates. -/
def grpPred2 (x : Env) (a d b : BitVec 3) (op : Bool → Bool → Bool) : State :=
  issue x true [gpcode a.toNat, gpcode b.toNat] [gpcode d.toNat] fun x =>
    ((x.gpwrite d.toNat (op (gpred x.g a.toNat) (gpred x.g b.toNat)) {}).skip 4).commit
/-- A guarded predicate move (R185). -/
def vecPred1 (x : Env) (a d g : BitVec 3) (op : Mask → Mask) : State :=
  vecPred x ([pcode a.toNat] ++ (if g = 0 then [] else [pcode g.toNat])) true d
    (fun x => x.active &&& pmask x.g g.toNat) (fun x => op (pmask x.g a.toNat))
/-- The same on group predicates. -/
def grpPred1 (x : Env) (a d g : BitVec 3) (op : Bool → Bool) : State :=
  issue x true ([gpcode a.toNat] ++ (if g = 0 then [] else [gpcode g.toNat])) [gpcode d.toNat] fun x =>
    let x := if gpred x.g g.toNat then x.gpwrite d.toNat (op (gpred x.g a.toNat)) {} else x
    (x.skip 4).commit
/-- pset from a vector source: true where the register is nonzero (R185). -/
def vecPset (x : Env) (a : BitVec 7) (d g : BitVec 3) : State :=
  vecPred x ([vcode a.toNat] ++ (if g = 0 then [] else [pcode g.toNat])) (srcOk x.g a) d
    (fun x => x.active &&& pmask x.g g.toNat) (fun x => maskOf fun l => vsrc x.g a.toNat l != 0)
/-- pset from a group-wide source. -/
def grpPset (x : Env) (a : BitVec 7) (d g : BitVec 3) : State :=
  issue x (gsOk a) ([gcode a.toNat] ++ (if g = 0 then [] else [gpcode g.toNat])) [gpcode d.toNat] fun x =>
    let x := if gpred x.g g.toNat then x.gpwrite d.toNat (gsrc x.g a.toNat != 0) {} else x
    (x.skip 4).commit

/-- PAND (R185). -/
def execPand (a d b : BitVec 3) (s : State) : Out :=
  withFrag s fun x => vecPred2 x a d b fun a b => a &&& b
/-- PAND_G (R185). -/
def execPandG (a d b : BitVec 3) (s : State) : Out :=
  withFrag s fun x => grpPred2 x a d b fun a b => a && b
/-- POR (R185). -/
def execPor (a d b : BitVec 3) (s : State) : Out :=
  withFrag s fun x => vecPred2 x a d b fun a b => a ||| b
/-- POR_G (R185). -/
def execPorG (a d b : BitVec 3) (s : State) : Out :=
  withFrag s fun x => grpPred2 x a d b fun a b => a || b
/-- PXOR (R185). -/
def execPxor (a d b : BitVec 3) (s : State) : Out :=
  withFrag s fun x => vecPred2 x a d b fun a b => a ^^^ b
/-- PXOR_G (R185). -/
def execPxorG (a d b : BitVec 3) (s : State) : Out :=
  withFrag s fun x => grpPred2 x a d b fun a b => a != b
/-- PANDN (R185). -/
def execPandn (a d b : BitVec 3) (s : State) : Out :=
  withFrag s fun x => vecPred2 x a d b fun a b => a &&& ~~~b
/-- PANDN_G (R185). -/
def execPandnG (a d b : BitVec 3) (s : State) : Out :=
  withFrag s fun x => grpPred2 x a d b fun a b => a && !b
/-- PNOT (R185). -/
def execPnot (a d g : BitVec 3) (s : State) : Out :=
  withFrag s fun x => vecPred1 x a d g fun a => ~~~a
/-- PNOT_G (R185). -/
def execPnotG (a d g : BitVec 3) (s : State) : Out :=
  withFrag s fun x => grpPred1 x a d g fun a => !a
/-- PMOV (R185). -/
def execPmov (a d g : BitVec 3) (s : State) : Out :=
  withFrag s fun x => vecPred1 x a d g fun a => a
/-- PMOV_G (R185). -/
def execPmovG (a d g : BitVec 3) (s : State) : Out :=
  withFrag s fun x => grpPred1 x a d g fun a => a
/-- PSET (R185). -/
def execPset (a : BitVec 7) (d g : BitVec 3) (s : State) : Out :=
  withFrag s fun x => vecPset x a d g
/-- PSET_G (R185). -/
def execPsetG (a : BitVec 7) (d g : BitVec 3) (s : State) : Out :=
  withFrag s fun x => grpPset x a d g

end Sys2Proof.Machine
end

