-- ==== Sys2Proof/Machine/FloatAlu.lean ====
section
/-!
DEFINITION. FP32 and packed-half arithmetic, FP compares, FP unary instructions and conversions (R186 to R190).
-/
namespace Sys2Proof.Machine

/-! ## Results (R105, R109, R110, R186 to R190) -/

def faddW (m : Nat) (a b : Word) : Word := toF32 m (sumTerms m [f32 a, f32 b])
def fsubW (m : Nat) (a b : Word) : Word := toF32 m (sumTerms m [f32 a, (f32 b).neg])
def fmulW (m : Nat) (a b : Word) : Word := toF32 m (mulExact (f32 a) (f32 b))
def ffmaW (m : Nat) (a b c : Word) : Word := toF32 m (sumTerms m [mulExact (f32 a) (f32 b), f32 c])
/-- One element of a packed pair. -/
def half (f : Fmt) (w : Word) (i : Nat) : FVal := f.decode (wbits w (16 * i + 15) (16 * i))
/-- Both elements, each rounded once to the format (R105, R187). -/
def pack (f : Fmt) (m : Nat) (v : Nat → FVal) : Word := word ((f.encode m (v 0)).1 + 65536 * (f.encode m (v 1)).1)
def pkaddW (f : Fmt) (m : Nat) (a b : Word) : Word := pack f m fun i => sumTerms m [half f a i, half f b i]
def pkmulW (f : Fmt) (m : Nat) (a b : Word) : Word := pack f m fun i => mulExact (half f a i) (half f b i)
def pkfmaW (f : Fmt) (m : Nat) (a b c : Word) : Word :=
  pack f m fun i => sumTerms m [mulExact (half f a i) (half f b i), half f c i]
/-- A conversion between float formats, from the low bits of a (R113). -/
def cvtF (src dst : Fmt) (m : Nat) (a : Word) : Word :=
  word (dst.encode m (src.decode (a.toNat % 2 ^ (1 + src.ebits + src.fbits)))).1
/-- The truth of an fcmp condition (R188). -/
def fcmpHolds (c : Nat) (a b : Word) : Bool :=
  let nan := f32 a == .nan || f32 b == .nan
  let o := cmpVal (f32 a) (f32 b)
  match c with
  | 0 => !nan && o == 0 | 1 => nan || o != 0 | 2 => !nan && o < 0 | 3 => !nan && o ≤ 0
  | 4 => !nan && 0 < o | 5 => !nan && 0 ≤ o | 6 => !nan | _ => nan
/-- fcmp: its provenance is invalid (R63, R188). -/
def vecFcmp (x : Env) (b a : BitVec 7) (c : BitVec 4) (p g : BitVec 3) : State :=
  issue x (c.toNat ≤ 7 && srcOk x.g a && srcOk x.g b)
    ([vcode a.toNat, vcode b.toNat] ++ (if g = 0 then [] else [pcode g.toNat])) [pcode p.toNat] fun x =>
    ((x.pwrite p.toNat (x.active &&& pmask x.g g.toNat)
      (maskOf fun l => fcmpHolds c.toNat (vsrc x.g a.toNat l) (vsrc x.g b.toNat l)) {}).skip 4).commit

/-! ## Instructions -/

/-- FADD (R186). -/
def execFadd (b a d : BitVec 7) (g : BitVec 3) (s : State) : Out :=
  withFrag s fun x => fp2 x b a d g (fun m a b _ => faddW m a b)
/-- FSUB (R186). -/
def execFsub (b a d : BitVec 7) (g : BitVec 3) (s : State) : Out :=
  withFrag s fun x => fp2 x b a d g (fun m a b _ => fsubW m a b)
/-- FMUL (R186). -/
def execFmul (b a d : BitVec 7) (g : BitVec 3) (s : State) : Out :=
  withFrag s fun x => fp2 x b a d g (fun m a b _ => fmulW m a b)
/-- FFMA (R186). -/
def execFfma (b a d : BitVec 7) (g : BitVec 3) (s : State) : Out :=
  withFrag s fun x => fp2 x b a d g (fun m a b c => ffmaW m a b c) true
/-- FMIN (R186). -/
def execFmin (b a d : BitVec 7) (g : BitVec 3) (s : State) : Out :=
  withFrag s fun x => fp2 x b a d g (fun _ a b _ => minMax32 false a b)
/-- FMAX (R186). -/
def execFmax (b a d : BitVec 7) (g : BitVec 3) (s : State) : Out :=
  withFrag s fun x => fp2 x b a d g (fun _ a b _ => minMax32 true a b)
/-- PKADD_F16 (R187). -/
def execPkaddF16 (b a d : BitVec 7) (g : BitVec 3) (s : State) : Out :=
  withFrag s fun x => fp2 x b a d g (fun m a b _ => pkaddW fp16 m a b)
/-- PKMUL_F16 (R187). -/
def execPkmulF16 (b a d : BitVec 7) (g : BitVec 3) (s : State) : Out :=
  withFrag s fun x => fp2 x b a d g (fun m a b _ => pkmulW fp16 m a b)
/-- PKFMA_F16 (R187). -/
def execPkfmaF16 (b a d : BitVec 7) (g : BitVec 3) (s : State) : Out :=
  withFrag s fun x => fp2 x b a d g (fun m a b c => pkfmaW fp16 m a b c) true
/-- PKADD_BF16 (R187). -/
def execPkaddBf16 (b a d : BitVec 7) (g : BitVec 3) (s : State) : Out :=
  withFrag s fun x => fp2 x b a d g (fun m a b _ => pkaddW bf16 m a b)
/-- PKMUL_BF16 (R187). -/
def execPkmulBf16 (b a d : BitVec 7) (g : BitVec 3) (s : State) : Out :=
  withFrag s fun x => fp2 x b a d g (fun m a b _ => pkmulW bf16 m a b)
/-- PKFMA_BF16 (R187). -/
def execPkfmaBf16 (b a d : BitVec 7) (g : BitVec 3) (s : State) : Out :=
  withFrag s fun x => fp2 x b a d g (fun m a b c => pkfmaW bf16 m a b c) true
/-- FCMP (R188). -/
def execFcmp (b a : BitVec 7) (c : BitVec 4) (p g : BitVec 3) (s : State) : Out :=
  withFrag s fun x => vecFcmp x b a c p g
/-- FNEG (R189). -/
def execFneg (a d : BitVec 7) (g : BitVec 3) (s : State) : Out :=
  withFrag s fun x => fp1 x a d g (fun _ _ a => a ^^^ 0x80000000#32)
/-- FABS (R189). -/
def execFabs (a d : BitVec 7) (g : BitVec 3) (s : State) : Out :=
  withFrag s fun x => fp1 x a d g (fun _ _ a => a &&& 0x7FFFFFFF#32)
/-- FRCP (R189). -/
def execFrcp (a d : BitVec 7) (g : BitVec 3) (s : State) : Out :=
  withFrag s fun x => fp1 x a d g (fun m _ a => recip m (f32 a))
/-- FSQRT (R189). -/
def execFsqrt (a d : BitVec 7) (g : BitVec 3) (s : State) : Out :=
  withFrag s fun x => fp1 x a d g (fun m _ a => sqrt32 m (f32 a))
/-- FRSQ (R189). -/
def execFrsq (a d : BitVec 7) (g : BitVec 3) (s : State) : Out :=
  withFrag s fun x => fp1 x a d g (fun m _ a => rsqrt32 m (f32 a))
/-- FEXP2 (R189). -/
def execFexp2 (a d : BitVec 7) (g : BitVec 3) (s : State) : Out :=
  withFrag s fun x => fp1 x a d g (fun m _ a => exp2 m (f32 a))
/-- FLOG2 (R189). -/
def execFlog2 (a d : BitVec 7) (g : BitVec 3) (s : State) : Out :=
  withFrag s fun x => fp1 x a d g (fun m _ a => log2 m (f32 a))
/-- FRINT (R189). -/
def execFrint (a d : BitVec 7) (g : BitVec 3) (s : State) : Out :=
  withFrag s fun x => fp1 x a d g (fun m _ a => rint32 m a)
/-- CVT_F32_I32 (R190). -/
def execCvtF32I32 (a d : BitVec 7) (g : BitVec 3) (s : State) : Out :=
  withFrag s fun x => fp1 x a d g (fun m _ a => fromInt m a.toInt)
/-- CVT_F32_N32 (R190). -/
def execCvtF32N32 (a d : BitVec 7) (g : BitVec 3) (s : State) : Out :=
  withFrag s fun x => fp1 x a d g (fun m _ a => fromInt m a.toNat)
/-- CVT_I32_F32 (R190). -/
def execCvtI32F32 (a d : BitVec 7) (g : BitVec 3) (s : State) : Out :=
  withFrag s fun x => fp1 x a d g (fun m _ a => wordI (toIntSat m minI maxI (f32 a)))
/-- CVT_N32_F32 (R190). -/
def execCvtN32F32 (a d : BitVec 7) (g : BitVec 3) (s : State) : Out :=
  withFrag s fun x => fp1 x a d g (fun m _ a => wordI (toIntSat m 0 4294967295 (f32 a)))
/-- CVT_F16_F32 (R190). -/
def execCvtF16F32 (a d : BitVec 7) (g : BitVec 3) (s : State) : Out :=
  withFrag s fun x => fp1 x a d g (fun m _ a => cvtF fp32 fp16 m a)
/-- CVT_BF16_F32 (R190). -/
def execCvtBf16F32 (a d : BitVec 7) (g : BitVec 3) (s : State) : Out :=
  withFrag s fun x => fp1 x a d g (fun m _ a => cvtF fp32 bf16 m a)
/-- CVT_F32_F16 (R190). -/
def execCvtF32F16 (a d : BitVec 7) (g : BitVec 3) (s : State) : Out :=
  withFrag s fun x => fp1 x a d g (fun m _ a => cvtF fp16 fp32 m a)
/-- CVT_F32_BF16 (R190). -/
def execCvtF32Bf16 (a d : BitVec 7) (g : BitVec 3) (s : State) : Out :=
  withFrag s fun x => fp1 x a d g (fun m _ a => cvtF bf16 fp32 m a)
/-- CVT_E4M3_F32 (R190). -/
def execCvtE4m3F32 (a d : BitVec 7) (g : BitVec 3) (s : State) : Out :=
  withFrag s fun x => fp1 x a d g (fun m o a => word (e4m3.encodeFp8 m o (f32 a)))
/-- CVT_E5M2_F32 (R190). -/
def execCvtE5m2F32 (a d : BitVec 7) (g : BitVec 3) (s : State) : Out :=
  withFrag s fun x => fp1 x a d g (fun m o a => word (e5m2.encodeFp8 m o (f32 a)))
/-- CVT_F32_E4M3 (R190). -/
def execCvtF32E4m3 (a d : BitVec 7) (g : BitVec 3) (s : State) : Out :=
  withFrag s fun x => fp1 x a d g (fun m _ a => cvtF e4m3 fp32 m a)
/-- CVT_F32_E5M2 (R190). -/
def execCvtF32E5m2 (a d : BitVec 7) (g : BitVec 3) (s : State) : Out :=
  withFrag s fun x => fp1 x a d g (fun m _ a => cvtF e5m2 fp32 m a)
/-- CVT_BF16_F16 (R190). -/
def execCvtBf16F16 (a d : BitVec 7) (g : BitVec 3) (s : State) : Out :=
  withFrag s fun x => fp1 x a d g (fun m _ a => cvtF fp16 bf16 m a)
/-- CVT_F16_BF16 (R190). -/
def execCvtF16Bf16 (a d : BitVec 7) (g : BitVec 3) (s : State) : Out :=
  withFrag s fun x => fp1 x a d g (fun m _ a => cvtF bf16 fp16 m a)
/-- CVT_I8_F32 (R190). -/
def execCvtI8F32 (a d : BitVec 7) (g : BitVec 3) (s : State) : Out :=
  withFrag s fun x => fp1 x a d g (fun m _ a => wordI (toIntSat m (-128) 127 (f32 a)))
/-- CVT_N8_F32 (R190). -/
def execCvtN8F32 (a d : BitVec 7) (g : BitVec 3) (s : State) : Out :=
  withFrag s fun x => fp1 x a d g (fun m _ a => wordI (toIntSat m 0 255 (f32 a)))

end Sys2Proof.Machine
end

