-- ==== Sys2Proof/Machine/Half16.lean ====
section
/-!
DEFINITION. The sixteen 16-bit instructions (R152, R191).
-/
namespace Sys2Proof.Machine

/-- MOV_16 (R191). -/
def execMov16 (s2 : BitVec 5) (d : BitVec 6) (s : State) : Out :=
  withFrag s fun x => half2 x (some s2.toNat) 0 d.toNat false (fun _ b => b) (fun _ b => b)
/-- ADD_16 (R152). -/
def execAdd16 (s2 : BitVec 5) (d : BitVec 6) (s : State) : Out :=
  withFrag s fun x => half2 x (some s2.toNat) 0 d.toNat true (fun a b => a + b) (ivAdd)
/-- SUB_16 (R152). -/
def execSub16 (s2 : BitVec 5) (d : BitVec 6) (s : State) : Out :=
  withFrag s fun x => half2 x (some s2.toNat) 0 d.toNat true (fun a b => a - b) (ivSub)
/-- ADDI_16 (R152). -/
def execAddi16 (i : BitVec 5) (d : BitVec 6) (s : State) : Out :=
  withFrag s fun x => half2 x none (i.signExtend 32) d.toNat true (fun a b => a + b) ivAdd
/-- AND_16 (R152). -/
def execAnd16 (s2 : BitVec 5) (d : BitVec 6) (s : State) : Out :=
  withFrag s fun x => half2 x (some s2.toNat) 0 d.toNat true (fun a b => a &&& b) (ivAnd)
/-- OR_16 (R152). -/
def execOr16 (s2 : BitVec 5) (d : BitVec 6) (s : State) : Out :=
  withFrag s fun x => half2 x (some s2.toNat) 0 d.toNat true (fun a b => a ||| b) (ivOr)
/-- XOR_16 (R152). -/
def execXor16 (s2 : BitVec 5) (d : BitVec 6) (s : State) : Out :=
  withFrag s fun x => half2 x (some s2.toNat) 0 d.toNat true (fun a b => a ^^^ b) (ivOr)
/-- SHLI_16 (R152). -/
def execShli16 (i : BitVec 5) (d : BitVec 6) (s : State) : Out :=
  withFrag s fun x => half2 x none (i.zeroExtend 32) d.toNat true (fun a b => shlW a b) ivShl
/-- SHRI_16 (R152). -/
def execShri16 (i : BitVec 5) (d : BitVec 6) (s : State) : Out :=
  withFrag s fun x => half2 x none (i.zeroExtend 32) d.toNat true (fun a b => shrW a b) ivShr
/-- SARI_16 (R152). -/
def execSari16 (i : BitVec 5) (d : BitVec 6) (s : State) : Out :=
  withFrag s fun x => half2 x none (i.zeroExtend 32) d.toNat true (fun a b => sarW a b) ivSar
/-- MIN_I_16 (R152). -/
def execMinI16 (s2 : BitVec 5) (d : BitVec 6) (s : State) : Out :=
  withFrag s fun x => half2 x (some s2.toNat) 0 d.toNat true (fun a b => minIW a b) (ivMinI)
/-- MAX_I_16 (R152). -/
def execMaxI16 (s2 : BitVec 5) (d : BitVec 6) (s : State) : Out :=
  withFrag s fun x => half2 x (some s2.toNat) 0 d.toNat true (fun a b => maxIW a b) (ivMaxI)
/-- FADD_16 (R152). -/
def execFadd16 (s2 : BitVec 5) (d : BitVec 6) (s : State) : Out :=
  withFrag s fun x => half2 x (some s2.toNat) 0 d.toNat true (fun a b => faddW (rnd x.f) a b) (ivTop2)
/-- FSUB_16 (R152). -/
def execFsub16 (s2 : BitVec 5) (d : BitVec 6) (s : State) : Out :=
  withFrag s fun x => half2 x (some s2.toNat) 0 d.toNat true (fun a b => fsubW (rnd x.f) a b) (ivTop2)
/-- FMUL_16 (R152). -/
def execFmul16 (s2 : BitVec 5) (d : BitVec 6) (s : State) : Out :=
  withFrag s fun x => half2 x (some s2.toNat) 0 d.toNat true (fun a b => fmulW (rnd x.f) a b) (ivTop2)
/-- FMAX_16 (R152). -/
def execFmax16 (s2 : BitVec 5) (d : BitVec 6) (s : State) : Out :=
  withFrag s fun x => half2 x (some s2.toNat) 0 d.toNat true (fun a b => minMax32 true a b) (ivTop2)

end Sys2Proof.Machine
end

