-- ==== Sys2Proof/Machine/CrossLane.lean ====
section
/-!
DEFINITION. Lanes that read other lanes: picks, quad exchanges, polls, likeness masks, reductions, lane moves (R192 to R198).
-/
namespace Sys2Proof.Machine

/-- A lane that was never part of the block: no lane of its quad lies below the block's count (R11). -/
def absent (x : Env) (l : Nat) : Bool := x.b.lanes ≤ 32 * x.g.index + 4 * (l / 4)
/-- The value another lane's register holds: an absent lane reads as 0 (R192). -/
def laneVal (x : Env) (a : BitVec 7) (l : Nat) : Word := if absent x l then 0 else vsrc x.g a.toNat l
/-- Contributors and receivers (R192). -/
def contributors (x : Env) (g : BitVec 3) : Mask := x.f.exec &&& pmask x.g g.toNat
/-- Lanes of a mask in which a register's value satisfies a test. -/
def lanesWhere (m : Mask) (p : Nat → Bool) : Mask := maskOf fun l => inMask m l && p l

/-- The source lanes of the lanes of exec, and the lanes of exec that have none (R13). -/
def sourceLanes (x : Env) (src : Nat → Option Nat) : Mask := maskOf fun q => (lanesOf x.f.exec).any fun l => src l == some q
def sourceless (x : Env) (src : Nat → Option Nat) : Mask := maskOf fun l => inMask x.f.exec l && (src l).isNone
/-- What a cross-lane pick reads for its lanes of exec: register A in their source lanes, their own control words, and the destination where
there is no source. -/
def pickReads (x : Env) (a b : BitVec 7) (d : Nat) (g : BitVec 3) (src : Nat → Option Nat) : Reads :=
  [(vcode a.toNat, sourceLanes x src), (vcode b.toNat, x.f.exec), (d, sourceless x src)] ++ (if g = 0 then [] else [(pcode g.toNat, x.f.exec)])
/-- The source lane a control word names for a lane (R193). -/
def pickSource (x : Env) (b : BitVec 7) (src : (seg j n w : Nat) → Option Nat) (l : Nat) : Option Nat :=
  let ctl := vsrc x.g b.toNat l
  let k := wbits ctl 10 8
  let w := if 1 ≤ k ∧ k ≤ 5 then 2 ^ k else 32
  src (l - l % w) (l % w) (wbits ctl 4 0) w
/-- A cross-lane pick (R193): the source lane from the segment base, position, n and width. -/
def crossPick (x : Env) (b a d : BitVec 7) (g : BitVec 3) (prior : Bool) (src : (seg j n w : Nat) → Option Nat) : State :=
  issueReads x (dstOk x.g d && srcOk x.g a && srcOk x.g b)
    ([vcode a.toNat, vcode b.toNat] ++ (if prior then [d.toNat] else []) ++ (if g = 0 then [] else [pcode g.toNat])) [d.toNat]
    (pickReads x a b d.toNat g fun l => pickSource x b src l) 4 fun x =>
    let val := fun l =>
      match pickSource x b src l with
      | some q => laneVal x a q
      | none => vreg x.g d.toNat l
    ((x.vwrite d.toNat (pmask x.g g.toNat) val top).skip 4).commit
/-- A quad exchange (R194): the source lane within the quad. -/
def quadMove (x : Env) (a d : BitVec 7) (g : BitVec 3) (src : Nat → Nat) : State :=
  issueWith x (dstOk x.g d && srcOk x.g a) ([vcode a.toNat] ++ (if g = 0 then [] else [pcode g.toNat])) [d.toNat]
    (sourceLanes x fun l => some (4 * (l / 4) + src (l % 4))) 4 fun x =>
    ((x.vwrite d.toNat (pmask x.g g.toNat) (fun l => laneVal x a (4 * (l / 4) + src (l % 4))) top).skip 4).commit
/-- A poll: one truth value over the contributors, to every receiver (R195). -/
def poll (x : Env) (a d g : BitVec 3) (op : (contrib hold : Mask) → Bool) : State :=
  vecPred x ([pcode a.toNat] ++ (if g = 0 then [] else [pcode g.toNat])) true d
    (fun x => x.active &&& pmask x.g g.toNat)
    (fun x => if op (contributors x g) (contributors x g &&& pmask x.g a.toNat) then allLanes else 0)
/-- A mask or count of the contributors whose predicate is true (R195). -/
def pollWord (x : Env) (a : BitVec 3) (d : BitVec 7) (g : BitVec 3) (op : Mask → Word) (iv : Iv) : State :=
  issue x (dstOk x.g d) ([pcode a.toNat] ++ (if g = 0 then [] else [pcode g.toNat])) [d.toNat] fun x =>
    ((x.vwrite d.toNat (pmask x.g g.toNat) (fun _ => op (contributors x g &&& pmask x.g a.toNat)) iv).skip 4).commit
/-- A likeness mask (R196): from the contributors and their values, for each receiver's value. -/
def likeness (x : Env) (a d : BitVec 7) (g : BitVec 3) (op : Mask → (Nat → Word) → Word → Mask) : State :=
  issue x (dstOk x.g d && srcOk x.g a) ([vcode a.toNat] ++ (if g = 0 then [] else [pcode g.toNat])) [d.toNat] fun x =>
    ((x.vwrite d.toNat (pmask x.g g.toNat)
      (fun l => op (contributors x g) (vsrc x.g a.toNat) (vsrc x.g a.toNat l)) top).skip 4).commit
/-- A group reduction into a g register, written whenever it issues (R197). -/
def reduce (x : Env) (a d : BitVec 7) (g : BitVec 3) (op : Nat → List Word → Word) : State :=
  issue x (gdOk d && srcOk x.g a) ([vcode a.toNat] ++ (if g = 0 then [] else [pcode g.toNat])) [128 + d.toNat] fun x =>
    ((x.gwrite d.toNat (op (rnd x.f) ((lanesOf (contributors x g)).map (vsrc x.g a.toNat))) top).skip 4).commit

/-- XPICK (R193). -/
def execXpick (b a d : BitVec 7) (g : BitVec 3) (s : State) : Out :=
  withFrag s fun x => crossPick x b a d g false fun seg _ n w => some (seg + n % w)
/-- XRISE (R193). -/
def execXrise (b a d : BitVec 7) (g : BitVec 3) (s : State) : Out :=
  withFrag s fun x => crossPick x b a d g true fun seg j n _ => if n ≤ j then some (seg + j - n) else none
/-- XFALL (R193). -/
def execXfall (b a d : BitVec 7) (g : BitVec 3) (s : State) : Out :=
  withFrag s fun x => crossPick x b a d g true fun seg j n w => if j + n ≤ w - 1 then some (seg + j + n) else none
/-- XFLIP (R193). -/
def execXflip (b a d : BitVec 7) (g : BitVec 3) (s : State) : Out :=
  withFrag s fun x => crossPick x b a d g false fun seg j n w => some (seg + (j ^^^ (n % w)))
/-- QSWAP_H (R194). -/
def execQswapH (a d : BitVec 7) (g : BitVec 3) (s : State) : Out :=
  withFrag s fun x => quadMove x a d g fun q => q ^^^ 1
/-- QSWAP_V (R194). -/
def execQswapV (a d : BitVec 7) (g : BitVec 3) (s : State) : Out :=
  withFrag s fun x => quadMove x a d g fun q => q ^^^ 2
/-- QSWAP_D (R194). -/
def execQswapD (a d : BitVec 7) (g : BitVec 3) (s : State) : Out :=
  withFrag s fun x => quadMove x a d g fun q => q ^^^ 3
/-- QBCAST_0 (R194). -/
def execQbcast0 (a d : BitVec 7) (g : BitVec 3) (s : State) : Out :=
  withFrag s fun x => quadMove x a d g fun _ => 0
/-- QBCAST_1 (R194). -/
def execQbcast1 (a d : BitVec 7) (g : BitVec 3) (s : State) : Out :=
  withFrag s fun x => quadMove x a d g fun _ => 1
/-- QBCAST_2 (R194). -/
def execQbcast2 (a d : BitVec 7) (g : BitVec 3) (s : State) : Out :=
  withFrag s fun x => quadMove x a d g fun _ => 2
/-- QBCAST_3 (R194). -/
def execQbcast3 (a d : BitVec 7) (g : BitVec 3) (s : State) : Out :=
  withFrag s fun x => quadMove x a d g fun _ => 3
/-- XALL (R195). -/
def execXall (a d g : BitVec 3) (s : State) : Out :=
  withFrag s fun x => poll x a d g fun c h => h == c
/-- XANY (R195). -/
def execXany (a d g : BitVec 3) (s : State) : Out :=
  withFrag s fun x => poll x a d g fun _ h => h != 0
/-- XSAME (R195). -/
def execXsame (a d g : BitVec 3) (s : State) : Out :=
  withFrag s fun x => poll x a d g fun c h => h == c || h == 0
/-- XMASK (R195). -/
def execXmask (a : BitVec 3) (d : BitVec 7) (g : BitVec 3) (s : State) : Out :=
  withFrag s fun x => pollWord x a d g id top
/-- XCOUNT (R195). -/
def execXcount (a : BitVec 3) (d : BitVec 7) (g : BitVec 3) (s : State) : Out :=
  withFrag s fun x => pollWord x a d g (fun m => word (countMask m)) (ivCount top)
/-- XEQ (R196). -/
def execXeq (a d : BitVec 7) (g : BitVec 3) (s : State) : Out :=
  withFrag s fun x => likeness x a d g fun m v w => lanesWhere m fun l => v l == w
/-- XEQALL (R196). -/
def execXeqall (a d : BitVec 7) (g : BitVec 3) (s : State) : Out :=
  withFrag s fun x => likeness x a d g fun m v _ =>
    match lowest m with
    | some f => if (lanesOf m).all (fun l => v l == v f) then m else 0
    | none => 0
/-- RDX_ADD (R197). -/
def execRdxAdd (a d : BitVec 7) (g : BitVec 3) (s : State) : Out :=
  withFrag s fun x => reduce x a d g fun _ v => v.foldl (· + ·) 0
/-- RDX_MIN_I (R197). -/
def execRdxMinI (a d : BitVec 7) (g : BitVec 3) (s : State) : Out :=
  withFrag s fun x => reduce x a d g fun _ v => v.foldl minIW 0x7FFFFFFF
/-- RDX_MAX_I (R197). -/
def execRdxMaxI (a d : BitVec 7) (g : BitVec 3) (s : State) : Out :=
  withFrag s fun x => reduce x a d g fun _ v => v.foldl maxIW 0x80000000
/-- RDX_MIN_N (R197). -/
def execRdxMinN (a d : BitVec 7) (g : BitVec 3) (s : State) : Out :=
  withFrag s fun x => reduce x a d g fun _ v => v.foldl minNW 0xFFFFFFFF
/-- RDX_MAX_N (R197). -/
def execRdxMaxN (a d : BitVec 7) (g : BitVec 3) (s : State) : Out :=
  withFrag s fun x => reduce x a d g fun _ v => v.foldl maxNW 0
/-- RDX_AND (R197). -/
def execRdxAnd (a d : BitVec 7) (g : BitVec 3) (s : State) : Out :=
  withFrag s fun x => reduce x a d g fun _ v => v.foldl (· &&& ·) 0xFFFFFFFF
/-- RDX_OR (R197). -/
def execRdxOr (a d : BitVec 7) (g : BitVec 3) (s : State) : Out :=
  withFrag s fun x => reduce x a d g fun _ v => v.foldl (· ||| ·) 0
/-- RDX_XOR (R197). -/
def execRdxXor (a d : BitVec 7) (g : BitVec 3) (s : State) : Out :=
  withFrag s fun x => reduce x a d g fun _ v => v.foldl (· ^^^ ·) 0
/-- RDX_FADD (R197). -/
def execRdxFadd (a d : BitVec 7) (g : BitVec 3) (s : State) : Out :=
  withFrag s fun x => reduce x a d g fun m v => if v = [] then 0 else toF32 m (sumTerms m (v.map f32))
/-- RDX_FMIN (R197). -/
def execRdxFmin (a d : BitVec 7) (g : BitVec 3) (s : State) : Out :=
  withFrag s fun x => reduce x a d g fun _ v => v.foldl (minMax32 false) (word fp32.nanEnc)
/-- RDX_FMAX (R197). -/
def execRdxFmax (a d : BitVec 7) (g : BitVec 3) (s : State) : Out :=
  withFrag s fun x => reduce x a d g fun _ v => v.foldl (minMax32 true) (word fp32.nanEnc)

/-- The g source's own shadow as writelane's result interval (R58). -/
def writelaneAt (x : Env) (n : Nat) (a d : BitVec 7) : Env :=
  if absent x n then x
  else
    let out := !inMask x.f.members n
    let y := x.vwriteAt d.toNat (lane1 n) (fun _ => gsrc x.g a.toNat) (view x.g x.f (gcode a.toNat))
    if out then
      let cut := fun (f : Frag) => { f with narrow := f.narrow.filter (·.reg != d.toNat) }
      { y with g := { y.g with table := kmap (fun e f => if e = y.e then f else cut f) y.g.table, spill := y.g.spill.map cut } }
    else y

/-- READLANE (R198). -/
def execReadlane (n : BitVec 5) (a d : BitVec 7) (g : BitVec 3) (s : State) : Out :=
  withFrag s fun x => 
    issueWith x (gdOk d && srcOk x.g a) ([vcode a.toNat] ++ (if g = 0 then [] else [gpcode g.toNat])) [128 + d.toNat] (lane1 n.toNat) 4
      fun x =>
      let x := if gpred x.g g.toNat then x.gwrite d.toNat (laneVal x a n.toNat) top else x
      (x.skip 4).commit
/-- WRITELANE (R198). -/
def execWritelane (n : BitVec 5) (a d : BitVec 7) (g : BitVec 3) (s : State) : Out :=
  withFrag s fun x => 
    issueWith x (dstOk x.g d && gsOk a) ([gcode a.toNat] ++ (if g = 0 then [] else [gpcode g.toNat])) [d.toNat] x.f.exec 4 fun x =>
      let x := if gpred x.g g.toNat then writelaneAt x n.toNat a d else x
      (x.skip 4).commit
/-- READFIRST (R198). -/
def execReadfirst (a d : BitVec 7) (g : BitVec 3) (s : State) : Out :=
  withFrag s fun x => 
    issue x (gdOk d && srcOk x.g a) ([vcode a.toNat] ++ (if g = 0 then [] else [gpcode g.toNat])) [128 + d.toNat] fun x =>
      let x := match lowest x.f.exec with
        | some l => if gpred x.g g.toNat then x.gwrite d.toNat (vsrc x.g a.toNat l) (view x.g x.f (vcode a.toNat)) else x
        | none => x
      (x.skip 4).commit

end Sys2Proof.Machine
end

