-- ==== Sys2Proof/Machine/Control.lean ====
section
/-!
DEFINITION. The control instructions: branches, calls and returns, the end of lanes, software traps, fmt and exec, barriers,
block registers, and words that are no instruction (R16, R22, R154, R158, R199 to R210, R214).
-/
namespace Sys2Proof.Machine

/-! ## Code addresses -/

/-- Go on where a code address holds a clause header; where it does not, or its bytes cannot be fetched, the instruction raises the
illegal-encoding trap before any effect (R158). The instruction waits for bytes that are on their way. -/
def atHeader (x : Env) (a : Word) (m : Env → State) : State :=
  match codeAt x a with
  | (.inl .waits, y) => stall y
  | (.inl (.park p), y) => y.park p
  | (.inl (.trap _ _ _), y) => illegal y
  | (.inr w, y) => if w % 256 = 0xFF then m y else illegal y
/-- An address a signed number of halfwords away. -/
def halfwords {n : Nat} (pc : Word) (t : BitVec n) : Word := pc + (t.signExtend 32 <<< 1)
/-- The reconvergence address of a brc (R149). -/
def reconvOf (pc : Word) (d : BitVec 8) : Word := if d = 0 then pc + 4 else pc + word (2 * d.toNat)

/-! ## Conditional branches (R16, R64, R66, R200) -/

/-- The branch refines for a direction, when R64's conditions hold. DESIGN CHOICE (log 81): it reads the view of the first compared register
before that of the second, and `refineFrag` records the first one's narrowing before the second's, so the second is the more recently used. -/
def narrowed (x : Env) (p : Nat) (f : Frag) (dir : Bool) : Frag :=
  let pr := kget {} x.g.provs p
  if p ≠ 0 ∧ pr.valid ∧ x.f.exec = x.f.members ∧ x.f.members &&& ~~~pr.mask = 0 then
    let f := touch f pr.ra
    let f := if pr.useImm then f else touch f pr.rb
    let r := refineFrag x.g f pr dir
    { f with narrow := r.narrow }
  else f
/-- The two children of a split: the false lanes keep the entry (R16). DESIGN CHOICE (log 81): the taken child, which has never issued, keeps
the parent's earlier `lastIssue` until it does (R21). DEDUCED (log 22): both keep the barrier arrivals of the parent, as do the
children of calli and ret. -/
def fallChild (f : Frag) (taken : Mask) (a : Word) : Frag :=
  { f with members := f.members &&& ~~~taken, exec := f.exec &&& ~~~taken, pc := f.pc + 4
           reconv := some a, encl := f.reconv, loop := none }
def takenChild (f : Frag) (taken : Mask) (a t : Word) : Frag :=
  { f with members := taken, exec := taken, pc := t, reconv := some a, encl := f.reconv, loop := none, age := 0, spin := false
           rotated := false, arrive := .header }
/-- brc on a vector predicate. -/
def branchV (x : Env) (d : BitVec 8) (t : BitVec 12) (p : BitVec 3) : State :=
  issue x true (if p = 0 then [] else [pcode p.toNat]) [] fun x =>
    let taken := x.f.exec &&& pmask x.g p.toNat
    let target := halfwords x.f.pc t
    if taken = 0 then ({ x with f := narrowed x p.toNat x.f false }.skip 4).commit
    else if taken = x.f.exec then
      let y := x.branch target
      { y with f := narrowed x p.toNat y.f true }.commit
    else
      let a := reconvOf x.f.pc d
      if d = 1 ∨ x.g.level = .supervisor then illegal x
      else atHeader x a fun x =>
        let fall := narrowed x p.toNat (fallChild x.f taken a) false
        let take := narrowed x p.toNat { takenChild x.f taken a target with reached := x.s.clock } true
        { x with f := fall, g := addFrag x.g take }.commit
/-- brc on a group predicate: the whole fragment, whatever its exec (R22, R66). -/
def branchG (x : Env) (t : BitVec 12) (p : BitVec 3) : State :=
  issue x true (if p = 0 then [] else [gpcode p.toNat]) [] fun x =>
    let dir := gpred x.g p.toNat
    let pr := kget {} x.g.provs (8 + p.toNat)
    let y := if dir then x.branch (halfwords x.f.pc t) else x.skip 4
    (if p ≠ 0 ∧ pr.valid then { y with g := refineGroup y.g x.f pr dir } else y).commit

/-- BRC_V (R200). -/
def execBrcV (d : BitVec 8) (t : BitVec 12) (p : BitVec 3) (s : State) : Out := withFrag s fun x => branchV x d t p
/-- BRC_G (R200). -/
def execBrcG (t : BitVec 12) (p : BitVec 3) (s : State) : Out := withFrag s fun x => branchG x t p
/-- BRA (R201). -/
def execBra (o : BitVec 23) (s : State) : Out :=
  withFrag s fun x => issue x true [] [] fun x => (x.branch (halfwords x.f.pc o)).commit
/-- CALL (R201): lk takes the address after the call in every lane of exec. -/
def execCall (o : BitVec 23) (s : State) : Out :=
  withFrag s fun x => issue x true [] [95] fun x =>
    let ret := x.f.pc + 4
    ((x.vwrite 95 allLanes (fun _ => ret) (point (sgn ret))).goto (halfwords x.f.pc o)).commit

/-! ## Calls by register and returns (R203, R204) -/

/-- Distinct targets of the exec lanes in increasing order of their lowest lane, each with its lanes. -/
def targetSets (m : Mask) (t : Nat → Word) : List (Word × Mask) :=
  (lanesOf m).foldl (fun r l =>
    if r.any (·.1 == t l) then r.map fun q => if q.1 == t l then (q.1, q.2 ||| lane1 l) else q
    else r ++ [(t l, lane1 l)]) []
/-- Split by target: the first set keeps the entry and the member lanes outside exec; the others take new entries
(R20, R203). -/
def fanOut (x : Env) (sets : List (Word × Mask)) (reconv encl : Option Word) (arr : Arrival) : State :=
  let child := fun (m e : Mask) (t : Word) => { x.f with
    members := m, exec := e, pc := t, reconv := reconv, encl := encl, arrive := arr, loop := none, age := 0, spin := false, reached := x.s.clock }
  match sets with
  | [] => x.commit
  | (t, m) :: rest =>
    let g := rest.foldl (fun g q => addFrag g { child q.2 q.2 q.1 with rotated := false }) x.g
    { x with f := child (m ||| (x.f.members &&& ~~~x.f.exec)) m t, g := g }.commit
/-- calli and ret alike: `tgt` gives each lane's target, read before lk is written. -/
def transfer (x : Env) (tgt : Nat → Word) (y : Env) (reconv encl : Option Word) (arr : Arrival) : State :=
  if x.f.exec = 0 then
    match lowest x.f.members with
    | none => illegal x
    | some l => { x with f := { x.f with pc := tgt l, arrive := arr } }.commit
  else
    match targetSets x.f.exec tgt with
    | [(t, _)] => { y with f := { y.f with pc := t, arrive := arr } }.commit
    | sets => if x.g.level = .supervisor then illegal x else fanOut y sets reconv encl arr
/-- The lanes whose target is read: those of exec, or the lowest member's when none executes (R203, R204). -/
def targetLanes (x : Env) : Mask := if x.f.exec = 0 then (match lowest x.f.members with | some l => lane1 l | none => 0) else x.f.exec
/-- CALLI (R203). -/
def execCalli (a : BitVec 7) (s : State) : Out :=
  withFrag s fun x => issueWith x (srcOk x.g a) [vcode a.toNat] [95] (targetLanes x) 4 fun x =>
    let ret := x.f.pc + 4
    transfer x (vsrc x.g a.toNat) (x.vwrite 95 allLanes (fun _ => ret) (point (sgn ret))) (some ret) x.f.reconv .calli
/-- RET (R204). -/
def execRet (s : State) : Out :=
  withFrag s fun x => issueWith x true [95] [] (targetLanes x) 4 fun x => transfer x (vreg x.g 95) x x.f.reconv x.f.encl .header

/-! ## Yielding and trapping (R206, R207) -/

/-- YIELD (R206). -/
def execYield (s : State) : Out := withFrag s fun x => issue x true [] [] fun x => (x.skip 4).commit
/-- BRK (R207). -/
def execBrk (c : BitVec 7) (s : State) : Out :=
  withFrag s fun x => issue x true [] [] fun x =>
    takeTrap x { code := 0x0E, pc := x.f.pc, mask := x.f.exec, detail := word c.toNat, next := x.f.pc + 4 }
/-- TRAP (R207): with no exec lane's guard true, nothing. -/
def execTrap (c : BitVec 7) (g : BitVec 3) (s : State) : Out :=
  withFrag s fun x => issue x true (if g = 0 then [] else [pcode g.toNat]) [] fun x =>
    let m := x.f.exec &&& pmask x.g g.toNat
    if m = 0 then (x.skip 4).commit
    else takeTrap x { code := 0x0F, pc := x.f.pc, mask := m, detail := word c.toNat, next := x.f.pc + 4 }

/-! ## fmt and exec (R22, R41 to R43, R208) -/

/-- SETFMT. -/
def execSetfmt (a : BitVec 7) (s : State) : Out :=
  withFrag s fun x => issue x (gsOk a) [gcode a.toNat] [] fun x =>
    ({ x with f := { x.f with fmt := (gsrc x.g a.toNat).truncate 11 } }.skip 4).commit
/-- GETFMT. -/
def execGetfmt (d : BitVec 7) (s : State) : Out :=
  withFrag s fun x => issue x (gdOk d) [] [128 + d.toNat] fun x =>
    ((x.gwrite d.toNat (x.f.fmt.zeroExtend 32) ⟨0, 2047⟩).skip 4).commit
/-- SETEXEC. -/
def execSetexec (a : BitVec 7) (s : State) : Out :=
  withFrag s fun x => issue x (gsOk a) [gcode a.toNat] [] fun x =>
    ({ x with f := { x.f with exec := gsrc x.g a.toNat &&& x.f.members } }.skip 4).commit
/-- GETEXEC. -/
def execGetexec (d : BitVec 7) (s : State) : Out :=
  withFrag s fun x => issue x (gdOk d) [] [128 + d.toNat] fun x =>
    ((x.gwrite d.toNat x.f.exec top).skip 4).commit

/-! ## Barriers (R209, R210) -/

/-- Arrive at a block barrier; `sync` waits. A second arrival in one phase waits and counts toward the next (R209). -/
def arriveBar (x : Env) (n count : Nat) (sync : Bool) : State :=
  if releaseHeld x then stall x
  else if x.f.arrived.contains n then { x with f := { x.f with wait := .bar n, again := true } }.commit
  else
    let f := { x.f with arrived := n :: x.f.arrived }
    let x := { x with g := { x.g with barCounts := kput x.g.barCounts n count }
                      f := if sync then { f with wait := .bar n } else { f with pc := f.pc + 4 } }
    barCheck (barArrive x.commit x.k n) x.g.block n
/-- BAR_SYNC (R209). -/
def execBarSync (i n : BitVec 7) (s : State) : Out :=
  withFrag s fun x => issue x (i.toNat ≤ 15 && n.toNat ≤ 16) [] [] fun x => arriveBar x i.toNat n.toNat true
/-- BAR_ARRIVE (R209). -/
def execBarArrive (i n : BitVec 7) (s : State) : Out :=
  withFrag s fun x => issue x (i.toNat ≤ 15 && n.toNat ≤ 16) [] [] fun x => arriveBar x i.toNat n.toNat false
/-- CBAR_SYNC (R210). -/
def execCbarSync (s : State) : Out :=
  withFrag s fun x => issue x true [] [] fun x =>
    if releaseHeld x then stall x
    else cbarCheck (cbarArrive { x with f := { x.f with wait := .cbar } }.commit x.k) x.b.cluster

/-! ## Block registers (R27, R28, R214) -/

/-- The newest value of a block register, and the value a kget in clock t returns: after every write of clock t − 2 or
earlier (R28). -/
def kregNow (b : Block) (n : Nat) : Word := ((kget {} b.kregs n).writes.head?.map (·.2)).getD 0
def kregSeen (b : Block) (n t : Nat) : Word := (((kget {} b.kregs n).writes.find? fun w => w.1 + 2 ≤ t).map (·.2)).getD 0
/-- The writes of the last two clocks, and the newest one before them. -/
def recentWrites (t : Nat) : List (Nat × Word) → List (Nat × Word)
  | [] => []
  | w :: ws => if w.1 + 2 ≤ t then [w] else w :: recentWrites t ws
/-- Apply a write at once, in the order of issue (R27). -/
def Env.kwrite (x : Env) (n : Nat) (v : Word) : Env :=
  { x with b := { x.b with kregs := kput x.b.kregs n ⟨(x.s.clock, v) :: recentWrites x.s.clock (kget {} x.b.kregs n).writes⟩ } }
/-- Writes to block registers wait for an earlier fence of the group (R230). -/
def kregHeld (x : Env) : Bool :=
  x.outstanding.any fun o => match o.kind with | .fence k sc => k != 1 && sc != 0 | _ => false
/-- KGET. -/
def execKget (k : BitVec 4) (d : BitVec 7) (s : State) : Out :=
  withFrag s fun x => issue x (gdOk d) [] [128 + d.toNat] fun x =>
    ((x.gwrite d.toNat (kregSeen x.b k.toNat x.s.clock) top).skip 4).commit
/-- KSET. -/
def execKset (k : BitVec 4) (a : BitVec 7) (s : State) : Out :=
  withFrag s fun x => issue x (gsOk a) [gcode a.toNat] [] fun x =>
    if kregHeld x then stall x else ((x.kwrite k.toNat (gsrc x.g a.toNat)).skip 4).commit
/-- KADD. -/
def execKadd (k : BitVec 4) (d : BitVec 7) (s : State) : Out :=
  withFrag s fun x => issue x (gdOk d) [128 + d.toNat] [128 + d.toNat] fun x =>
    if kregHeld x then stall x
    else
      let old := kregNow x.b k.toNat
      (((x.kwrite k.toNat (old + greg x.g d.toNat)).gwrite d.toNat old top).skip 4).commit
/-- KCAS. -/
def execKcas (k : BitVec 4) (d : BitVec 7) (s : State) : Out :=
  withFrag s fun x => issue x (gdPairOk d) [128 + d.toNat, 128 + (d.toNat + 1)] [128 + d.toNat] fun x =>
    if kregHeld x then stall x
    else
      let old := kregNow x.b k.toNat
      let y := if old = greg x.g d.toNat then x.kwrite k.toNat (greg x.g (d.toNat + 1)) else x
      ((y.gwrite d.toNat old top).skip 4).commit

/-! ## Words that compute nothing (R154, R162, R164) -/

/-- NOP32 (R154). -/
def execNop32 (_payload : BitVec 24) (s : State) : Out :=
  withFrag s fun x => issue x true [] [] fun x => (x.skip 4).commit
/-- A word no row describes: the illegal-encoding trap, or the privilege trap for major 0x7D at user level (R162, R164). -/
def execReservedEncoding (w : BitVec 32) (s : State) : Out :=
  withFrag s fun x => if wbits w 7 0 = 0xFB ∧ x.g.level = .user then trapAt x 2 0 else illegal x

end Sys2Proof.Machine
end

