-- ==== Sys2Proof/Machine/Caches.lean ====
section
/-!
DEFINITION. What a group's accesses, acquires and cinv do to the lines that caches hold and to the region directories (R91, R92, R232,
R411, R426 to R432).
-/
namespace Sys2Proof.Machine

/-! ## What a group's accesses do to the caches (R91, R411, R426 to R432) -/

/-- A holder that has dropped every line a test names leaves the entries whose whole region it names. -/
def dirLeaveAll (d : List DirEntry) (hit : Nat → Bool) (h : Nat) : List DirEntry :=
  d.map fun e =>
    if !e.coarse && e.ptrs.contains h && (List.range (2 ^ e.size)).all (fun i => hit (e.base + i)) then { e with ptrs := e.ptrs.filter (· != h) } else e
/-- The granules a read asks the DRAM cache for (R92): those of its 16-byte granules alone when it wants eight sectors or more, each in one
granule; the whole line otherwise. `as` are the addresses of its wanted bytes. -/
def granulesOf (as : List Nat) (line : Nat) : BitVec 8 :=
  let gs := (as.map (· / 16)).eraseDups
  if 8 ≤ gs.length && gs.length == (as.map (· / 32)).eraseDups.length then
    gs.foldl (fun m g => if g / 8 = line then m ||| (1#8 <<< (g % 8)) else m) 0
  else 0xFF#8
/-- The die takes part in its home slice's directory for a line: a reader, or the writer. -/
def slicePart (s : State) (die line : Nat) (writes : Bool) : State :=
  match lineHome s line with
  | some n => if writes then writeDir s (8 + n) line die else readDir s (8 + n) line die
  | none => s
/-- A core's L1 gives up a line that an access bypassing it names, and leaves its die's directory (R145). -/
def l1Bypass (s : State) (core line : Nat) : State :=
  if (kfind (kget ({} : Core) s.cores core).l1 line).isNone then s
  else modDie (l1Leave s core line) (dieOf core) fun d => { d with dir := dirLeave d.dir line (core % 64) }
/-- A group's read of a line, as the caches of its core, die and the line's home slice see it. `pte` is the page's entry:
its treatment, race-watch, whose accesses bypass the L1 (R145), and host bias, in which no cache holds the line (R411, R426, R428). -/
def cacheRead (s : State) (core line pte : Nat) (granules : BitVec 8) : State :=
  let die := dieOf core
  let s := if bitOf pte 11 then l1Bypass s core line else s
  if bitOf pte 10 then dramRead s line granules
  else if bits pte 9 8 = 2 then llcTouch s line granules false false
  else if (kfind (kget ({} : Core) s.cores core).l1 line).isSome then s
  else
    let s := if (kfind (kget ({} : Die) s.dies die).l2 line).isSome then s
      else l2Put (slicePart (llcTouch s line granules false false) die line false) die line false
    if bitOf pte 11 then s else
    let s := l1Put s core line { stamp := stampNow s, selfInv := bits pte 9 8 == 1 }
    if bits pte 9 8 = 0 then readDir s die line (core % 64) else s
/-- A group's write of some bytes of a line: on a directory-tracked page the L1 takes the line, modified, and on a self-invalidating one
the L2 does, as it does for race-watch pages; each waits for the other holders of the line to give it up (R145, R426, R429, R431), the
writer's own L1 being no holder of a line that bypasses it. On an uncached page, and in host bias, the write is performed at the home slice. -/
def cacheWrite (s : State) (core line pte : Nat) (cells : List Host.Cell) : State :=
  let die := dieOf core
  if bitOf pte 10 || bits pte 9 8 == 2 then homeWrites s (cells.filter fun c => c.1 / 128 == line)
  else
    let s := slicePart (if bitOf pte 11 then l1Bypass s core line else s) die line true
    if bits pte 9 8 = 0 ∧ !bitOf pte 11 then
      let old := (kfind (kget ({} : Core) s.cores core).l1 line).getD { stamp := stampNow s }
      writeDir (l1Put (l2Put s die line false) core line { old with dirty := true }) die line (core % 64)
    else
      let s := l2Put s die line true
      if (kget ({} : Die) s.dies die).dir.any (·.covers line) then writeDir s die line (if bitOf pte 11 then 64 + core % 64 else core % 64) else s
/-! ## cinv (R232) -/

/-- Entries of a node of the page tables that are not zero, by index. -/
def nodeEntries (s : State) (node : Nat) : List Nat := ((s.mem.filter fun c => c.1 / 65536 == node).map fun c => c.1 % 65536 / 8).eraseDups
/-- Pages below a node, as virtual address, bytes and first byte as the caches name it: those present in device memory or the partition's
host space. -/
def pagesBelow (s : State) (p : Nat) : Nat → Nat → Nat → List (Nat × Nat × Nat)
  | n, node, va =>
    (nodeEntries s node).flatMap fun i =>
      let pte := read8 s (65536 * node + 8 * i)
      let at' := va + i * (match n with | 3 => 2 ^ 55 | 2 => 2 ^ 42 | 1 => 2 ^ 29 | _ => 65536)
      if !bitOf pte 0 then []
      else if bitOf pte 1 then 
        (if n ≤ 1 ∧ bits pte 7 6 ≤ 1 then
          [(at', if n = 1 then 2 ^ 29 else 65536, cacheKey p (bits pte 7 6) (65536 * bits pte 51 16 + if bits pte 7 6 = 1 then spaceBase s p else 0))] else [])
      else match n with
        | 0 => []
        | n + 1 => pagesBelow s p n (bits pte 51 16) at'
/-- Lines that hold a byte of an interval of a partition's global addresses. -/
def linesIn (s : State) (p lo hi : Nat) : Nat → Bool :=
  let spans := (pagesBelow s p 3 (bits (preg2 s p 0x20B) 51 16) 0).filterMap fun (va, n, pa) =>
    if max lo va < min hi (va + n) then some (pa + (max lo va - va), pa + (min hi (va + n) - va)) else none
  fun line => spans.any fun (a, b) => a < 128 * line + 128 && 128 * line < b
/-- The core's L1 drops the lines a test names, modified ones written back, and notices of the tracked ones reach its die's directory
(R232, R429). -/
def l1Give (s : State) (core : Nat) (hit : Nat → Bool) : State :=
  ((kget ({} : Core) s.cores core).l1.filter fun x => hit x.1).foldl (fun s x =>
    let s := l1Leave s core x.1
    if x.2.selfInv then s else modDie s (dieOf core) fun d => { d with dir := dirLeave d.dir x.1 (core % 64) }) s
/-- The die's L2 drops the lines a test names: with them the tracked copies its L1s hold, modified lines written back to their slices, and
its place in the slices' directories (R232, R427, R431). -/
def l2Give (s : State) (die : Nat) (hit : Nat → Bool) : State :=
  let s := ((kget ({} : Die) s.dies die).l2.filter fun x => hit x.1).foldl (fun s x => l2Leave s die x.1) s
  let s := modDie s die fun d => { d with dir := d.dir.filter fun e => !((List.range (2 ^ e.size)).all fun i => hit (e.base + i)) }
  { s with slices := kmap (fun _ sl => { sl with dir := dirLeaveAll sl.dir hit die }) s.slices }

end Sys2Proof.Machine
end

