-- ==== Sys2Proof/Machine/Access.lean ====
section
/-!
DEFINITION. The checks of a memory access, row by row of R219: the plumb stage, the address range, range locks, translation
by page, race-watch, and the data that returns; and the bytes a checked access reads and writes.
-/
namespace Sys2Proof.Machine

/-- What an access does with its bytes. -/
inductive AccKind | load | store | rmw
  deriving DecidableEq, Repr

/-- Bytes one lane touches at one address; a group-wide access is lane 0's. -/
structure Piece where
  lane : Nat
  j : Nat
  addr : Int
  len : Nat
  deriving DecidableEq, Repr

/-- Where a piece lies once translated: segments of a page each, lowest first. Tier 3 stands for scratchpad. -/
structure Seg where
  tier : Nat
  place : Nat
  pa : Nat
  len : Nat
  pte : Nat := 0
  deriving DecidableEq, Repr

/-! ## The plumb stage (R70 to R74) -/

/-- The verdict cache holds a matching entry: it moves to the front (R74). -/
def verdictHit (g : Group) (v : Verdict) : Bool := g.verdicts.contains v
def useVerdict (g : Group) (v : Verdict) : Group := { g with verdicts := (v :: g.verdicts.filter (· != v)).take 16 }

/-- An out-of-range element under the bounds modes: nothing for trap, an index or a mask otherwise (R71 to R73). -/
def resolve (bm ext : Nat) (idx : Int) : Option (Option Nat) :=
  if 0 ≤ idx ∧ idx < ext then some (some idx.toNat)
  else match bm with
    | 0 => none
    | 1 => some none
    | 2 => if ext = 0 then some none else some (some (if idx < 0 then 0 else ext - 1))
    | _ => if ext = 0 then some none else some (some (idx % ext).toNat)

/-- The plumb stage's answer: element indices by lane and j (nothing for a masked one), or the bounds trap; and the group with
its verdict cache. `discharged` indices are used as computed. -/
def plumb (x : Env) (r : Rec) (recNo idxCode : Nat) (offset : Int) (n : Nat) (who : List Nat) (value : Nat → Word)
    (forceTrap : Bool) (ext : Nat := extent r) : Option (List (Nat × Nat × Option Int)) × Group :=
  let v : Verdict := ⟨x.g.level, x.f.pc, recNo, idxCode, offset⟩
  let iv := view x.g x.f idxCode
  let inside := fun (i : Iv) => 0 ≤ i.lo + offset ∧ i.hi + offset + n - 1 ≤ (ext : Int) - 1
  let sh := shadow x.g idxCode
  let g := if verdictHit x.g v || (sh.pin && decide (inside sh.iv)) then useVerdict x.g v else x.g
  let discharged := who = [] ∨ verdictHit x.g v ∨ inside iv
  let raw := who.flatMap fun l => (List.range n).map fun j => (l, j, sgn (value l) + offset + Int.ofNat j)
  if discharged then (some (raw.map fun (l, j, i) => (l, j, some i)), g)
  else
    let bm := if forceTrap then 0 else bmode r
    let out := raw.map fun (l, j, i) => (l, j, resolve bm ext i)
    if out.any fun (_, _, o) => o.isNone then (none, g)
    else (some (out.map fun (l, j, o) => (l, j, (o.getD none).map Int.ofNat)), g)

/-- The exact byte address of element `i` of a record (R82, R84): a discharged index outside the record keeps its exact address. -/
def elemAt (r : Rec) (i : Int) : Int :=
  if 0 ≤ i then (elemAddr r i.toNat : Int) else if isTile r then -1 else (lBase r : Int) + i * lStride r

/-! ## Rows 5 to 7 -/

/-- The address space ends here for a record: 2^57, or the block's scratchpad size (R88). -/
def spaceEnd (x : Env) (scratch : Bool) : Nat := if scratch then x.b.spsize else 2 ^ 57
/-- A piece leaves the address range (R88). -/
def outside (x : Env) (scratch : Bool) (p : Piece) : Bool := p.addr < 0 || (spaceEnd x scratch : Int) < p.addr + p.len
/-- A range lock stands against an access (R136). -/
def locked (x : Env) (scratch : Bool) (k : AccKind) (p : Piece) : Bool :=
  (kget {} x.s.cores x.core).locks.any fun l =>
    l.scratch == scratch && (if scratch then l.block == x.g.block else l.part == x.b.part) &&
    p.addr < l.hi && (l.lo : Int) < p.addr + p.len &&
    (match l.role with | .dst => true | .src => k != .load | .matB => k != .load)
/-- A write meets B bytes that a matrix instruction of the group, arrived at a keystone, has still to read: it waits (R133). -/
def unreadB (x : Env) (scratch : Bool) (k : AccKind) (ps : List Piece) : Bool :=
  scratch && k != .load && x.gangs.any fun a => ps.any fun p => p.addr < a.bHi && (a.bLo : Int) < p.addr + p.len
/-- The lowest address among the pieces that satisfy a test. -/
def lowestBad (ps : List Piece) (t : Piece → Bool) : Option Nat :=
  match ps.filter t with
  | [] => none
  | p :: rest => some (rest.foldl (fun a q => min a q.addr) p.addr).toNat

/-! ## Row 8: translation -/

/-- Pages a piece touches. -/
def pagesOf (p : Piece) : List Nat :=
  let a := p.addr.toNat
  if p.len = 0 then [] else if a / 65536 = (a + p.len - 1) / 65536 then [a / 65536] else [a / 65536, (a + p.len - 1) / 65536]
/-- Translate each distinct page once (R90). -/
def translateAll (s : State) (core part : Nat) (lvl : Level) (acc : Acc) : List Nat → List (Nat × Xlate) × State
  | [] => ([], s)
  | v :: vs =>
    let (r, s) := translate s core part lvl acc (v * 65536)
    let (rs, s) := translateAll s core part lvl acc vs
    ((v, r) :: rs, s)
/-- The segments of a piece, once its pages have translated. -/
def segsOf (m : List (Nat × Xlate)) (p : Piece) : List Seg :=
  let a := p.addr.toNat
  (pagesOf p).filterMap fun v =>
    match m.lookup v with
    | some (.ok tier place frame pte) =>
      let lo := max a (v * 65536)
      let hi := min (a + p.len) ((v + 1) * 65536)
      some ⟨tier, place, frame * 65536 + lo % 65536, hi - lo, pte⟩
    | _ => none
/-- The outcome of the piece's pages other than success: the first failing page's. -/
def failOf (m : List (Nat × Xlate)) (p : Piece) : Option Xlate :=
  (pagesOf p).findSome? fun v =>
    match m.lookup v with
    | some (.ok _ _ _ _) => none
    | o => o

/-! ## Row 9: race-watch (R145, R415) -/

/-- Where the state of the sector at an address lies, when its frame is covered, by a table in a frame that the partition owns (R451). -/
def raceState (s : State) (part pa : Nat) : Option Nat :=
  let first := (preg s part 0x218).toNat
  let f := pa / 65536
  let at' := preg2 s part 0x216 + 32768 * (f - first) + 16 * (pa % 65536 / 32)
  if first ≤ f ∧ f < first + (preg s part 0x219).toNat ∧ frameOwner s (at' / 65536) = part then some at' else none
/-- The identity of a group: its core and slot (R365, R415). -/
def groupIdent (k : Nat) : Nat := k / 64 + 1024 * (k % 64)
/-- Whether two groups lie in one instance of a scope (R119). -/
def inScope (s : State) (scope k j : Nat) : Bool :=
  match scope with
  | 0 => k == j
  | 1 => match kfind s.groups k, kfind s.groups j with | some a, some b => a.block == b.block | _, _ => false
  | 2 => dieOf (k / 64) == dieOf (j / 64)
  | _ => true
/-- Sectors of race-watch pages that the segments touch, in device memory. -/
def watched (sg : List Seg) : List Nat :=
  (sg.filter fun g => g.tier == 0 && bitOf g.pte 11).flatMap fun g =>
    (List.range (g.len / 32 + 2)).filterMap fun i => let a := (g.pa / 32 + i) * 32; if a < g.pa + g.len then some a else none
/-- An access of scope `sc` (0 for a plain one) to a sector races. -/
def races (x : Env) (sc : Nat) (a : Nat) : Bool :=
  match raceState x.s x.b.part a with
  | none => false
  | some at' =>
    let stamp := read8 x.s at'
    let who := leVal (mreads x.s.mem (at' + 8) 2)
    let scope := (mget x.s.mem (at' + 10)).toNat
    let j := 64 * (who % 1024) + who / 1024 % 64
    let strong := sc != 0 && scope != 0 && inScope x.s sc x.k j && inScope x.s scope j x.k
    stamp != 0 && who != groupIdent x.k && !strong && x.g.acqStamp < stamp
/-- The race-log record of an access (R365). -/
def raceRecord (x : Env) (k : AccKind) (va a : Nat) : List Byte :=
  let at' := (raceState x.s x.b.part a).getD 0
  let who := leVal (mreads x.s.mem (at' + 8) 2)
  leOut 8 (read8 x.s at') ++ leOut 8 va ++ leOut 4 (groupIdent x.k) ++ leOut 4 who ++
  leOut 1 (match k with | .load => 0 | .store => 1 | .rmw => 2) ++ [mget x.s.mem (at' + 10)] ++ List.replicate 6 0
/-- A write leaves its stamp, writer and scope in every sector it touches (R145, R415). -/
def raceMark (s : State) (part k sc : Nat) (sectors : List Nat) : State :=
  sectors.foldl (fun s a =>
    match raceState s part a with
    | none => s
    | some at' => { s with mem := mwrites s.mem at' (leOut 8 (stampNow s) ++ leOut 2 (groupIdent k) ++ leOut 1 sc ++ List.replicate 5 0) }) s

/-! ## Row 10: data -/

/-- Segment bytes as a read returns them. -/
def segRead (x : Env) (g : Seg) : List Byte := if g.tier = 3 then mreads x.b.scratch g.pa g.len else physRead x.s g.tier g.pa g.len
def pieceRead (x : Env) (sg : List Seg) : List Byte := sg.flatMap (segRead x)
/-- The cause of a data error in a segment: 1 for an uncorrectable error, 0 for a marker (R96, R410, R419). -/
def segError (x : Env) (g : Seg) : Option Nat :=
  if g.tier = 3 then
    (if x.b.spErrors.any fun w => g.pa / 8 ≤ w && w ≤ (g.pa + g.len - 1) / 8 then some 1 else none)
  else if g.tier = 0 then
    let blocks := (List.range (g.len / 64 + 2)).map fun i => g.pa / 64 + i
    let touched := fun (l : List Nat) => blocks.any fun b => 64 * b < g.pa + g.len && l.contains b
    if touched x.s.badBlocks then some 1 else if touched x.s.poison then some 0 else none
  else if (List.range g.len).any fun i => badByte x.s g.tier (g.pa + i) then some 0
  else none

/-- Scratchpad words that hold a single-bit error and a byte of some spans, as address and length. -/
def singlesIn (b : Block) (spans : List (Nat × Nat)) : List Nat :=
  b.spSingles.filter fun w => spans.any fun (a, n) => a < 8 * w + 8 && 8 * w < a + n
/-- A read of scratchpad bytes corrects and counts the single-bit errors of its words (R96). -/
def Env.scrub (x : Env) (spans : List (Nat × Nat)) : Env :=
  let ws := singlesIn x.b spans
  if ws = [] then x else { x with s := corrected x.s x.core ws.length, b := { x.b with spSingles := x.b.spSingles.filter fun w => !ws.contains w } }
/-- The same of a block. -/
def scrubbed (s : State) (block : Nat) (spans : List (Nat × Nat)) : State :=
  match kfind s.blocks block with
  | none => s
  | some b =>
    let ws := singlesIn b spans
    if ws = [] then s
    else corrected { s with blocks := kput s.blocks block { b with spSingles := b.spSingles.filter fun w => !ws.contains w } } b.core ws.length

/-! ## The whole check -/

/-- A checked access: the state and group as the checks leave them, each piece's segments, the lanes left unfinished with the
trap they raise, and the lanes parked with their PTE. -/
structure Checked where
  x : Env
  segs : List (Piece × List Seg)
  failed : Mask := 0
  trap : Option Trap := none
  parked : Mask := 0
  pte : Nat := 0

/-- A trap of the instruction before any effect. -/
def memTrap (x : Env) (code cause addr : Nat) (detail : Word := 0) : State :=
  takeTrap x { code := code, cause := cause, pc := x.f.pc, mask := x.f.exec, addr := addr, detail := detail, next := x.f.pc + 4 }

/-- Mask of the lanes of pieces that satisfy a test. -/
def lanesWith (ps : List Piece) (t : Piece → Bool) : Mask := ps.foldl (fun m p => if t p then m ||| lane1 p.lane else m) 0

/-- The lanes in whose program order a piece stands: its own, or for a group-wide access every lane of exec (R122). -/
def Env.lanesFor (x : Env) (wide : Bool) (l : Nat) : Mask := if wide then x.f.exec else lane1 l
/-- The scope at which the fences before it make a write of some lanes a release, 0 for none (R124). -/
def fenceScope (g : Group) (m : Mask) : Nat := g.relFence.foldl (fun n q => if q.1 &&& m = 0 then n else max n q.2.1) 0
/-- A write of lines that hold entries of the page tables waits while an access through an entry of theirs is still under way: a request to a
peer, or an access whose completion point has not come. The entry is acknowledged, and the write seen, only after it (R399). -/
def pteHeld (s : State) (lines : List Nat) : Bool :=
  (s.dies.flatMap fun d => d.2.tlb.filter fun t => t.path.any fun a => lines.contains (a / 128)).any fun t =>
    let within := fun (a : Nat) => bits t.pte 51 16 ≤ a / 65536 % 2 ^ 36 && a / 65536 % 2 ^ 36 < bits t.pte 51 16 + (if t.big then 8192 else 1)
    s.remotes.any (fun r => r.2.part == t.part && r.2.type ≤ 3 && bits t.pte 7 6 == 2 && r.2.dst == bits t.pte 63 52 && within r.2.pa) ||
    s.ops.any fun o => o.part == t.part && o.touched.any fun k => k / 2 ^ 60 != 2 && bits t.pte 7 6 == k / 2 ^ 60 && within (k % 2 ^ 60)
/-- Lines of device memory that some segments touch. -/
def segLines (sg : List Seg) : List Nat := ((sg.filter fun g => g.tier == 0 && g.len != 0).flatMap fun g => [g.pa / 128, (g.pa + g.len - 1) / 128]).eraseDups
/-- Rows 5 to 10 for the pieces of an access. `sc` is the scope of an ordered access or read-modify-write, 0 for a plain one, which the
fences before a write may widen; `data` tells whether data returns, and `wide` whether the access is group-wide. Answers a trap before any
effect, or the checked access. DESIGN CHOICE (log 128): where row 8 fails in some lanes and a lane that passed it races, the race trap is raised, before
any lane completes. -/
def check (x : Env) (scratch : Bool) (k : AccKind) (sc align : Nat) (data : Bool) (ps : List Piece) (wide : Bool := false) : Sum State Checked :=
  match lowestBad ps (outside x scratch) with
  | some a => .inl (memTrap x 6 2 a)
  | none =>
    match lowestBad ps (fun p => p.addr.toNat % align != 0) with
    | some a => .inl (memTrap x 9 0 a)
    | none =>
      match lowestBad ps (locked x scratch k) with
      | some a => .inl (memTrap x 8 0 a)
      | none =>
        if unreadB x scratch k ps then .inl (stall x)
        else if scratch then
          let sg := ps.map fun p => (p, [(⟨3, 0, p.addr.toNat, p.len, 0⟩ : Seg)])
          let bad := if data then sg.filterMap fun (p, g) => (g.findSome? (segError x)).map fun c => (p, c) else []
          let m := lanesWith (bad.map (·.1)) fun _ => true
          let x := if data then x.scrub (ps.map fun p => (p.addr.toNat, p.len)) else x
          match bad with
          | [] => .inr { x := x, segs := sg }
          | _ :: _ =>
            let a := (lowestBad (bad.map (·.1)) fun _ => true).getD 0
            .inr { x := x, segs := sg, failed := m, trap := some { code := 7, cause := 1, pc := x.f.pc, addr := a } }
        else
          let pages := (ps.flatMap pagesOf).eraseDups
          let (tr, s) := translateAll x.s x.core x.b.part x.g.level (if k = .load then .read else .write) pages
          let x := { x with s := s }
          let fails := ps.filterMap fun p => match failOf tr p with | some (.trap c u) => some (p, c, u) | _ => none
          let parks := ps.filterMap fun p => match failOf tr p with | some (.park a) => some (p, a) | _ => none
          let out := lanesWith (fails.map (·.1)) (fun _ => true)
          let parked := lanesWith (parks.map (·.1)) (fun _ => true) &&& ~~~out
          let sg := (ps.filter fun p => !inMask (out ||| parked) p.lane).map fun p => (p, segsOf tr p)
          let racing := if x.b.rwatch then sg.filterMap fun (p, g) => ((watched g).find? (races x (if k = .load then sc else max sc (fenceScope x.g (x.lanesFor wide p.lane))))).map fun a => (p, a) else []
          let uncovered := sg.any fun (_, g) => (watched g).any fun a => (raceState x.s x.b.part a).isNone
          let x := if uncovered then { x with s := setFault x.s x.b.part 4 } else x
          let log := bitOf (preg x.s x.b.part 0x20).toNat 0
          if k != .load && pteHeld x.s (sg.flatMap fun q => segLines q.2) then .inl (stall x)
          else if racing != [] && !log then .inl (memTrap x 0x11 0 ((lowestBad (racing.map (·.1)) fun _ => true).getD 0))
          else
            let s := if log then racing.foldl (fun s (p, a) => logAppend s x.b.part 0x34 (raceRecord x k p.addr.toNat a)) x.s else x.s
            let x := { x with s := s }
            let bad := if data then sg.filterMap fun (p, g) => (g.findSome? (segError x)).map fun c => (p, c) else []
            let err := lanesWith (bad.map (·.1)) fun _ => true
            let t : Option Trap :=
              match fails with
              | (p, c, u) :: rest =>
                let (q, c, u) := rest.foldl (fun b f => if f.1.addr < b.1.addr then f else b) (p, c, u)
                some { code := c, cause := u, pc := x.f.pc, addr := q.addr.toNat }
              | [] =>
                match bad with
                | (p, c) :: rest =>
                  let (q, c) := rest.foldl (fun b f => if f.1.addr < b.1.addr then f else b) (p, c)
                  some { code := 7, cause := c, pc := x.f.pc, addr := q.addr.toNat }
                | [] => none
            .inr { x := x, segs := sg, failed := out ||| err, trap := t, parked := parked, pte := (parks.head?.map (·.2)).getD 0 }

/-- The pieces that completed, with their segments. -/
def Checked.done (c : Checked) : List (Piece × List Seg) := c.segs.filter fun q => !inMask (c.failed ||| c.parked) q.1.lane

/-! ## Footprints (R75, R414) -/

/-- Sample a footprint when its turn has come: one in 2^k of the core's. A full or unset ring drops the record; so does one whose page is
migrating (log 82). -/
def footprint (s : State) (core part : Nat) (va len kind pte : Nat) : State :=
  let k := wbits (preg s part 0x215) 11 8
  let n := (kget {} s.cores core).footprints
  let s := modCore s core fun c => { c with footprints := n + 1 }
  if k = 15 ∨ n % 2 ^ k ≠ 0 then s
  else
    let base := preg2 s part 0x213
    let cap := wbits (preg s part 0x215) 4 0
    let got := deviceRead s part base 8
    let s := markRead s part base 8
    match got with
    | none => setFault s part 6
    | some hd =>
      let head := leAt hd 0 4
      let tail := leAt hd 4 4
      if cap < 4 ∨ 20 < cap ∨ 2 ^ cap ≤ (tail + 2 ^ 32 - head) % 2 ^ 32 then setFault s part 6
      else
        let r := leOut 8 va ++ leOut 4 (min len 0xFFFFFFFF) ++ leOut 2 core ++ leOut 1 kind ++ leOut 1 (bits pte 55 52) ++
          leOut 6 (stampNow s) ++ List.replicate 10 0
        match deviceWrite s part (base + 64 + 32 * (tail % 2 ^ cap)) r with
        | none => setFault s part 6
        | some s => (releasePut s part (base + 4) (leOut 4 (tail + 1))).getD (setFault s part 6)

/-! ## Registers of an element (R217, R218) -/

/-- Registers per element of a size in bytes. -/
def regsPer (e : Nat) : Nat := if e ≤ 4 then 1 else e / 4
/-- The register codes of N elements of e bytes from a first register: alignment, and the end of the file or of the allotment
(R217). The zero register names zero in every place. -/
def fitCodes (g : Group) (code e n : Nat) : Option (List Nat) :=
  let r := regsPer e
  let count := n * r
  if code = 127 then some (List.replicate count 127)
  else
    let cs := (List.range count).map (code + ·)
    let num := if code ≤ 95 then code else code - 128
    let room := if code ≤ 95 then code + count ≤ 96 && cs.tail.all (nameable g) else num + count ≤ 64
    if num % r == 0 && room then some cs else none
/-- The value of a register code in a lane (R359). -/
def codeVal (g : Group) (c l : Nat) : Word := if c ≤ 95 then vreg g c l else if c = 127 then 0 else greg g (c - 128)
/-- The words a loaded element puts in its registers (R217, R218): sign-extended through an INT8 tile. -/
def loadWords (bs : List Byte) (signed8 : Bool) : List Word :=
  match bs.length with
  | 1 => let v := leVal bs; [if signed8 && 128 ≤ v then word (v + 0xFFFFFF00) else word v]
  | 2 => [word (leVal bs)]
  | _ => (List.range (bs.length / 4)).map fun i => word (leAt bs (4 * i) 4)
/-- Whether loads through a record sign-extend bytes (R218). -/
def signed8 (r : Rec) : Bool := isTile r && tEfmt r == 4

end Sys2Proof.Machine
end

