-- ==== Sys2Proof/Machine/Tasks.lean ====
section
/-!
DEFINITION. What task records pass through: nodes, bins and overflow rings, quarries with their spill rings, and cairns; and
what a write accepted at its home slice sets off (R287 to R291, R296, R300, R306 to R310, R398, R401, R407).
-/
namespace Sys2Proof.Machine

/-! ## Partition words (R50 to R52) -/

/-- A partition word; zero stands for the default (R50). -/
def pwordOf (w : Nat) : Nat := if w = 0 then 0x00408610 else w
def pRfg (w : Nat) : Nat := bits (pwordOf w) 5 0
def pSpg (w : Nat) : Nat := bits (pwordOf w) 11 6
def pAccg (w : Nat) : Nat := bits (pwordOf w) 17 12
def pAcch (w : Nat) : Nat := bits (pwordOf w) 24 18
/-- Validity (R51). -/
def validPword (w : Nat) : Bool :=
  bits (pwordOf w) 31 25 == 0 && pAcch w ≤ 64 && 2 ≤ pAccg w && pAccg w ≤ 16 && pSpg w ≤ 32 && 4 ≤ pRfg w && pRfg w ≤ 46 &&
  pRfg w + pSpg w + pAccg w == 48
/-- Blocks of given needs fit an empty core of a division (R52): register KiB, scratchpad bytes, accumulator KiB. -/
def fitsDivision (w regs sp acc : Nat) : Bool := regs ≤ 64 * pRfg w && sp ≤ 65536 * pSpg w && acc ≤ 64 * pAccg w

/-! ## Nodes (R288, R377) -/

def nUnits (d : List Byte) : Nat := bits (leAt d 26 1) 3 0
def nRole (d : List Byte) : Nat := bits (leAt d 26 1) 5 4
def nPri (d : List Byte) : Nat := bits (leAt d 26 1) 7 6
def nCoal (d : List Byte) : Nat := bits (leAt d 27 1) 5 0
def nTimer (d : List Byte) : Nat := leAt d 28 2
def nRootset (d : List Byte) : Nat := leAt d 30 2
def nIfmt (d : List Byte) : Nat := leAt d 32 4 % 2048
def nHbin (d : List Byte) : Bool := bitOf (leAt d 36 4) 2
def nRwatch (d : List Byte) : Bool := bitOf (leAt d 36 4) 1
def nRing (d : List Byte) : Nat := leAt d 40 8
def nRingcap (d : List Byte) : Nat := leAt d 48 4
def nSpneed (d : List Byte) : Nat := 1024 * leAt d 24 2
def nPword (d : List Byte) : Nat := leAt d 20 4
/-- A power of two between two others. -/
def powerIn (n lo hi : Nat) : Bool := (List.range (hi + 1)).any fun i => lo ≤ i && n == 2 ^ i
/-- Validity of a node descriptor (R288). -/
def validNode (d : List Byte) : Bool :=
  bitOf (leAt d 36 4) 0 && bits (leAt d 36 4) 31 3 == 0 && leAt d 52 12 == 0 && powerIn (nRingcap d) 4 20 && nRing d % 64 == 0 &&
  1 ≤ nCoal d && nCoal d ≤ 32 && 1 ≤ nUnits d && nUnits d ≤ 12 && validPword (nPword d) &&
  fitsDivision (nPword d) (nUnits d + 4) (nSpneed d) (4 * pAcch (nPword d))
/-- A node's descriptor from the partition's table, when valid. -/
def readNode (s : State) (p node : Nat) : Option (List Byte) :=
  if (preg s p 0x202).toNat ≤ node then none
  else match deviceRead s p (preg2 s p 0x200 + 64 * node) 64 with
    | some d => if validNode d then some d else none
    | none => none

/-- A node's entry of the table lies on a migrating page: what needs it waits (R395, R401). -/
def nodeWaits (s : State) (p node : Nat) : Bool :=
  node < (preg s p 0x202).toNat && deviceWaits s p .read (preg2 s p 0x200 + 64 * node) 64

/-- A die holds a core pair of the partition (R290). -/
def ownsDie (s : State) (p d : Nat) : Bool := (List.range 32).any fun i => bitOf (kget 0 s.mgmt.mcpair (32 * d + i)) p
/-- A node's home die (R291). -/
def homeDie (s : State) (p node : Nat) : Nat :=
  (((List.range 8).map fun i => (node + i) % 8).find? (ownsDie s p)).getD (node % 8)

/-! ## Task records as bytes (R287) -/

def recFlags (r : TaskRec) : Nat := r.scope % 4 + 4 * b2n r.jn + 8 * (r.origin % 8) + 64 * (r.pri % 4)
def recBytes (r : TaskRec) : List Byte :=
  leOut 2 r.node ++ leOut 2 (recFlags r) ++ leOut 8 (r.join % 2 ^ 57) ++
  ((r.args ++ List.replicate 12 0).take 12).flatMap (fun (w : Word) => leOut 4 w.toNat) ++ List.replicate 4 0
def recOf (b : List Byte) : TaskRec :=
  let f := leAt b 2 2
  { node := leAt b 0 2, scope := bits f 1 0, jn := bitOf f 2, origin := bits f 5 3, pri := bits f 7 6, join := leAt b 4 8 % 2 ^ 57
    args := (List.range 12).map fun i => word (leAt b (12 + 4 * i) 4) }

/-! ## Bins and rings (R289, R290) -/

def binKey (p node : Nat) : Nat := p * 65536 + node
def binAt (s : State) (die p node : Nat) : Bin := kget {} (kget {} s.dies die).bins (binKey p node)
def setBin (s : State) (die p node : Nat) (b : Bin) : State :=
  modDie s die fun d => { d with bins := if b.recs = [] ∧ !b.hw ∧ b.ring = [] then kdel d.bins (binKey p node) else kput d.bins (binKey p node) b }
/-- The descriptor in force for a node's records: the one kept with a bin that holds records, or the table's (R377); none for a number
at or beyond the table's size (R310). -/
def nodeFor (s : State) (die p node : Nat) : Option (List Byte) :=
  let b := binAt s die p node
  if (preg s p 0x202).toNat ≤ node then none else if b.recs != [] then some b.desc else readNode s p node
/-- It must be read, and its page is migrating. -/
def nodeHeld (s : State) (die p node : Nat) : Bool := (binAt s die p node).recs == [] && nodeWaits s p node
/-- Hold a hardware bin for a node, assigning a free one (R290). -/
def takeHw (s : State) (die p node : Nat) (desc : List Byte) : Bool × State :=
  let b := binAt s die p node
  let all := (kget ({} : Die) s.dies die).bins.map (·.2)
  if b.hw then (true, s)
  else if 512 ≤ (all.filter (·.hw)).length then (false, s)
  else
    let room := (all.filter fun q => q.hw && q.hold).length < 256
    let s := if nHbin desc && !room then setFault s p 7 else s
    (true, setBin s die p node { b with hw := true, hold := nHbin desc && room, desc := desc })
/-- The priority of a bin's group: twice the lowest class (R383). -/
def binPri (b : Bin) : Nat := 2 * b.recs.foldl (fun m r => min m r.pri) (nPri b.desc)
/-- A bin becomes ready when it holds coal records, or its timer has run (R289). -/
def binReady (s : State) (die p node : Nat) : State :=
  let b := binAt s die p node
  if b.ready || b.recs == [] then s
  else if nCoal b.desc ≤ b.recs.length ∨ b.since + 64 * nTimer b.desc ≤ s.clock then
    let s := setBin s die p node { b with ready := true }
    modDie s die fun d => { d with waiting := d.waiting ++ [.bin p node (binPri b)] }
  else s
/-- Two items of a distributor's list are one piece of work, whatever their priorities. -/
def Waiting.same : Waiting → Waiting → Bool
  | .launch a _, .launch b _ => a == b
  | .bin p n _, .bin q m _ => p == q && n == m
  | .saved a _, .saved b _ => a == b
  | _, _ => false
/-- A record enters its bin; a ready bin's work waits at the class its records now give it (R383). -/
def enterBin (s : State) (die p node : Nat) (desc : List Byte) (r : TaskRec) : State :=
  let b := binAt s die p node
  let b := if b.recs = [] then { b with since := s.clock, desc := desc } else b
  let b := { b with recs := b.recs ++ [r] }
  let s := setBin s die p node b
  if b.ready then
    let w : Waiting := .bin p node (binPri b)
    modDie s die fun d => { d with waiting := d.waiting.map fun v => if v.same w then w else v }
  else binReady s die p node
/-- A record is appended to the node's ring, or finds it full. -/
def enterRing (s : State) (p node : Nat) (desc : List Byte) (r : TaskRec) : Option State :=
  let h := homeDie s p node
  let b := binAt s h p node
  if nRingcap desc ≤ b.ring.length then none
  else
    let s := (devicePut s p (nRing desc + 64 * (b.ringNext % nRingcap desc)) (recBytes r)).getD s
    some (setBin { s with fresh := s.fresh + 1 } h p node
      { b with ring := b.ring ++ [(s.fresh, r)], ringNext := b.ringNext + 1, desc := if b.recs = [] then desc else b.desc })
/-- The state after the walk that reads a node's descriptor; a bin that holds records keeps its own (R377, R396). -/
def nodeRead (s : State) (p node : Nat) : State := markRead s p (preg2 s p 0x200 + 64 * node) 64
def nodeWalk (s : State) (p die node : Nat) : State :=
  if (binAt s die p node).recs = [] ∧ node < (preg s p 0x202).toNat then nodeRead s p node else s
/-- Place a record on a die: its bin, or the ring while the ring holds records or the bin cannot take it (R289). -/
def placeRec (s : State) (p die : Nat) (desc : List Byte) (r : TaskRec) : Option State :=
  let s := nodeWalk s p die r.node
  let h := homeDie s p r.node
  if (binAt s h p r.node).ring != [] then enterRing s p r.node desc r
  else
    let (ok, s) := takeHw s die p r.node desc
    if ok && (binAt s die p r.node).recs.length < 32 then some (enterBin s die p r.node desc r) else enterRing s p r.node desc r
/-- Place records in order; none when one finds no room. -/
def placeAll (s : State) (p die : Nat) (desc : List Byte) : List TaskRec → Option State
  | [] => some s
  | r :: rs => match placeRec s p die desc r with | some s => placeAll s p die desc rs | none => none
/-- The node that a free hardware bin of a die is due: of those without one whose records wait in their rings there, the node whose oldest
ring record arrived first (R290); a node that cannot be read is passed over, since its records cannot move (log 83). -/
def longestWait (s : State) (die : Nat) : Option Nat :=
  (((kget ({} : Die) s.dies die).bins.filter fun x =>
    x.2.ring != [] && !x.2.hw && (nodeFor s die (x.1 / 65536) (x.1 % 65536)).isSome).foldl (fun (m : Option (Nat × Nat)) x =>
    match x.2.ring.head?, m with
    | some (t, _), some (u, _) => if t < u then some (t, x.1) else m
    | some (t, _), none => some (t, x.1)
    | none, _ => m) none).map (·.2)
/-- The home die moves ring records into the bin while it has room (R289), with the descriptor read as a record first enters the bin
(R377). A record whose node cannot be read then waits in its ring (log 83). -/
def drainRing : Nat → State → Nat → Nat → State
  | 0, s, _, _ => s
  | n + 1, s, p, node =>
    let h := homeDie s p node
    let b := binAt s h p node
    match b.ring, nodeFor s h p node with
    | (_, r) :: rest, some desc =>
      if !b.hw && longestWait s h != some (binKey p node) then s
      else
        let (ok, s) := takeHw (nodeWalk s p h node) h p node desc
        let b := binAt s h p node
        if ok && b.recs.length < 32 then
          drainRing n (enterBin (setBin s h p node { b with ring := rest }) h p node desc r) p node
        else s
    | _ :: _, none => nodeWalk s p h node
    | [], _ => s
/-- Free hardware bins go to the nodes that wait for one (R290). -/
def assignBins : Nat → State → Nat → State
  | 0, s, _ => s
  | n + 1, s, die =>
    match longestWait s die with
    | none => s
    | some k =>
      let s := drainRing 32 s (k / 65536) (k % 65536)
      if (binAt s die (k / 65536) (k % 65536)).hw then assignBins n s die else s
/-- Release a hardware bin that holds no record and awaits no placement, and give it to the node that has waited longest
in its ring (R290). -/
def releaseHw (s : State) (die p node : Nat) : State :=
  let b := binAt s die p node
  if b.hw && b.recs == [] && !b.ready && !b.hold then assignBins 1 (setBin s die p node { b with hw := false }) die else s

/-! ## Quarries (R294, R296, R366) -/

def frameSize (f : Frame) : Nat := 64 + 48 * f.recs.length
def frameBytes (f : Frame) : List Byte :=
  let r := f.recs.headD { node := 0 }
  leOut 2 r.node ++ leOut 2 (if f.cont then 0 else recFlags r) ++ leOut 8 (if f.cont then f.ctr else r.join) ++
  leOut 4 (f.core % 1024 + 1024 * (f.gslot % 64) + 65536 * (f.part % 64)) ++
  leOut 8 (f.recs.length + 64 * (f.slot % 64) + 4096 * b2n f.transit + 8192 * b2n f.cont) ++ List.replicate 40 0 ++
  f.recs.flatMap fun q => ((q.args ++ List.replicate 12 0).take 12).flatMap fun (w : Word) => leOut 4 w.toNat
def parseFrame (b : List Byte) : Frame :=
  let w := leAt b 16 8
  let cont := bitOf w 13
  let base := recOf (b.take 12 ++ List.replicate 52 0)
  { recs := if cont then [] else (List.range (bits w 5 0)).map fun i =>
      { base with args := (List.range 12).map fun j => word (leAt b (64 + 48 * i + 4 * j) 4) }
    cont := cont, transit := bitOf w 12, slot := bits w 11 6, ctr := if cont then leAt b 4 8 else 0
    core := leAt b 12 4 % 1024, gslot := bits (leAt b 12 4) 15 10, part := bits (leAt b 12 4) 21 16 }

/-- Base and capacity of a core's spill ring in a partition; capacity 0 for none (R366). -/
def spillRing (s : State) (core p : Nat) : Nat × Nat :=
  match deviceRead s p (preg2 s p 0x30 + 16 * core) 16 with
  | some b => (leAt b 0 8, leAt b 8 4)
  | none => (0, 0)
/-- Bytes of a ring from an offset, wrapping at its capacity. -/
def ringRead (s : State) (p base cap off : Nat) : Nat → List Byte
  | 0 => []
  | n + 1 => ((deviceRead s p (base + off % cap) 1).getD [0]).headD 0 :: ringRead s p base cap (off + 1) n
def ringWrite (s : State) (p base cap off : Nat) : List Byte → Option State
  | [] => some s
  | b :: bs => match deviceWrite s p (base + off % cap) [b] with | some s => ringWrite s p base cap (off + 1) bs | none => none
/-- The release stamp of a frame's records, or of its continuation (R138, R139), and the frame with it. -/
def frameStamp (f : Frame) : Nat := f.recs.foldl (fun m r => max m r.stamp) f.stamp
def stampFrame (f : Frame) (t : Nat) : Frame := { f with stamp := if f.cont then t else f.stamp, recs := f.recs.map fun r => { r with stamp := t } }
/-- Frames of a spill ring, oldest first. -/
def ringFrames (s : State) (p base cap : Nat) : Nat → Nat → Nat → List Frame
  | 0, _, _ => []
  | n + 1, head, tail =>
    if tail ≤ head ∨ cap = 0 then []
    else
      let hd := ringRead s p base cap head 64
      let size := 64 + 48 * bits (leAt hd 16 8) 5 0
      parseFrame (ringRead s p base cap head size) :: ringFrames s p base cap n (head + size) tail
def spilled (s : State) (core p : Nat) : List Frame :=
  let c := kget ({} : Core) s.cores core
  if kget 0 c.ringHead p = kget 0 c.ringTail p then []
  else if (kfind c.ringKept p).isSome then kget [] c.ringKept p
  else
    let (base, cap) := spillRing s core p
    let ts := kget [] c.ringStamps p
    (ringFrames s p base cap (cap / 64) (kget 0 c.ringHead p) (kget 0 c.ringTail p)).zipIdx.map fun (f, i) => stampFrame f (ts.getD i 0)
/-- The core's ring table or its ring lies on a migrating page. -/
def ringWaits (s : State) (core p : Nat) : Bool :=
  deviceWaits s p .read (preg2 s p 0x30 + 16 * core) 16 ||
  (let (base, cap) := spillRing s core p; cap != 0 && deviceWaits s p .write base cap)
/-- The core's ring table, or a page of its ring, lies on a peer: the device keeps the frames it has moved there, which come back whole
(R366, log 119). -/
def ringRemote (s : State) (core p : Nat) : Bool :=
  let far := fun (acc : Acc) (va n : Nat) => (pageStarts va n).any fun a => match deviceAddr s p acc a with | some (2, _) => true | _ => false
  far .read (preg2 s p 0x30 + 16 * core) 16 || (let (base, cap) := spillRing s core p; cap != 0 && far .write base cap)
/-- Rewrite a core's spill ring from its head; none when it lacks room or its pages cannot be written. -/
def storeSpilled (s : State) (core p : Nat) (fs : List Frame) : Option State :=
  let (base, cap) := spillRing s core p
  let head := kget 0 (kget ({} : Core) s.cores core).ringHead p
  let bytes := fs.flatMap frameBytes
  if cap < bytes.length then none
  else match ringWrite s p base cap head bytes with
    | some s =>
      let s := markRead (markRead s p (preg2 s p 0x30 + 16 * core) 16) p base cap
      let far := ringRemote s core p
      some (modCore s core fun c => { c with ringTail := kput c.ringTail p (head + bytes.length), ringStamps := kput c.ringStamps p (fs.map frameStamp)
                                             ringKept := if far then kput c.ringKept p fs else kdel c.ringKept p })
    | none => none
/-- Bytes of frames in the SRAM. -/
def sramUse (s : State) (core : Nat) : Nat := ((kget ({} : Core) s.cores core).quarry.map frameSize).sum
/-- Move the oldest frames to the newest end of the spill ring until a size fits the 32 KiB (R296). -/
def makeRoom : Nat → State → Nat → Nat → Option State
  | 0, s, _, _ => some s
  | n + 1, s, core, need =>
    if sramUse s core + need ≤ 32768 then some s
    else match (kget ({} : Core) s.cores core).quarry with
      | [] => some s
      | f :: rest =>
        match storeSpilled s core f.part (spilled s core f.part ++ [f]) with
        | none => none
        | some s => makeRoom n (modCore s core fun c => { c with quarry := rest }) core need
/-- A push must spill frames, and the ring is migrating. -/
def pushWaits (s : State) (core : Nat) (f : Frame) : Bool :=
  32768 < sramUse s core + frameSize f && ((kget ({} : Core) s.cores core).quarry.any fun q => ringWaits s core q.part)
/-- Push a frame as the newest; none when the spill ring lacks room. -/
def pushFrame (s : State) (core : Nat) (f : Frame) : Option State :=
  match makeRoom 600 s core (frameSize f) with
  | none => none
  | some s => some (modCore s core fun c => { c with quarry := c.quarry ++ [f] })

/-! ## What a write sets off -/

/-- A group's acquire meets a release: it takes the release's stamp when the two are strong (R123, R124, R145). -/
def strong (k : Nat) (g : Group) (sc : Nat) (m : RelMark) : Bool :=
  let reach := fun (l : Nat) => match l with | 0 => k == m.group | 1 => g.block == m.block | 2 => dieOf (k / 64) == dieOf (m.group / 64) | _ => true
  reach sc && reach m.scope
def acquire (k sc : Nat) (m : RelMark) (g : Group) : Group :=
  if strong k g sc m then { g with acqStamp := max g.acqStamp m.stamp } else g
/-- The same for every release that still stands beside a location: a value written by a later write that is no read-modify-write ends
them (R124), but for a join (R139). -/
def acquireAll (k sc : Nat) (ms : List RelMark) (g : Group) : Group := (ms.filter fun m => !m.past).foldl (fun g m => acquire k sc m g) g
/-- A group's lanes have read beside some releases: a later fence.acq of a lane makes its reads acquires (R124). -/
def noteMet (m : Mask) (ms : List RelMark) (g : Group) : Group :=
  { g with readMarks := ms.foldl (fun (l : List (Mask × RelMark)) r =>
      if m = 0 ∨ r.past then l
      else if l.any (·.2 == r) then l.map fun q => if q.2 = r then (q.1 ||| m, r) else q else (m, r) :: l) g.readMarks }
/-- The releases that stand beside some bytes. -/
def marksAt (m : KMap (List RelMark)) (keys : List Nat) : List RelMark := (keys.flatMap fun k => kget [] m k).eraseDups
/-- The eight bytes a watch looks at (R213, R281); those of a peer are looked at by packets. -/
def watchWord (s : State) (b : Block) (w : Watch) : Nat :=
  if w.scratch then leVal (mreads b.scratch w.addr 8) else leVal (physRead s w.tier w.addr 8)
/-- A watch's condition holds. -/
def watchHit (s : State) (b : Block) (f : Frag) : Bool :=
  match f.watch, f.wait with
  | some w, .mbar => w.tier != 2 && watchWord s b w / 2 ^ 63 != w.want
  | some w, .cwait => w.tier != 2 && w.want ≤ watchWord s b w
  | _, _ => false
/-- The release marks beside a watched word, and the scope its waiter acquires at. -/
def watchMark (s : State) (b : Block) (f : Frag) : Nat × List RelMark :=
  match f.watch with
  | some w =>
    if w.scratch then (1, marksAt b.marks ((List.range 8).map (w.addr + ·))) else (3, marksAt s.marks ((List.range 8).map fun i => tkey w.tier (w.addr + i)))
  | none => (0, [])
/-- Resume a waiter directly after its instruction, where it must find a clause header. -/
def resume (now : Nat) (f : Frag) : Frag := { f with wait := .none, watch := none, pc := f.pc + 4, arrive := .header, reached := now }
/-- Resume every mbar and cwait waiter whose condition holds (R213, R281). -/
def wakeAll (s : State) : State :=
  l1Acquires { s with groups := kmap (fun k g =>
      let b := kget {} s.blocks g.block
      let hits := (groupFrags g).filter (watchHit s b)
      if hits = [] then g
      else
        let g := hits.foldl (fun g f => let (sc, ms) := watchMark s b f; acquireAll k sc ms (noteMet f.exec ms g)) g
        let up := fun (f : Frag) => if watchHit s b f then resume s.clock f else f
        { g with table := kmap (fun _ f => up f) g.table, spill := g.spill.map up }) s.groups }
    (s.groups.filterMap fun (k, g) => if (groupFrags g).any (watchHit s (kget {} s.blocks g.block)) then some k else none)
/-- The stamp of the releases a join that reads a counter now synchronises with: every one at device or system scope, those too whose value
a later write has replaced (R139). -/
def joinStamp (ms : List RelMark) : Nat := ms.foldl (fun n m => if 3 ≤ m.scope then max n m.stamp else n) 0
/-- The fragment parked in join at a counter whose continuation frame finds no room: it stands at its join again, which takes the task trap
(R366). -/
def crowdOut (s : State) (k tier a : Nat) : State :=
  let mine := fun (f : Frag) => f.wait == .join && f.watch.any fun w => w.tier == tier && w.addr == a
  let up := fun (f : Frag) => if mine f then { f with wait := .none, watch := none, crowded := true } else f
  { s with groups := kmod s.groups k fun g => { g with table := kmap (fun _ f => up f) g.table, spill := g.spill.map up } }
/-- The continuation frame of a group whose counter has come to zero, newest in its core's quarry (R300). A peer's counter is named by the
low 56 bits of its device and address. -/
def contFrame (s : State) (k tier a part stamp : Nat) : State :=
  let f : Frame := { cont := true, slot := k % 64, stamp := stamp, ctr := tier * 2 ^ 56 + a % 2 ^ 56, core := k / 64, gslot := k % 64, part := part }
  (pushFrame s (k / 64) f).getD (crowdOut s k tier a)
/-- A parked join counter that a test names and that stands at zero gives its waiter a continuation frame (R300), with the releases made
until then (R139). -/
def joinsAt (s : State) (test : Nat → Nat → Bool) : State :=
  let hits := s.slices.flatMap fun (n, sl) => sl.waiters.filterMap fun (key, w) =>
    if test (key / 2 ^ 60) (key % 2 ^ 60) && leVal (physRead s (key / 2 ^ 60) (key % 2 ^ 60) 8) = 0 then some (n, key, w) else none
  hits.foldl (fun s (n, key, (k, _)) =>
    let s := modSlice s n fun sl => { sl with waiters := kdel sl.waiters key }
    contFrame s k (key / 2 ^ 60) (key % 2 ^ 60) (kget ({} : Block) s.blocks (kget {} s.groups k).block).part
      (joinStamp (marksAt s.marks ((List.range 8).map (key + ·))))) s
/-- A write of some bytes may leave a counter at zero. -/
def wakeJoins (s : State) (tier : Nat) (as : List Nat) : State := joinsAt s fun t b => t == tier && as.any fun a => b ≤ a && a < b + 8
/-- Waits that a write of the device's own, or a migration, has ended (R213, R281, R300): they end with the clock at the latest. -/
def wakeLate (s : State) : State := joinsAt (wakeAll s) fun _ _ => true
/-- End the parks at pages whose PTE no longer has mig set (R401): the instruction issues again for its unfinished lanes, before any other of
its group. -/
def endParks (s : State) : State :=
  let s := s.parts.foldl (fun s x => if x.2.held = [] then s else flushHeld s x.1) s
  let isOver := fun (a : Nat) => !bitOf (read8 s a) 15
  { s with
    groups := kmap (fun _ g =>
      match g.parked with
      | some p =>
        if isOver p.pte then { g with parked := none, resuming := if (kfind g.table p.entry).isSome then g.resuming.or (some p) else none } else g
      | none => g) s.groups
    blocks := kmap (fun _ b => { b with copies := kmap (fun _ c =>
      match c.migWait with | some a => if isOver a then { c with migWait := none } else c | none => c) b.copies }) s.blocks }
/-- Writes to a migration ring's tail word are doorbells (R407). -/
def doorbells (s : State) (tier : Nat) (as : List Nat) : State :=
  { s with parts := kmap (fun p q =>
      let n := (kget 0 q.regs 0x20F).toNat % 16
      if 4 ≤ n && n ≤ 12 && (List.range 4).any (fun i => match deviceAddr s p .read (preg2 s p 0x20D + 4 + i) with
        | some (t, a) => t == tier && as.contains a | none => false)
      then { q with doorbell := true } else q) s.parts }
/-- Everything an accepted write sets off but cairn counts. -/
def touched (s : State) (tier : Nat) (as : List Nat) : State :=
  let s := if tier = 0 then snoopTlb s as else s
  doorbells (wakeJoins (wakeAll (endParks s)) tier as) tier as

/-! ## Cairns (R306 to R310) -/

/-- Slices of the interleave domain that holds an address (R307, R425). -/
def domSlices (s : State) (pa : Nat) : List Nat :=
  match (List.range 32).find? fun d => domHolds (domWord s d) pa with
  | some d => (List.range (2 ^ domN (domWord s d))).map (domFirst (domWord s d) + ·)
  | none => []
def cairnAt (s : State) (h : Nat) : Option Cairn := kfind (kget ({} : Slice) s.slices (h / 64)).cairns (h % 64)
def setCairn (s : State) (h : Nat) (c : Cairn) : State := modSlice s (h / 64) fun sl => { sl with cairns := kput sl.cairns (h % 64) c }
/-- A dropped action: sfault bit 8, a record in sflog and sfvec signalled (R310). -/
def dropAction (s : State) (h : Nat) (c : Cairn) (cause : Nat) : State :=
  faultLog (setFault s c.part 8) c.part { code := 0x14, cause := cause, addr := if c.write then c.wordVa else 0, detail := word h }
/-- The write action; false while a migrating page holds it (R309, R310). -/
def cairnWrite (s : State) (h : Nat) (c : Cairn) : Bool × State :=
  if 2 ^ 57 < c.wordVa + 8 then (true, dropAction s h c 1)
  else
    let w := walk s c.part c.wordVa
    match judge s c.part .supervisor .write c.wordVa w with
    | .ok tier place frame _ =>
      let s := mark s (w.path.headD 0) .write
      let a := frame * 65536 + c.wordVa % 65536
      let s := { s with marks := writeMarks s.marks ((List.range 8).map fun i => markKey tier place (a + i)) false [agentMark s] }
      if tier = 2 then (true, (putSector s { type := 1, dst := place, part := c.part, pa := a } (cellsAt a (leOut 8 c.value))).2)
      else
        let s := partWrite s c.part tier (cellsAt a (leOut 8 c.value))
        (true, touched s tier ((List.range 8).map (a + ·)))
    | .park _ => (false, s)
    | .trap _ _ => (true, dropAction (if w.malformed then setFault s c.part 2 else s) h c 1)
/-- The post action; false while the ring is full. -/
def cairnPost (s : State) (h : Nat) (c : Cairn) : Bool × State :=
  match c.task with
  | none => (true, s)
  | some r =>
    let die := homeDie s c.part r.node
    if nodeHeld s die c.part r.node then (false, s)
    else match nodeFor s die c.part r.node with
    | none => (true, dropAction (nodeWalk s c.part die r.node) h c 2)
    | some d => match placeRec s c.part die d { r with stamp := stampNow s } with | some s => (true, s) | none => (false, s)
/-- Carry a firing on from what it owes: 1 the write, 2 the post. -/
def carryOn (s : State) (h : Nat) (c : Cairn) (owed : Nat) : State :=
  let (ok, s) := if owed ≤ 1 && c.write then cairnWrite s h c else (true, s)
  let now := fun (s : State) (o : Nat) => match cairnAt s h with | some q => setCairn s h { q with owed := o } | none => s
  if !ok then now s 1
  else if c.post then let (ok, s) := cairnPost s h c; now s (if ok then 0 else 2)
  else now s 0
/-- Fire while the sum reaches the total and nothing is owed (R309). -/
def fireWhile : Nat → State → Nat → State
  | 0, s, _ => s
  | n + 1, s, h =>
    match cairnAt s h with
    | none => s
    | some c =>
      if c.owed = 0 && !c.spent && c.total ≤ c.sum && c.total != 0 then
        let c' := if c.rearm then { c with sum := c.sum - c.total } else { c with spent := true }
        fireWhile n (carryOn (setCairn s h c') h c' 0) h
      else s
/-- Add to a cairn's sum, and fire (R308, R309). -/
def addCount (s : State) (h n : Nat) : State :=
  match cairnAt s h with
  | none => s
  | some c => if c.spent then s else fireWhile (n + 2) (setCairn s h { c with sum := c.sum + n }) h
/-- Count accepted bytes toward the armed cairns whose filters stand at their slices; other slices hold their counts for an
arrival note (R308). -/
def countCairns (s : State) (as : List Nat) : State :=
  if s.slices.all fun x => x.2.filters.isEmpty then s
  else
    let hits := as.filterMap fun a => (homeSlice s a).map fun n => (n, a)
    s.slices.foldl (fun s (n, sl) =>
      sl.filters.foldl (fun s h =>
        match cairnAt s h with
        | none => s
        | some c =>
          let k := (hits.filter fun x => x.1 == n && c.base ≤ x.2 && x.2 < c.base + c.size).length
          if k = 0 then s
          else if h / 64 = n then addCount s h k
          else modSlice s n fun sl => { sl with notes := kput sl.notes h (kget 0 sl.notes h + k) }) s) s
/-- A write accepted at its home slices; plain stores, copies, remote writes and host writes count toward cairns (R308). -/
def accepted (s : State) (tier : Nat) (as : List Nat) (counts : Bool) : State :=
  let s := touched s tier as
  if counts && tier == 0 then countCairns s as else s

end Sys2Proof.Machine
end

