-- ==== Sys2Proof/Machine/Complete.lean ====
section
/-!
DEFINITION. Operations between issue and completion point: flags, pending bits, what a completion point writes, and the traps
and parks that leave lanes unfinished (R40, R44, R45, R60 to R62, R161, R220, R221, R401).
-/
namespace Sys2Proof.Machine

/-! ## Flags (R44, R45) -/

/-- The flag an instruction counts on: the set field its slot selects in the header in force, 15 for none (R151, R155). -/
def flagOf (x : Env) (slot : BitVec 1) : Nat :=
  let v := if slot = 0 then wbits x.f.hword 23 20 else wbits x.f.hword 27 24
  if v < 12 then v else 15
/-- A flag at 63 holds the next increment. -/
def flagFull (x : Env) (slot : BitVec 1) : Bool := flagOf x slot < 12 && kget 0 x.g.flags (flagOf x slot) == 63
def raiseFlag (g : Group) (f : Nat) : Group := if f < 12 then { g with flags := kput g.flags f (kget 0 g.flags f + 1) } else g
def lowerFlag (g : Group) (f : Nat) : Group := if f < 12 then { g with flags := kput g.flags f (kget 0 g.flags f - 1) } else g

/-! ## Starting an operation -/

/-- Keys of registers an operation writes: lanes of vector registers, group-wide registers, and the tail of a spill slot. -/
def vkey (r l : Nat) : Nat := 32 * r + l
def gkey (r : Nat) : Nat := 4096 + r
def tailKey : Nat := 8192

/-- A new operation of the executing instruction. -/
def newOp (x : Env) (kind : OpKind) (flag : Nat) : Op :=
  { id := x.s.fresh, kind := kind, group := x.k, gid := x.g.gid, entry := x.e, sup := x.g.level = .supervisor, pc := x.f.pc, who := x.f.members, lanes := x.f.exec
    flag := flag, next := x.f.pc + 4, part := x.b.part }
/-- The operation is outstanding: its flag rises, its destinations are pending, and provenances that compare one of them become
invalid (R39, R44, R63). -/
def Env.start (x : Env) (op : Op) : Env :=
  { x with s := { x.s with ops := x.s.ops ++ [op], fresh := x.s.fresh + 1 }
           g := let g := op.pend.foldl dropProv (raiseFlag x.g op.flag); { g with pending := g.pending ++ op.pend } }
/-- The lanes an instruction acts for: exec, or what a replay has still to do; a group-wide access stands as lane 0 (R216,
R221, R223). -/
def Env.acting (x : Env) (wide : Bool) : Mask :=
  let all : Mask := if wide then 1 else x.f.exec
  match x.f.replay with | some r => all &&& r.todo | none => all
/-- Issue of an instruction with a completion point: decode checks, pending registers, register errors, an earlier acquire or
fence, and room in its flag. -/
def issueOp (x : Env) (ok : Bool) (srcs dsts : List Nat) (slot : BitVec 1) (m : Env → State) : State :=
  issue x ok srcs dsts fun x => if accessHeld x || flagFull x slot then stall x else m x
/-- The same for a memory instruction: a vector one reads the registers of the lanes it acts for, and with none it reads nothing and
raises no trap after decode (R216). -/
def issueMem (x : Env) (wide ok : Bool) (srcs dsts : List Nat) (slot : BitVec 1) (m : Env → State) : State :=
  let act := x.acting wide
  let srcs' := if act = 0 then [] else srcs
  issueWith x ok srcs' (if act = 0 then srcs ++ dsts else dsts) act 4 fun x => if accessHeld x || flagFull x slot then stall x else m x
/-- Issue of a memory instruction without a completion point. -/
def issueAccess (x : Env) (ok : Bool) (srcs dsts : List Nat) (m : Env → State) : State :=
  issue x ok srcs dsts fun x => if accessHeld x then stall x else m x

/-! ## What a completion point writes (R57 to R62) -/

/-- A fragment after register `d` has been written in lanes `w` with result interval `i`: its narrowing (R61), and the spin
detector's list (R25). -/
def landFrag (d : Nat) (w : Mask) (i : Iv) (f : Frag) : Frag :=
  if f.members &&& w = 0 then f
  else
    let put := fun (q : Narrow) =>
      if q.reg = d then let r := if f.members &&& ~~~w = 0 then i else hull ⟨q.lo, q.hi⟩ i; { q with lo := r.lo, hi := r.hi } else q
    { f with narrow := f.narrow.map put, loop := f.loop.map fun p => { p with written := d :: p.written.filter (· != d) } }
/-- A vector register takes its lanes' values; helper lanes in `z` too, without a shadow. -/
def landVec (g : Group) (d : Nat) (w z : Mask) (val : Nat → Word) (i : Iv) : Group :=
  let m := w ||| z
  if m = 0 then g
  else
    let g := { g with vregs := kputAll g.vregs ((lanesOf m).map fun l => (vkey d l, val l)) }
    let g := clearErrors (dropProv g d) d m
    let l := w &&& g.live
    let g := if l = 0 then g else shadowWrite g d (l == g.live) i
    mapFrags (landFrag d l i) g
/-- A group-wide register takes a value; its shadow is TOP unless another is named. It is a write of the fragments that hold a lane of
the instruction's (R25). -/
def landWide (g : Group) (who : Mask) (d : Nat) (v : Word) (i : Iv := top) : Group :=
  let g := dropProv { g with gregs := kput g.gregs d v } (128 + d)
  mapFrags (fun f => if f.members &&& who = 0 then f
    else { f with loop := f.loop.map fun p => { p with written := (128 + d) :: p.written.filter (· != 128 + d) } })
    (shadowWrite g (128 + d) true i)
/-- The interval of a spill slot's tail (R77, R235). -/
def spillIv (lo w : Word) : Iv :=
  let n : Int := wbits w 30 0
  ⟨sgn lo, if n = 0x7FFFFFFF ∨ maxI < sgn lo + n then maxI else sgn lo + n⟩
/-- ld.spill's destination (R78, R235): unpinned, written, and pinned when the slot says so and no live value escapes. -/
def landSpill (g : Group) (d : Nat) (w z : Mask) (val : Nat → Word) (lo tail : Word) : Group :=
  if w = 0 then landVec g d w z val top
  else
    let s := shadow g d
    let g := dropIdx { g with shadows := kput g.shadows d { s with pin := false } } d
    let iv := spillIv lo tail
    let ok := (lanesOf (w &&& g.live)).all fun l => iv.has (sgn (val l))
    let g := landVec g d w z val (if ok then iv else top)
    if ok && bitOf tail.toNat 31 then { g with shadows := kput g.shadows d { shadow g d with pin := true } } else g
/-- Everything an operation writes to registers. -/
def land (g : Group) (op : Op) : Group :=
  let val := fun (d l : Nat) => kget 0 op.vwrites (vkey d l)
  let g := op.vshadow.foldl (fun g d =>
    match op.kind with
    | .load _ true => landSpill g d op.ws op.zeroed (val d) (kget 0 op.vwrites tailKey) (kget 0 op.vwrites (tailKey + 1))
    | _ => landVec g d op.ws op.zeroed (val d) top) g
  if op.ws = 0 then g else clearWide (op.gshadow.foldl (fun g d => landWide g op.who d (kget 0 op.vwrites (gkey d))) g) op.gshadow
/-- The registers written are the user's, or the handler's that issued the operation (R341). -/
def Op.change (op : Op) (c : Group → Group) (g : Group) : Group := if op.sup then c g else userChange c g

/-! ## The completion point (R45, R161, R220) -/

/-- A trap of an operation already issued, taken in its fragment at its instruction, or after the handler that runs (R342). -/
def raiseAt (s : State) (op : Op) (t : Trap) : State :=
  match envAt s op.group op.entry with
  | none => s
  | some x =>
    if x.g.gid ≠ op.gid then s
    else if x.g.level = .supervisor ∧ !op.sup then
      { s with groups := kput s.groups op.group { x.g with traps := x.g.traps ++ [{ t with entry := op.entry, pc := op.pc }] } }
    else takeTrap { x with f := { x.f with pc := op.pc } } { t with pc := op.pc }
/-- Set a fragment's program counter and what it must replay. -/
def reposition (s : State) (k e : Nat) (pc : Word) (r : Option Replay) : State :=
  match envAt s k e with
  | none => s
  | some x => { x with f := { x.f with pc := pc, replay := r, reached := s.clock } }.commit
/-- The completion point of an operation: registers written, pending bits clear, the flag falls; then a trap or a park of the
lanes left unfinished, or the held fragment proceeds. -/
def finish (s : State) (op : Op) : State :=
  let s := { s with ops := s.ops.filter fun o => o.id != op.id }
  match kfind s.groups op.group with
  | none => s
  | some g =>
    if g.gid ≠ op.gid then s
    else
      let g := spinSettle (op.change (land · op) g)
      let left := op.failed ||| (match op.park with | some (_, m) => m | none => 0)
      let keep := op.trap.isNone && op.park.isSome
      let g := if keep then { g with parked := op.park.map fun (a, _) => ⟨op.entry, a, op.flag, op.pend⟩ }
        else { lowerFlag g op.flag with pending := g.pending.filter fun c => !op.pend.contains c }
      let s := { s with groups := kput s.groups op.group g }
      match op.trap with
      | some t => raiseAt s op { t with mask := left, kind := .partly, replay := some ⟨left, op.written⟩, next := op.next }
      | none =>
        if keep then reposition s op.group op.entry op.pc (some ⟨left, op.written⟩)
        else if op.held then reposition s op.group op.entry op.next none
        else s
/-- Run the completion point of an operation whose kind fits, whose answers have come and whose writes are granted; otherwise nothing
happens. -/
def completeIf (s : State) (id : Nat) (fits : Op → Bool) (m : State → Op → State) : Out :=
  .next (match s.ops.find? fun o => o.id == id with
    | some o => if fits o && o.tags == [] && granted s o then m s o else s
    | none => s)
/-- Addresses of a tier among an operation's touched locations. -/
def touchedIn (op : Op) (tier : Nat) : List Nat := op.touched.filterMap fun a => if a / 2 ^ 60 = tier then some (a % 2 ^ 60) else none
/-- The completion point with what it sets off: the bytes of a store are accepted, those of its completed lanes where others are left
unfinished (R137, R161, R220). -/
def finishOp (s : State) (op : Op) : State :=
  if op.kind = .store then finish (wakeAll (accepted (accepted s 0 (touchedIn op 0) true) 1 (touchedIn op 1) false)) op else finish s op
/-- After issue: an operation with lanes left unfinished and no answer to wait for is settled at once; one that waits for
answers that may fail holds its fragment; any other goes on. -/
def Env.settleOp (x : Env) (op : Op) (mayFail : Bool) : State :=
  let stuck := op.trap.isSome || op.park.isSome
  if stuck && op.tags == [] then finishOp (x.start op).commit op
  else if stuck || (mayFail && op.tags != []) then (x.start { op with held := true }).commit
  else ((x.start op).skip 4).commit

end Sys2Proof.Machine
end

