-- ==== Sys2Proof/Machine/Memory.lean ====
section
/-!
DEFINITION. Loads, stores, ordered accesses, fences, cache operations, spills and memory barriers (R212, R213, R216 to R223,
R228 to R235).
-/
namespace Sys2Proof.Machine

/-! ## Rows 2 to 4 -/

/-- The record trap: its detail names the record register (R343). -/
def recordTrap (x : Env) (b : Nat) : State := memTrap x 0x13 0 0 (word b)
/-- The plumb stage and the record's permission (rows 3 and 4 of R219): the elements by lane, or the trap. -/
def plumbed (x : Env) (r : Rec) (b idx : Nat) (off : Int) (n : Nat) (who : List Nat) (value : Nat → Word) (force perm : Bool) :
    Sum State (List (Nat × Nat × Option Int) × Env) :=
  match plumb x r b idx off n who value force with
  | (none, g) => .inl (memTrap { x with g := g } 3 0 0 (word b))
  | (some es, g) =>
    let x := { x with g := g }
    if perm then .inr (es, x) else .inl (memTrap x 4 0 0 (word b))
/-- Pieces of elements that are not masked. -/
def piecesOf (r : Rec) (es : List (Nat × Nat × Option Int)) : List Piece :=
  es.filterMap fun (l, j, i) => i.map fun i => ⟨l, j, elemAt r i, recSize r⟩
/-- The lines of a load's footprint in the memory that caches hold, when it covers 64 lines at most (R75). -/
def footLines (x : Env) (r : Rec) (idx : Nat) (off : Int) (n : Nat) : List Nat :=
  let iv := view x.g x.f idx
  let lo := max 0 (iv.lo + off)
  let hi := min ((extent r : Int) - 1) (iv.hi + off + n - 1)
  if inScratch r ∨ hi < lo then []
  else
    let va := (elemAt r lo).toNat
    let last := va + ((hi - lo).toNat * lStride r + recSize r) - 1
    if 64 < last / 128 - va / 128 + 1 then []
    else (List.range (last / 128 - va / 128 + 1)).filterMap fun i =>
      let a := 128 * (va / 128 + i)
      match judge x.s x.b.part x.g.level .read a (walk x.s x.b.part a) with
      | .ok tier _ frame _ => if tier ≤ 1 then some (cacheKey x.b.part tier (65536 * frame + a % 65536) / 128) else none
      | _ => none
/-- The L1 reserves them before the load issues. -/
def Env.reserve (x : Env) (r : Rec) (idx : Nat) (off : Int) (n : Nat) : Env := { x with s := reserveLines x.s x.core (footLines x r idx off n) }
/-- Log the access's footprint when its turn has come (R75, R414). -/
def noteFootprint (x : Env) (r : Rec) (idx : Nat) (off : Int) (n kind : Nat) : Env :=
  let iv := view x.g x.f idx
  let lo := max 0 (iv.lo + off)
  let hi := min ((extent r : Int) - 1) (iv.hi + off + n - 1)
  if inScratch r ∨ hi < lo then x
  else
    let va := (elemAt r lo).toNat
    { x with s := footprint x.s x.core x.b.part va ((hi - lo).toNat * lStride r + recSize r) kind (walk x.s x.b.part va).pte }

/-! ## Reading -/

/-- Bytes of a piece; a peer's bytes are zero until they arrive. -/
def pieceBytes (x : Env) (sg : List Seg) : List Byte :=
  sg.flatMap fun g => if g.tier = 2 then List.replicate g.len 0 else segRead x g
/-- The peer bytes a piece wants, given the register key of each word of the element. -/
def pieceWants (p : Piece) (sg : List Seg) (key : Nat → Nat) : List Want :=
  (sg.foldl (fun (acc : Nat × List Want) g =>
    (acc.1 + g.len, if g.tier = 2 then acc.2 ++ (List.range g.len).map (fun i => ⟨g.place, g.pa + i, p.lane, key ((acc.1 + i) / 4), (acc.1 + i) % 4, p.addr.toNat⟩)
                    else acc.2)) (0, [])).2
/-- The releases beside the bytes of some segments (R124). -/
def segMarks (x : Env) (sg : List Seg) : List RelMark :=
  (sg.flatMap fun g =>
    if g.tier = 3 then marksAt x.b.marks ((List.range g.len).map (g.pa + ·))
    else marksAt x.s.marks ((List.range g.len).map fun i => markKey g.tier g.place (g.pa + i))).eraseDups
/-- The bytes of device memory and of the host's space that an access of a partition names, as the caches name them, each with its page's
entry. -/
def segPlaces (p : Nat) (done : List (Piece × List Seg)) : List (Nat × Nat) :=
  ((done.flatMap (·.2)).filter fun q => q.tier ≤ 1).flatMap fun q => (List.range q.len).map fun i => (cacheKey p q.tier (q.pa + i), q.pte)
/-- What reading leaves in the group and the caches: releases met, the acquire's stamp, lines brought in (R124, R229, R426). -/
def readEffects (x : Env) (done : List (Piece × List Seg)) (acq : Option Nat) (scratch : Bool) (wide : Bool := false) : Env :=
  let ms := (done.flatMap fun q => segMarks x q.2).filter fun m => !m.past
  let g := done.foldl (fun g q => noteMet (x.lanesFor wide q.1.lane) (segMarks x q.2) g) x.g
  let g := match acq with | some sc => acquireAll x.k (if scratch then min sc 1 else sc) ms g | none => g
  let bytes := segPlaces x.b.part done
  let s := (bytes.map fun q => (q.1 / 128, q.2)).eraseDups.foldl (fun s (l, pte) => cacheRead s x.core l pte (granulesOf (bytes.map (·.1)) l)) x.s
  let s := if acq.isSome then l1Acquire s x.core g.acqStamp else s
  { x with s := s, g := g }

/-- A load once its checks are done: values, wanted peer bytes and the operation. `regs d` gives the register keys of element
j in a lane. -/
def loadOp (c : Checked) (wide : Bool) (es : List (Nat × Nat × Option Int)) (slot : BitVec 1) (acq : Option Nat)
    (r : Rec) (codes : List Nat) : State :=
  let x := c.x
  let n := regsPer (recSize r)
  let num := fun (c : Nat) => if c ≤ 95 then c else c - 128
  let key := fun (l j w : Nat) => let c := num (codes.getD (j * n + w) 0); if wide then gkey c else vkey c l
  let zeros := es.flatMap fun (l, j, i) => if i.isNone then (List.range n).map fun w => (key l j w, (0 : Word)) else []
  let vals := c.done.flatMap fun (p, sg) =>
    (loadWords (pieceBytes x sg) (signed8 r)).zipIdx.map fun (w, i) => (key p.lane p.j i, w)
  let wants := c.done.flatMap fun (p, sg) => pieceWants p sg (key p.lane p.j)
  let x := readEffects x c.done acq (inScratch r) wide
  let act := x.acting wide
  let op := newOp x (.load acq.isSome false) (flagOf x slot)
  let (tags, s) := askAll x.s op.id x.b.part wants
  let x := { x with s := s, f := { x.f with replay := none } }
  x.settleOp { op with
    pend := codes, vwrites := kputAll [] (zeros ++ vals), vshadow := if wide then [] else codes
    gshadow := if wide then codes.map num else [], ws := act &&& ~~~(c.failed ||| c.parked), zeroed := if wide then 0 else x.helpers
    tags := tags, failed := c.failed, trap := c.trap, park := if c.parked = 0 then none else some (c.pte, c.parked) } true

/-- Loads of N elements: ld.x1, ld.x2, ld.x4, ldg and ld.acq (R222, R223, R229). -/
def load (x : Env) (slot : BitVec 1) (b : BitVec 3) (i : BitVec 7) (off : Int) (d : BitVec 7) (n : Nat) (wide : Bool)
    (acq : Option Nat) : State :=
  let r := brec x.g b.toNat
  let code := if wide then gcode d.toNat else d.toNat
  let idx := if wide then gcode i.toNat else vcode i.toNat
  let ok := if wide then gdOk d && gsOk i else dstOk x.g d && srcOk x.g i
  let codes := if validRec r then fitCodes x.g code (recSize r) n else none
  issueMem x wide (ok && (match acq with | some c => c ≤ 4 | none => true)) [idx] (codes.getD [code]) slot fun x =>
    let act := x.acting wide
    if act = 0 then (x.skip 4).commit
    else match codes with
    | none => recordTrap x b.toNat
    | some codes =>
      match plumbed x r b.toNat idx off n (lanesOf act) (fun l => if wide then gsrc x.g i.toNat else vsrc x.g i.toNat l) false (pread r) with
      | .inl s => s
      | .inr (es, x) =>
        match check x (inScratch r) .load (acq.getD 0) 1 true (piecesOf r es) wide with
        | .inl s => s
        | .inr c =>
          let c := { c with x := (noteFootprint c.x r idx off n 0).reserve r idx off n }
          loadOp c wide es slot acq r codes

/-! ## Writing -/

/-- One byte an instruction writes: tier, device, address, value, and the lane that writes it. -/
structure Put where
  tier : Nat
  place : Nat
  pa : Nat
  b : Byte
  lane : Nat
  deriving DecidableEq, Repr

/-- Key of a byte for a replay's order (R221). -/
def Put.key (p : Put) : Nat := tkey p.tier (p.place * 2 ^ 52 + p.pa)
/-- The bytes of a piece, with their places. -/
def putsOf (p : Piece) (sg : List Seg) (bs : List Byte) : List Put :=
  (sg.foldl (fun (acc : Nat × List Put) g =>
    (acc.1 + g.len, acc.2 ++ (List.range g.len).map fun i => ⟨g.tier, g.place, g.pa + i, bs.getD (acc.1 + i) 0, p.lane⟩)) (0, [])).2
/-- Drop the bytes a higher-numbered completed lane has written before (R221). -/
def replayPuts (x : Env) (ps : List Put) : List Put :=
  match x.f.replay with
  | none => ps
  | some r => ps.filter fun p => !r.written.any fun w => w.1 == p.key && p.lane < w.2
/-- Cells of a tier among written bytes. -/
def cellsOf (ps : List Put) (tier : Nat) : List Host.Cell := ps.filterMap fun p => if p.tier = tier then some (p.pa, p.b) else none
/-- Write to the block's scratchpad; a word written whole loses its error (R96). -/
def Env.scratchWrite (x : Env) (cells : List Host.Cell) : Env :=
  let whole := fun (w : Nat) => (List.range 8).all fun i => cells.any fun c => c.1 == 8 * w + i
  { x with b := { x.b with
    scratch := mputAll x.b.scratch cells, spErrors := x.b.spErrors.filter (fun w => !whole w), spSingles := x.b.spSingles.filter fun w => !whole w } }
/-- The releases a write of some of the group's lanes makes (R124): an explicit one, and one for each fence.rel or fence.ar of those lanes
before it. -/
def ownMarks (k : Nat) (g : Group) (m : Mask) (rel : Option Nat) : List RelMark :=
  (match rel with | some sc => [⟨releaseStamp g, sc, k, g.block, false⟩] | none => []) ++
  (g.relFence.filter fun q => q.1 &&& m != 0).map fun q => ⟨q.2.2, q.2.1, k, g.block, false⟩
/-- Marks after a write of the group's lanes to bytes named by tier, device and address; on scratchpad the scope is block (R119). -/
def leaveMarks (x : Env) (m : Mask) (rel : Option Nat) (rmw : Bool) (at' : List (Nat × Nat × Nat)) : Env :=
  let ms := ownMarks x.k x.g m rel
  let sp := at'.filterMap fun (t, _, a) => if t = 3 then some a else none
  let dev := at'.filterMap fun (t, p, a) => if t = 3 then none else some (markKey t p a)
  { x with b := { x.b with marks := writeMarks x.b.marks sp rmw (ms.map fun m => { m with scope := min m.scope 1 }) }
           s := { x.s with marks := writeMarks x.s.marks dev rmw ms } }
/-- The same for an instruction whose lanes write bytes of their own, in the order of the lanes. -/
def leaveEach (x : Env) (wide : Bool) (rel : Option Nat) (rmw : Bool) (at' : List (Nat × Nat × Nat × Nat)) : Env :=
  ((at'.map (·.1)).eraseDups).foldl (fun x l =>
    leaveMarks x (x.lanesFor wide l) rel rmw (at'.filterMap fun (q, w) => if q = l then some w else none).eraseDups) x
/-- What an instruction's writes leave beside the sectors of race-watch pages (R145): the scope at which each is a release, or `sc`. -/
def raceEach (x : Env) (wide : Bool) (sc : Nat) (done : List (Piece × List Seg)) : Env :=
  { x with s := done.foldl (fun s q => raceMark s x.b.part x.k (max sc (fenceScope x.g (x.lanesFor wide q.1.lane))) (watched q.2)) x.s }
/-- Bytes of segments, by tier, device and address. -/
def segBytes (sg : List Seg) : List (Nat × Nat × Nat) := sg.flatMap fun g => (List.range g.len).map fun i => (g.tier, g.place, g.pa + i)
/-- Perform an instruction's writes: bytes, marks, race-watch state, and the packets for peers. Translations through entries it has written end
as they become visible (R398, R399). Answers the tags awaited. -/
def performPuts (x : Env) (ps : List Put) (done : List (Piece × List Seg)) (rel : Option Nat) (op : Nat) (wide : Bool := false) :
    List Nat × Env :=
  let s := physStore (physStore (hostFault x.s x.b.part 1 (cellsOf ps 1)) 0 (cellsOf ps 0)) 1 (hostTakes x.s 1 (cellsOf ps 1))
  let places := segPlaces x.b.part done
  let cells := cellsOf ps 0 ++ (hostTakes x.s 1 (cellsOf ps 1)).map fun c => (cacheKey x.b.part 1 c.1, c.2)
  let s := (cells.map fun c => c.1 / 128).eraseDups.foldl (fun s line =>
    cacheWrite s x.core line (((places.find? fun q => q.1 / 128 == line).map (·.2)).getD 0) cells) s
  let s := snoopTlb s ((cellsOf ps 0).map (·.1))
  let s := claimPast s x.g.gid ((ps.filter fun p => p.tier ≤ 1).map fun p => tkey p.tier p.pa)
  let x := { x with s := s, g := { x.g with wrStamp := stampNow x.s } }
  let x := x.scratchWrite (cellsOf ps 3)
  let x := leaveEach x wide rel false (ps.map fun p => (p.lane, p.tier, p.place, p.pa))
  let x := raceEach x wide (rel.getD 0) done
  let (tags, s) := putAll x.s { type := 1, dst := 0, part := x.b.part, op := some op }
    (ps.filterMap fun p => if p.tier = 2 then some (p.place, (p.pa, p.b)) else none)
  (tags, { x with s := s })
/-- Distinct addresses written, as keys of tier and address. -/
def touchKeys (ps : List Put) : List Nat := (ps.map fun p => tkey p.tier p.pa).eraseDups

/-- A store once its checks are done. -/
def storeOp (c : Checked) (slot : BitVec 1) (rel : Option Nat) (done : List (Piece × List Seg)) (ps : List Put)
    (log : List (Nat × Nat)) (footed : Env → Env) (wide : Bool := false) : State :=
  let x := footed c.x
  let op := newOp x .store (flagOf x slot)
  let ps := replayPuts x ps
  let (tags, x) := performPuts x ps done rel op.id wide
  let old := match x.f.replay with | some r => r.written | none => []
  let x := { x with f := { x.f with replay := none } }
  x.settleOp { op with tags := tags, touched := touchKeys ps, failed := c.failed, trap := c.trap
                       park := if c.parked = 0 then none else some (c.pte, c.parked), written := log ++ old, writes := true } false

/-- A release at system scope waits for the answers of the group's remote accesses, those without a completion point too, and for those of other parties' remote writes that an
acquire of the group has observed (R125, R449). -/
def remoteHeld (x : Env) : Bool :=
  x.outstanding.any (fun o => o.tags != []) ||
  x.s.remotes.any fun (_, r) => r.own == some x.g.gid ||
    (1 ≤ r.type && r.type ≤ 3 && r.copy.isNone && r.mig.isNone && r.stamp ≤ x.g.acqStamp && x.g.acqStamp != 0)
/-- Stores of N elements: st.x1, st.x2, st.x4, stg and st.rel (R222, R223, R229). -/
def store (x : Env) (slot : BitVec 1) (b : BitVec 3) (i : BitVec 7) (off : Int) (d : BitVec 7) (n : Nat) (wide : Bool)
    (rel : Option Nat) : State :=
  let r := brec x.g b.toNat
  let code := if wide then gcode d.toNat else vcode d.toNat
  let idx := if wide then gcode i.toNat else vcode i.toNat
  let ok := if wide then gsOk d && gsOk i else srcOk x.g d && srcOk x.g i
  let codes := if validRec r then fitCodes x.g code (recSize r) n else none
  issueMem x wide (ok && (match rel with | some c => c ≤ 4 | none => true)) (idx :: codes.getD [code]) [] slot fun x =>
    let act := x.acting wide
    if act = 0 then (x.skip 4).commit
    else if rel.isSome && (releaseHeld x || (rel == some 4 && remoteHeld x)) then stall x
    else match codes with
    | none => recordTrap x b.toNat
    | some codes =>
      match plumbed x r b.toNat idx off n (lanesOf act) (fun l => if wide then gsrc x.g i.toNat else vsrc x.g i.toNat l) false (pwrite r) with
      | .inl s => s
      | .inr (es, x) =>
        match check x (inScratch r) .store (rel.getD 0) 1 false (piecesOf r es) wide with
        | .inl s => s
        | .inr c =>
          let e := recSize r
          let w := regsPer e
          let bytes := fun (l j : Nat) =>
            ((List.range w).flatMap fun q => leOut 4 (codeVal x.g (codes.getD (j * w + q) 127) l).toNat).take e
          let ps := c.done.flatMap fun (p, sg) => putsOf p sg (bytes p.lane p.j)
          let log := if c.trap.isSome || c.parked != 0 then ps.map fun p => (p.key, p.lane) else []
          storeOp c slot rel c.done ps log (fun y => noteFootprint y r idx off n 1) wide

/-! ## Spills (R97, R234, R235) -/

/-- A record that may hold spill slots (R97). -/
def spillRec (r : Rec) : Bool := validRec r && !isTile r && 136 ≤ lStride r && lStride r % 8 == 0 && lBase r % 8 == 0
/-- The pieces of a slot: each lane's own 4 bytes and bytes 128 to 135 (R234). -/
def slotPieces (a : Int) (who : List Nat) : List Piece := who.flatMap fun l => [⟨l, 0, a + 4 * l, 4⟩, ⟨l, 1, a + 128, 8⟩]
/-- The words of a slot's tail for a register's group shadow (R77). -/
def spillTail (s : Shadow) : List Byte :=
  leOut 4 (wordI s.lo).toNat ++ leOut 4 ((min (s.hi - s.lo) 0x7FFFFFFF).toNat + (if s.pin then 2 ^ 31 else 0))
def stSpill (x : Env) (slot : BitVec 1) (b : BitVec 3) (i d : BitVec 7) : State :=
  let r := brec x.g b.toNat
  let idx := gcode i.toNat
  let code := vcode d.toNat
  issueMem x false (srcOk x.g d && gsOk i) [idx, code] [] slot fun x =>
    let act := x.acting false
    if act = 0 then (x.skip 4).commit
    else if !spillRec r then recordTrap x b.toNat
    else match plumbed x r b.toNat idx 0 1 [0] (fun _ => gsrc x.g i.toNat) false (pwrite r) with
      | .inl s => s
      | .inr (es, x) =>
        let ps := match es with | (_, _, some k) :: _ => slotPieces (elemAt r k) (lanesOf act) | _ => []
        match check x (inScratch r) .store 0 1 false ps with
        | .inl s => s
        | .inr c =>
          let own := c.done.filter fun q => q.1.j == 0
          let tail := (c.done.filter fun q => q.1.j == 1).take 1
          let mine := own.flatMap fun (p, sg) => putsOf p sg (leOut 4 (codeVal x.g code p.lane).toNat)
          let puts := mine ++ tail.flatMap fun (p, sg) => putsOf p sg (spillTail (shadow x.g code))
          let log := if c.trap.isSome || c.parked != 0 then mine.map fun p => (p.key, p.lane) else []
          storeOp c slot none (own ++ tail) puts log fun y => noteFootprint y r idx 0 1 1
def ldSpill (x : Env) (slot : BitVec 1) (b : BitVec 3) (i d : BitVec 7) : State :=
  let r := brec x.g b.toNat
  let idx := gcode i.toNat
  issueMem x false (dstOk x.g d && gsOk i) [idx] [d.toNat] slot fun x =>
    let act := x.acting false
    if act = 0 then (x.skip 4).commit
    else if !spillRec r then recordTrap x b.toNat
    else match plumbed x r b.toNat idx 0 1 [0] (fun _ => gsrc x.g i.toNat) false (pread r) with
      | .inl s => s
      | .inr (es, x) =>
        let ps := match es with | (_, _, some k) :: _ => slotPieces (elemAt r k) (lanesOf act) | _ => []
        match check x (inScratch r) .load 0 1 true ps with
        | .inl s => s
        | .inr c =>
          let key := fun (p : Piece) (w : Nat) => if p.j = 0 then vkey d.toNat p.lane else tailKey + w
          let vals := c.done.flatMap fun (p, sg) => (loadWords (pieceBytes c.x sg) false).zipIdx.map fun (w, n) => (key p n, w)
          let wants := (c.done.flatMap fun (p, sg) => pieceWants p sg (key p)).eraseDups
          let x := noteFootprint (readEffects (c.x.reserve r idx 0 1) c.done none (inScratch r)) r idx 0 1 0
          let op := newOp x (.load false true) (flagOf x slot)
          let (tags, s) := askAll x.s op.id x.b.part wants
          let x := { x with s := s, f := { x.f with replay := none } }
          x.settleOp { op with
            pend := [d.toNat], vwrites := kputAll [] vals, vshadow := [d.toNat], ws := act &&& ~~~(c.failed ||| c.parked)
            zeroed := x.helpers, tags := tags, failed := c.failed, trap := c.trap
            park := if c.parked = 0 then none else some (c.pte, c.parked) } true

/-! ## Control words: one element that a single access reads or changes (R464) -/

/-- Where a control word lies, once every row of R219 has passed; a trap or a park before any effect otherwise. -/
def controlWord (x : Env) (b idx : Nat) (index : Word) (k : AccKind) (sc align : Nat) (perm : Rec → Bool) (linearOnly : Rec → Bool) :
    Sum State (Env × Seg) :=
  let r := brec x.g b
  if !(validRec r && linearOnly r) then .inl (recordTrap x b)
  else match plumbed x r b idx 0 1 [0] (fun _ => index) true (perm r) with
    | .inl s => .inl s
    | .inr (es, x) =>
      let ps := piecesOf r es
      match check x (inScratch r) k (if k = .store then 0 else sc) align (k != .store) ps true with
      | .inl s => .inl s
      | .inr c =>
        match c.trap, c.done with
        | some t, _ => .inl (takeTrap c.x { t with mask := c.x.f.exec, next := c.x.f.pc + 4 })
        | none, (_, [g]) :: _ =>
          .inr (c.x, g)
        | none, _ =>
          let y := c.x
          .inl { y with g := { y.g with parked := some ⟨y.e, c.pte, 15, []⟩ } }.commit
/-- A linear record of esize 3. -/
def counterRec (r : Rec) : Bool := !isTile r && lEsize r == 3
/-- A control word's eight bytes where this device or the host holds them; the releases beside it, met by the fragment's lanes (R124); and
writing it with what an accepted write sets off: `rel` is the scope of a release, `rmw` tells a read-modify-write, `sc` its scope. A peer's
word is written by a packet, which a release at system scope waits for (R125, R447). -/
def Env.readWord (x : Env) (g : Seg) : Nat := leVal (segRead x g)
def Env.metWord (x : Env) (g : Seg) : Env := { x with g := noteMet x.f.exec (segMarks x [g]) x.g }
def Env.writeWord (x : Env) (g : Seg) (v : Nat) (rel : Option Nat) (rmw counts : Bool) (sc : Nat) : Env :=
  let bs := leOut 8 v
  let sects := watched [g]
  let x := { x with g := { x.g with wrStamp := stampNow x.s } }
  let x := leaveMarks x x.f.exec rel rmw (segBytes [g])
  if g.tier = 3 then
    let x := x.scratchWrite (cellsAt g.pa bs)
    x.reload (wakeAll x.commit)
  else if g.tier = 2 then
    { x with s := (putSector x.s { type := 1, dst := g.place, part := x.b.part, pa := g.pa, own := some x.g.gid } (cellsAt g.pa bs)).2 }
  else
    let s := claimPast (partWrite x.s x.b.part g.tier (cellsAt g.pa bs)) x.g.gid ((List.range 8).map fun i => tkey g.tier (g.pa + i))
    let x := { x with s := raceMark s x.b.part x.k (max (if rmw then sc else rel.getD 0) (fenceScope x.g x.f.exec)) sects }
    x.reload (accepted x.commit g.tier ((List.range 8).map (g.pa + ·)) counts)
/-- Acquire at a word a control instruction has read (R131, R135, R139). -/
def Env.acquireWord (x : Env) (g : Seg) (sc : Nat) : Env :=
  let gr := acquireAll x.k (if g.tier = 3 then 1 else sc) (segMarks x [g]) x.g
  { x with g := gr, s := l1Acquire x.s x.core gr.acqStamp }

/-! ## Control words on peers (R213, R280, R400, R402, R447) -/

/-- Key of a control word's location. -/
def Seg.key (g : Seg) : Nat := markKey g.tier g.place g.pa
/-- The virtual address of a control word: an element of a record. -/
def wordVa (r : Rec) (i : Word) : Nat := (elemAt r (sgn i)).toNat
/-- Ask a peer for a control word, or, given a new value, change it there if it still holds the value expected: the fragment stands at its
instruction until the answer has come, and then finds it. An error answer is the data-error trap, cause 0 (R402). DESIGN CHOICE (log 117):
the spec names no packet for an mbar arrival; it is a remote read and a remote compare-and-swap, repeated until that succeeds. -/
def askWord (x : Env) (g : Seg) (va : Nat) (swap : Option (Nat × Nat)) : State :=
  let op := newOp x (.peerWord g.key (swap.map (·.1))) 15
  let r : Remote := { type := if swap.isSome then 2 else 0, dst := g.place, part := x.b.part, op := some op.id, va := va, lanes := lanesOf x.f.exec
                      pa := if swap.isSome then g.pa else g.pa / 32 * 32
                      patches := (List.range 8).map fun i => ((if swap.isSome then i else g.pa % 32 + i), i / 4, i % 4) }
  let (t, s) := match swap with
    | some (old, new) => putAtomic x.s r 9 8 0 new old
    | none => askSector x.s r
  ({ x with s := s }.start { op with tags := [t], held := true }).commit
/-- Go on with a control word's value: at once where this device or the host holds it, on a peer once its answer has come. -/
def withWord (x : Env) (g : Seg) (va : Nat) (m : Env → Nat → State) : State :=
  if g.tier ≠ 2 then m (x.metWord g) (x.readWord g)
  else match x.f.peer with
    | some w => if w.key = g.key then m ({ x with f := { x.f with peer := none } }.metWord g) w.value else askWord x g va none
    | none => askWord x g va none
/-- Change a control word by a function of its value, as one read-modify-write, and go on with the value before. -/
def changeWord (x : Env) (g : Seg) (va : Nat) (step : Nat → Nat) (rel : Option Nat) (m : Env → Nat → State) : State :=
  if g.tier ≠ 2 then let w := x.readWord g; m ((x.metWord g).writeWord g (step w) rel true false 3) w
  else match x.f.peer with
    | some w =>
      if w.key ≠ g.key then askWord x g va none
      else if !w.swapped then askWord x g va (some (w.value, step w.value))
      else
        let y := { x with f := { x.f with peer := none }, g := { x.g with wrStamp := stampNow x.s } }.metWord g
        m (leaveMarks y y.f.exec rel true (segBytes [g])) w.value
    | none => askWord x g va none
/-- Ask a peer again for a word that fragments of a group watch, unless a request for it is under way. -/
def askAgain (s : State) (gid part place pa va : Nat) : State :=
  let r : Remote := { type := 0, dst := place, part := part, pa := pa / 32 * 32, va := va, watch := some gid }
  if s.remotes.any fun q => q.2.watch == some gid && q.2.dst == place && q.2.pa == r.pa then s else (askSector s r).2
/-- The fragment waits for a word's value to change (R213, R281, R300). A peer's word is asked for until it has the value awaited. DESIGN CHOICE (log 117): the spec
names no packet by which a peer would report a write. -/
def awaitWord (x : Env) (g : Seg) (va : Nat) (kind : WaitKind) (want : Nat) : State :=
  let at' := if g.tier = 2 then g.place * 2 ^ 52 + g.pa else g.pa
  let y := { x with f := { x.f with wait := kind, reached := if kind = WaitKind.join then x.s.clock else x.f.reached, watch := some ⟨g.tier = 3, g.tier, at', want, va⟩ } }
  if g.tier = 2 then askAgain y.commit y.g.gid y.b.part g.place g.pa va else y.commit
/-- Go on after an instruction whose wait has nothing to wait for, at a clause header (R158). -/
def goOn (x : Env) (g : Seg) : State := let y := x.acquireWord g 3; { y with f := { y.f with pc := y.f.pc + 4, arrive := .header } }.commit

/-! ## Memory barriers (R212, R213) -/

/-- A count of 0 stands for 65,536. -/
def count16 (n : Nat) : Nat := if n = 0 then 65536 else n
/-- The word after one arrival. -/
def mbarStep (w : Nat) : Nat :=
  let rest := w / 2 ^ 16 * 2 ^ 16
  if count16 (w % 2 ^ 16) = 1 then (rest + bits w 31 16 + 2 ^ 63) % 2 ^ 64 else rest + (count16 (w % 2 ^ 16) - 1) % 2 ^ 16
/-- mbar.wait: continue, or wait for the phase to differ. -/
def mbarWait (x : Env) (g : Seg) (va phase : Nat) : State :=
  withWord x g va fun x w => if w / 2 ^ 63 ≠ phase then goOn x g else awaitWord x g va .mbar phase

/-! ## The instructions -/

/-- LD_X1, LD_X2, LD_X4 (R222). -/
def execLdX1 (sl : BitVec 1) (o : BitVec 6) (i d : BitVec 7) (b : BitVec 3) (s : State) : Out :=
  withFrag s fun x => load x sl b i o.toInt d 1 false none
def execLdX2 (sl : BitVec 1) (o : BitVec 6) (i d : BitVec 7) (b : BitVec 3) (s : State) : Out :=
  withFrag s fun x => load x sl b i o.toInt d 2 false none
def execLdX4 (sl : BitVec 1) (o : BitVec 6) (i d : BitVec 7) (b : BitVec 3) (s : State) : Out :=
  withFrag s fun x => load x sl b i o.toInt d 4 false none
/-- ST_X1, ST_X2, ST_X4 (R222). -/
def execStX1 (sl : BitVec 1) (o : BitVec 6) (i d : BitVec 7) (b : BitVec 3) (s : State) : Out :=
  withFrag s fun x => store x sl b i o.toInt d 1 false none
def execStX2 (sl : BitVec 1) (o : BitVec 6) (i d : BitVec 7) (b : BitVec 3) (s : State) : Out :=
  withFrag s fun x => store x sl b i o.toInt d 2 false none
def execStX4 (sl : BitVec 1) (o : BitVec 6) (i d : BitVec 7) (b : BitVec 3) (s : State) : Out :=
  withFrag s fun x => store x sl b i o.toInt d 4 false none
/-- LDG and STG (R223). -/
def execLdg (sl : BitVec 1) (o : BitVec 6) (i d : BitVec 7) (b : BitVec 3) (s : State) : Out :=
  withFrag s fun x => load x sl b i o.toInt d 1 true none
def execStg (sl : BitVec 1) (o : BitVec 6) (i d : BitVec 7) (b : BitVec 3) (s : State) : Out :=
  withFrag s fun x => store x sl b i o.toInt d 1 true none
/-- LD_ACQ and ST_REL (R229). -/
def execLdAcq (sl : BitVec 1) (c : BitVec 3) (i d : BitVec 7) (b : BitVec 3) (s : State) : Out :=
  withFrag s fun x => load x sl b i 0 d 1 false (some c.toNat)
def execStRel (sl : BitVec 1) (c : BitVec 3) (i d : BitVec 7) (b : BitVec 3) (s : State) : Out :=
  withFrag s fun x => store x sl b i 0 d 1 false (some c.toNat)
/-- A fence of a kind: 1 acq, 2 rel, 3 ar (R230). -/
def fence (x : Env) (sl : BitVec 1) (c : BitVec 3) (kind : Nat) : State :=
  issueOp x (c.toNat ≤ 4) [] [] sl fun x => ((x.start (newOp x (.fence kind c.toNat) (flagOf x sl))).skip 4).commit
def execFenceAcq (sl : BitVec 1) (c : BitVec 3) (s : State) : Out := withFrag s fun x => fence x sl c 1
def execFenceRel (sl : BitVec 1) (c : BitVec 3) (s : State) : Out := withFrag s fun x => fence x sl c 2
def execFenceAr (sl : BitVec 1) (c : BitVec 3) (s : State) : Out := withFrag s fun x => fence x sl c 3
/-- ICINV (R231): the group's fetched bytes, the core's instruction cache and the group's verdicts; a fence.acq completes the sequence of
R147. -/
def execIcinv (_sl : BitVec 1) (s : State) : Out :=
  withFrag s fun x => issueAccess x true [] [] fun x =>
    ({ x with g := { x.g with fetched := [], verdicts := [], icinv := true }
              s := modCore x.s x.core fun c => { c with icache := [] } }.skip 4).commit
/-- CINV (R232): a record that reaches no global byte completes at issue. -/
def execCinv (sl : BitVec 1) (c : BitVec 3) (b : BitVec 3) (s : State) : Out :=
  withFrag s fun x => issueOp x (c = 1 || c = 2) [] [] sl fun x =>
    let r := brec x.g b.toNat
    match reach r with
    | some (lo, hi) =>
      if !validRec r || inScratch r then (x.skip 4).commit else ((x.start (newOp x (.cinv c.toNat lo hi) (flagOf x sl))).skip 4).commit
    | none => (x.skip 4).commit
/-- PREFETCH (R233): belongs to the hint layer; this machine drops every prefetch after decode, before it reads its index. -/
def execPrefetch (_sl : BitVec 1) (c : BitVec 3) (i : BitVec 7) (_b : BitVec 3) (s : State) : Out :=
  withFrag s fun x => issueAccess x (1 ≤ c.toNat && c.toNat ≤ 3 && srcOk x.g i) [] [vcode i.toNat] fun x => (x.skip 4).commit
/-- ST_SPILL and LD_SPILL (R234, R235). -/
def execStSpill (sl : BitVec 1) (i d : BitVec 7) (b : BitVec 3) (s : State) : Out := withFrag s fun x => stSpill x sl b i d
def execLdSpill (sl : BitVec 1) (i d : BitVec 7) (b : BitVec 3) (s : State) : Out := withFrag s fun x => ldSpill x sl b i d
/-- MBAR_INIT (R213). -/
def execMbarInit (_sl : BitVec 1) (i d : BitVec 7) (b : BitVec 3) (s : State) : Out :=
  withFrag s fun x => issueAccess x (gsOk i && gsOk d) [gcode i.toNat, gcode d.toNat] [] fun x =>
    match controlWord x b.toNat (gcode i.toNat) (gsrc x.g i.toNat) .store 0 8 pwrite counterRec with
    | .inl s => s
    | .inr (y, g) =>
      let n := wbits (gsrc x.g d.toNat) 15 0
      ((y.writeWord g (n + 65536 * n) none false false 0).skip 4).commit
/-- MBAR_ARRIVE (R213). -/
def execMbarArrive (_sl : BitVec 1) (i d : BitVec 7) (b : BitVec 3) (s : State) : Out :=
  withFrag s fun x => issueAccess x (gsOk i && gdOk d) [gcode i.toNat] [128 + d.toNat] fun x =>
    if releaseHeld x then stall x
    else match controlWord x b.toNat (gcode i.toNat) (gsrc x.g i.toNat) .rmw 3 8 patom counterRec with
    | .inl s => s
    | .inr (y, g) => changeWord y g (wordVa (brec y.g b.toNat) (gsrc y.g i.toNat)) mbarStep (some 3) fun y w =>
      ((y.gwrite d.toNat (word (w / 2 ^ 63)) top).skip 4).commit
/-- MBAR_WAIT (R213). -/
def execMbarWait (_sl : BitVec 1) (i d : BitVec 7) (b : BitVec 3) (s : State) : Out :=
  withFrag s fun x => issueAccess x (gsOk i && gsOk d) [gcode i.toNat, gcode d.toNat] [] fun x =>
    match controlWord x b.toNat (gcode i.toNat) (gsrc x.g i.toNat) .load 3 8 pread counterRec with
    | .inl s => s
    | .inr (y, g) => mbarWait y g (wordVa (brec y.g b.toNat) (gsrc y.g i.toNat)) (wbits (gsrc x.g d.toNat) 0 0)
/-- MBAR_TEST (R213). -/
def execMbarTest (_sl : BitVec 1) (i d : BitVec 7) (b : BitVec 3) (s : State) : Out :=
  withFrag s fun x => issueAccess x (gsOk i && gdOk d) [gcode i.toNat, 128 + d.toNat] [128 + d.toNat] fun x =>
    match controlWord x b.toNat (gcode i.toNat) (gsrc x.g i.toNat) .load 3 8 pread counterRec with
    | .inl s => s
    | .inr (y, g) => withWord y g (wordVa (brec y.g b.toNat) (gsrc y.g i.toNat)) fun y w =>
      let hit := w / 2 ^ 63 != wbits (greg x.g d.toNat) 0 0
      let y := if hit then y.acquireWord g 3 else y
      ((y.gwrite d.toNat (word (b2n hit)) top).skip 4).commit

/-! ## Completion points -/

def isLoad (o : Op) : Bool := match o.kind with | .load _ _ => true | _ => false
/-- Operations of the same group issued before another. -/
def earlier (s : State) (o : Op) : List Op := s.ops.filter fun q => q.gid == o.gid && q.group == o.group && q.id < o.id
/-- What a fence waits for: earlier reads for acq, those of matrix instructions among them; every access for rel and ar; at system scope also
other parties' remote writes that the group has observed (R120, R125, R133, R230, R449). -/
def fenceReady (s : State) (o : Op) : Bool :=
  ((earlier s o).all fun q => match o.kind, q.kind with
    | _, .load _ _ => false
    | _, .atomic true => false
    | _, .matrix _ _ _ => false
    | _, .tile _ _ => false
    | .fence 1 _, _ => true
    | _, .store => false
    | _, .atomic _ => false
    | _, .reduction => false
    | _, .cadd _ _ _ => false
    | _, _ => true) &&
  (match envAt s o.group o.entry, o.kind with
   | some x, .fence k sc => x.g.gid != o.gid || (x.gangs == [] && !(k != 1 && sc == 4 && remoteHeld { x with s := { s with ops := [] } }))
   | _, _ => true)
/-- The fence.acq that ends a sequence of R147: what the group's fetches must have seen from now on; blocks fetched before it, and those
on their way, are fetched again. -/
def codeFence (s : State) (k : Nat) (g : Group) : State × Group :=
  if !g.icinv then (s, g)
  else
    let s := modCore s (k / 64) fun c => { c with icache := [] }
    ({ s with remotes := kmap (fun _ r => if (r.code.map (·.1)) == some k then { r with code := none } else r) s.remotes },
     { g with icinv := false, codeSeen := some (g.acqStamp, s.clock), fetched := [] })
/-- The ordering of a fence has been performed, for the reads and writes of its lanes (R124, R145, R147, R230). -/
def fenceDone (s : State) (o : Op) : State :=
  match o.kind, kfind s.groups o.group with
  | .fence kind sc, some g =>
    if g.gid ≠ o.gid then finish s o
    else
      let met := (g.readMarks.filter fun q => q.1 &&& o.lanes != 0).map (·.2)
      let g := if kind ≠ 2 then acquireAll o.group sc met g else g
      let s := if kind ≠ 2 then l1Acquire s (o.group / 64) g.acqStamp else s
      let (s, g) := if kind ≠ 2 then codeFence s o.group g else (s, g)
      let older := g.relFence.filterMap fun (m, c, t) => if c ≠ sc then some (m, c, t) else if m &&& ~~~o.lanes = 0 then none else some (m &&& ~~~o.lanes, c, t)
      let g := if kind ≠ 1 then { g with relFence := (o.lanes, sc, releaseStamp g) :: older } else g
      finish { s with groups := kput s.groups o.group g } o
  | _, _ => finish s o
/-- LOAD_COMPLETION (R161). -/
def execLoadCompletion (id : Nat) (s : State) : Out := completeIf s id isLoad finish
/-- STORE_COMPLETION (R161): the bytes have been accepted. -/
def execStoreCompletion (id : Nat) (s : State) : Out :=
  completeIf s id (fun o => o.kind == .store) finishOp
/-- FENCE_COMPLETION (R230). -/
def execFenceCompletion (id : Nat) (s : State) : Out :=
  completeIf s id (fun o => (match o.kind with | .fence _ _ => true | _ => false) && fenceReady s o) fenceDone
/-- CINV_COMPLETION (R232): the lines within the reach leave the core's L1, and at scope 2 its die's L2. -/
def execCinvCompletion (id : Nat) (s : State) : Out :=
  completeIf s id (fun o => match o.kind with | .cinv _ _ _ => true | _ => false) fun s o =>
    match o.kind with
    | .cinv sc lo hi =>
      let core := o.group / 64
      let hit := linesIn s o.part lo hi
      finish (if sc = 2 then l2Give (l1Give s core hit) (dieOf core) hit else l1Give s core hit) o
    | _ => s

end Sys2Proof.Machine
end

