-- ==== Sys2Proof/Machine/Atomics.lean ====
section
/-!
DEFINITION. Atomics and reductions (R143, R144, R224 to R227), with the exact sums of red.det (R433).
-/
namespace Sys2Proof.Machine

/-! ## Operations (R224, R225) -/

/-- Element sizes an op takes (R224). -/
def opSizes (p : Nat) : List Nat := match p with | 10 => [4] | 13 => [4] | 14 => [4] | 11 => [2] | 12 => [2] | _ => [4, 8]
/-- Which instruction an atomic operation comes from. -/
inductive RmwKind | atom | red | det
  deriving DecidableEq, Repr
/-- Ops an instruction has (R224). -/
def opAllowed (k : RmwKind) (p : Nat) : Bool :=
  match k with | .atom => p ≤ 14 | .red => p ≤ 14 && p != 8 && p != 9 | .det => p == 0 || (10 ≤ p && p ≤ 12)
/-- A number of e bytes as a signed integer. -/
def signedOf (e v : Nat) : Int := if v < 2 ^ (8 * e - 1) then v else (v : Int) - 2 ^ (8 * e)
/-- A floating sum of two elements, rounded to nearest even (R225). -/
def fmtAdd (f : Fmt) (a b : Nat) : Nat := (f.encode 0 (sumTerms 0 [f.decode a, f.decode b])).1
/-- The value an operation leaves, from the old value x, the operand v and the compared c. -/
def atomicVal (p e x v c : Nat) : Nat :=
  match p with
  | 0 => (x + v) % 2 ^ (8 * e)
  | 1 => if signedOf e x ≤ signedOf e v then x else v
  | 2 => if signedOf e x ≤ signedOf e v then v else x
  | 3 => min x v
  | 4 => max x v
  | 5 => x &&& v
  | 6 => x ||| v
  | 7 => x ^^^ v
  | 8 => v
  | 9 => if x = c then v else x
  | 10 => fmtAdd fp32 x v
  | 11 => fmtAdd fp16 x v
  | 12 => fmtAdd bf16 x v
  | 13 => (minMax32 false (word x) (word v)).toNat
  | 14 => (minMax32 true (word x) (word v)).toNat
  | _ => x

/-! ## Exact sums (R144, R433) -/

/-- Evicted entries of a partition in a set of its area. -/
def setWays (s : State) (p set : Nat) : List Nat :=
  s.slices.flatMap fun (_, sl) => sl.sums.filterMap fun (k, x) => if !x.inSlice && x.part == p && sumSet s p (k % 2 ^ 60) == set then some x.way else none
/-- Evict one entry of a slice to its partition's area, the lowest-addressed whose set has room; none when no set has. -/
def evictSum (s : State) (n : Nat) : Option State :=
  let sl := kget ({} : Slice) s.slices n
  let fit := fun (k : Nat) (x : ExactSum) =>
    if !x.inSlice || sumSets s x.part = 0 || !areaOpen s x (k % 2 ^ 60) then none
    else (List.range 8).find? fun w => !(setWays s x.part (sumSet s x.part (k % 2 ^ 60))).contains w
  match sl.sums.find? fun (k, x) => (fit k x).isSome with
  | none => none
  | some (k, x) =>
    let y := { x with inSlice := false, way := (fit k x).getD 0 }
    let s := modSlice s n fun sl => { sl with sums := kput sl.sums k y }
    some (storeArea s y (k % 2 ^ 60) (areaBytes y (k % 2 ^ 60)))
/-- One red.det contribution of a floating element; none while it must wait for an entry (R433). It is a write performed at the slice, whose
line the other holders give up (R431). -/
def detAdd (s : State) (p tier a fmt v : Nat) : Option State :=
  let key := tkey tier a
  let s := homeWrites s (if tier ≤ 1 then [(cacheKey p tier a, 0)] else [])
  let close := fun (s : State) => closeSums s tier ((List.range (sumSize fmt)).map fun i => (a + i, 0))
  match findSum s tier a with
  | some (n, k, x) =>
    if k = key ∧ x.fmt = fmt then
      let y := sumAdd x ((sumFmt fmt).decode v)
      some (storeArea (modSlice s n fun sl => { sl with sums := kput sl.sums key y }) y a (areaBytes y a))
    else openSum (close s) key fmt v
  | none => openSum (close s) key fmt v
where
  openSum (s : State) (key fmt v : Nat) : Option State :=
    let n := slotSlice s p tier a
    let room := ((kget ({} : Slice) s.slices n).sums.filter fun x => x.2.inSlice).length < 64
    let old := leVal (physRead s tier a (sumSize fmt))
    let y := sumAdd (sumAdd { fmt := fmt, sum := 0, part := p, negz := true } ((sumFmt fmt).decode old)) ((sumFmt fmt).decode v)
    let put := fun (s : State) => modSlice s n fun sl => { sl with sums := kput sl.sums key y }
    if room then some (put s) else (evictSum s n).map put

/-! ## The instructions -/

/-- One lane's operation where this device or the host holds its location; the old value, or nothing while a red.det must wait. -/
def rmwOne (x : Env) (k : RmwKind) (p e v c : Nat) (g : Seg) : Option (Nat × Env) :=
  if g.tier = 3 then
    let old := leVal (mreads x.b.scratch g.pa e)
    some (old, x.scratchWrite (cellsAt g.pa (leOut e (atomicVal p e old v c))))
  else if k = .det ∧ 10 ≤ p then
    (detAdd x.s x.b.part g.tier g.pa (p - 10) v).map fun s => (0, { x with s := s })
  else
    let old := leVal (physRead x.s g.tier g.pa e)
    let s := partWrite x.s x.b.part g.tier (cellsAt g.pa (leOut e (atomicVal p e old v c)))
    some (old, { x with s := claimPast s x.g.gid ((List.range e).map fun i => tkey g.tier (g.pa + i)) })
/-- An instruction's operations in lane order (R227); nothing when one must wait. -/
def rmwAll (x : Env) (k : RmwKind) (p e : Nat) (val cmp : Nat → Nat) : List (Piece × List Seg) → Option (List (Nat × Nat) × Env)
  | [] => some ([], x)
  | (q, sg) :: rest =>
    match rmwOne x k p e (val q.lane) (cmp q.lane) (sg.headD ⟨3, 0, 0, 0, 0⟩) with
    | none => none
    | some (old, x) => (rmwAll x k p e val cmp rest).map fun (os, x) => ((q.lane, old) :: os, x)

/-- Operations on one location that combine into one operand: the integer and bitwise ones without cas (R227). -/
def combines (k : RmwKind) (p : Nat) : Bool := p ≤ 8 && !(k == .det && 10 ≤ p)
/-- The requests of an instruction for locations on peers, location by location (R227). Operations that combine go as one packet: the combined
operand, and for the returns of later lanes what the lanes before them make. Others go as one packet for each lane, in lane order, every one
but the last saying that more of the request follow (log 97). -/
def rmwPeers (x : Env) (k : RmwKind) (p e op : Nat) (ret : Bool) (val cmp : Nat → Nat) (keys : Nat → List Nat) (pat : Nat → List (Nat × Nat × Nat))
    (qs : List (Piece × Seg)) : List Nat × Env :=
  let req := fun (ls : List Piece) (q : Piece) (place pa : Nat) => ({
    type := if k = .atom then 2 else 3, dst := place, part := x.b.part, op := some op, pa := pa, lanes := ls.map (·.lane)
    va := ls.foldl (fun a r => min a r.addr.toNat) q.addr.toNat, patches := pat q.lane } : Remote)
  let send := fun (ts : List Nat) (x : Env) (r : Remote) (det v c : Nat) => let (t, s) := putAtomic x.s r p e det v c; (ts ++ [t], { x with s := s })
  (qs.map fun q => (q.2.place, q.2.pa)).eraseDups.foldl (fun (ts, x) (place, pa) =>
    match (qs.filter fun q => q.2.place == place && q.2.pa == pa).map (·.1) with
    | [] => (ts, x)
    | q :: rest =>
      if combines k p then
        let (v, prior) := rest.foldl (fun (v, pr) r => (atomicVal p e v (val r.lane) 0, pr ++ [(keys r.lane, v)])) (val q.lane, [])
        send ts x { req (q :: rest) q place pa with fold := (p, e), prior := if ret then prior else [] } (b2n (k == .det)) v 0
      else
        (q :: rest).zipIdx.foldl (fun (ts, x) (q, i) => send ts x (req [q] q place pa) (b2n (k == .det) + if i < rest.length then 2 else 0) (val q.lane) (cmp q.lane))
          (ts, x)) ([], x)

/-- atom, atomg, red and red.det (R224 to R227). -/
def rmw (x : Env) (k : RmwKind) (sl c r : BitVec 1) (p : BitVec 4) (i d : BitVec 7) (b : BitVec 3) (wide : Bool) : State :=
  let rc := brec x.g b.toNat
  let op := p.toNat
  let ret := k = .atom && r == 1
  let cas := op = 9
  let code := if wide then gcode d.toNat else if ret then d.toNat else vcode d.toNat
  let idx := if wide then gcode i.toNat else vcode i.toNat
  let dOk := if wide then (if ret then gdOk d else gsOk d) else if ret then dstOk x.g d else srcOk x.g d
  let iOk := if wide then gsOk i else srcOk x.g i
  let e := recSize rc
  let w := regsPer e
  let codes := if validRec rc && (opSizes op).contains e && !(k = .det && inScratch rc) && !(cas && e == 8 && d.toNat % 4 != 0)
    then fitCodes x.g code e (if cas then 2 else 1) else none
  let dests := if ret then (codes.getD [code]).take w else []
  issueMem x wide (dOk && iOk && opAllowed k op && !(cas && d.toNat % 2 == 1)) (idx :: codes.getD [code]) dests sl fun x =>
    let act := x.acting wide
    if act = 0 then (x.skip 4).commit
    else match codes with
    | none => recordTrap x b.toNat
    | some codes =>
      match plumbed x rc b.toNat idx 0 1 (lanesOf act) (fun l => if wide then gsrc x.g i.toNat else vsrc x.g i.toNat l) false (patom rc) with
      | .inl s => s
      | .inr (es, x) =>
        match check x (inScratch rc) .rmw (if c = 0 then 3 else 4) e ret (piecesOf rc es) wide with
        | .inl s => s
        | .inr ck =>
          let num := fun (c : Nat) => if c ≤ 95 then c else c - 128
          let key := fun (l q : Nat) => let n := num (codes.getD q 0); if wide then gkey n else vkey n l
          let opnd := fun (l from' : Nat) => leVal (((List.range w).flatMap fun q => leOut 4 (codeVal x.g (codes.getD (from' + q) 127) l).toNat).take e)
          let o := newOp ck.x (if k = .atom then .atomic ret else .reduction) (flagOf ck.x sl)
          let val := fun l => if cas then opnd l w else opnd l 0
          let cmp := fun l => if cas then opnd l 0 else 0
          let pat := fun l => if ret then (List.range e).map fun n => (n, key l (n / 4), n % 4) else []
          let far := ck.done.filterMap fun (q, sg) => match sg with | g :: _ => if g.tier = 2 then some (q, g) else none | [] => none
          let near := ck.done.filter fun q => !far.any fun w => w.1 == q.1
          match rmwAll ck.x k op e val cmp near with
          | none => stall { ck.x with s := setPreg x.s x.b.part 0x21E (preg x.s x.b.part 0x21E ||| 1) }
          | some (olds, y) =>
            let zeros := es.flatMap fun (l, _, i) => if i.isNone then (List.range w).map fun q => (key l q, (0 : Word)) else []
            let vals := olds.flatMap fun (l, v) => (List.range w).map fun q => (key l q, word (v / 2 ^ (32 * q)))
            let (tags, y) := rmwPeers y k op e o.id ret val cmp (fun l => (List.range w).map (key l)) pat far
            let met := ck.done.foldl (fun g q => noteMet (ck.x.lanesFor wide q.1.lane) (segMarks ck.x q.2) g) y.g
            let y := raceEach { y with g := { met with wrStamp := stampNow y.s } } wide (if c = 0 then 3 else 4) ck.done
            let y := leaveEach y wide none true (ck.done.flatMap fun q => (segBytes q.2).map fun w => (q.1.lane, w))
            let at' := fun (t : Nat) => ck.done.flatMap fun q => q.2.flatMap fun g => if g.tier = t then (List.range g.len).map (g.pa + ·) else []
            let y := y.reload (accepted (accepted y.commit 0 (at' 0) false) 1 (at' 1) false)
            let y := { y with f := { y.f with replay := none } }
            y.settleOp { o with
              pend := dests, vwrites := if ret then kputAll [] (zeros ++ vals) else [], vshadow := if ret && !wide then dests else []
              gshadow := if ret && wide then dests.map num else [], ws := if ret then act &&& ~~~(ck.failed ||| ck.parked) else 0
              zeroed := if ret && !wide then y.helpers else 0, tags := tags, failed := ck.failed, trap := ck.trap
              park := if ck.parked = 0 then none else some (ck.pte, ck.parked), writes := true } ret

/-- ATOM (R225). -/
def execAtom (sl c r : BitVec 1) (p : BitVec 4) (i d : BitVec 7) (b : BitVec 3) (s : State) : Out :=
  withFrag s fun x => rmw x .atom sl c r p i d b false
/-- ATOMG (R225). -/
def execAtomg (sl c r : BitVec 1) (p : BitVec 4) (i d : BitVec 7) (b : BitVec 3) (s : State) : Out :=
  withFrag s fun x => rmw x .atom sl c r p i d b true
/-- RED (R225). -/
def execRed (sl c : BitVec 1) (p : BitVec 4) (i d : BitVec 7) (b : BitVec 3) (s : State) : Out :=
  withFrag s fun x => rmw x .red sl c 0 p i d b false
/-- RED_DET (R226). -/
def execRedDet (sl c : BitVec 1) (p : BitVec 4) (i d : BitVec 7) (b : BitVec 3) (s : State) : Out :=
  withFrag s fun x => rmw x .det sl c 0 p i d b false
/-- ATOMIC_COMPLETION (R225): a returning atomic's old values are written. -/
def execAtomicCompletion (id : Nat) (s : State) : Out := completeIf s id (fun o => o.kind == .atomic true) finish
/-- REDUCTION_COMPLETION (R226): every operation of a reduction or non-returning atomic has been accepted. -/
def execReductionCompletion (id : Nat) (s : State) : Out :=
  completeIf s id (fun o => o.kind == .reduction || o.kind == .atomic false) finish

end Sys2Proof.Machine
end

