-- ==== Sys2Proof/Machine/Records.lean ====
section
/-!
DEFINITION. Record and shadow instructions (R236 to R243).
-/
namespace Sys2Proof.Machine

/-- The record trap at the instruction; its detail names the record register. -/
def badRecord (x : Env) (b : Nat) : State := recordTrap x b
/-- LDREC (R237). -/
def execLdrec (n d : BitVec 3) (s : State) : Out :=
  withFrag s fun x => issue x true [] [] fun x => ((x.bwrite d.toNat (kget 0 x.b.roots n.toNat)).skip 4).commit
/-- The record rsub derives, when the reserved byte is clear (R238), with its first row and column. DESIGN CHOICE (log 84): the spec names no
outcome for an exact offset or base that does not fit its field; there is then no record to be valid or narrower, and rsub raises the record
trap, for an empty result too. -/
def subRec (src : Rec) (w0 w1 w2 w3 : Word) : Option (Rec × Nat × Nat) :=
  let perm := perms src &&& wbits w2 2 0
  if isTile src then
    let fr := w0.toNat
    let fc := wbits w3 11 0
    let off := tOffset src + fr * tPitch src + fc * efmtSize (tEfmt src)
    if 2 ^ 21 ≤ off then none
    else some (mkTile src perm (wbits w2 4 3) (wbits w1 11 0) (wbits w3 27 16) off, fr, fc)
  else
    let base := lBase src + w0.toNat * lStride src
    if wbits w3 31 24 ≠ 0 ∨ 2 ^ 57 ≤ base then none
    else some (mkLinear perm (wbits w3 23 0) w1.toNat (wbits w2 8 5) (wbits w2 4 3) (lSpace src) base, 0, 0)
/-- RSUB (R238). -/
def execRsub (n : BitVec 6) (sr d : BitVec 3) (s : State) : Out :=
  withFrag s fun x =>
    let c := n.toNat
    issue x (c % 4 = 0 && c ≤ 60) ((List.range 4).map fun i => 128 + c + i) [] fun x =>
      let src := brec x.g sr.toNat
      match validRec src, subRec src (greg x.g c) (greg x.g (c + 1)) (greg x.g (c + 2)) (greg x.g (c + 3)) with
      | true, some (r, fr, fc) => if validRec r && narrower src r fr fc then ((x.bwrite d.toNat r).skip 4).commit else badRecord x sr.toNat
      | _, _ => badRecord x sr.toNat
/-- RDREC (R239). -/
def execRdrec (sr : BitVec 3) (d : BitVec 7) (s : State) : Out :=
  withFrag s fun x =>
    let c := d.toNat
    issue x (c % 4 = 0 && c ≤ 60) [] ((List.range 4).map fun i => 128 + c + i) fun x =>
      let r := (brec x.g sr.toNat).toNat
      let x := (List.range 4).foldl (fun (x : Env) i => let v := word (r / 2 ^ (32 * i)); x.gwrite (c + i) v (point (sgn v))) x
      let x := x.wrote ((List.range 4).map (c + ·))
      (x.skip 4).commit

/-! ## Shadows (R236, R240 to R243) -/

/-- The register a select bit and a field name for a minor that writes its shadow, and for one that only reads it (R236). -/
def namedDst (x : Env) (f : BitVec 7) (sel : BitVec 1) : Option Nat :=
  if sel = 1 then (if f.toNat ≤ 63 then some (128 + f.toNat) else none) else if dstOk x.g f then some f.toNat else none
def namedSrc (x : Env) (f : BitVec 7) (sel : BitVec 1) : Option Nat :=
  if sel = 1 then (if f.toNat ≤ 63 then some (128 + f.toNat) else none) else if srcOk x.g f then some (vcode f.toNat) else none
/-- Set a register's shadow as it stands, and drop the verdicts that name it (R74). -/
def setShadow (g : Group) (c : Nat) (s : Shadow) : Group := dropIdx { g with shadows := kput g.shadows c s } c
/-- Widen and pin (R67, R240): an interval with lo > hi is empty. -/
def widen (s : Shadow) (lo hi : Int) : Shadow :=
  if hi < lo then { s with pin := true } else let h := hull s.iv ⟨lo, hi⟩; ⟨h.lo, h.hi, true⟩
/-- IWIDEN (R240). -/
def execIwiden (n f : BitVec 7) (sel : BitVec 1) (s : State) : Out :=
  withFrag s fun x =>
    let c := namedDst x f sel
    issue x (c.isSome && n.toNat % 2 = 0 && n.toNat ≤ 62) [128 + n.toNat, 128 + (n.toNat + 1)] [c.getD 127] fun x =>
      let c := c.getD 127
      let g := setShadow x.g c (widen (shadow x.g c) (sgn (greg x.g n.toNat)) (sgn (greg x.g (n.toNat + 1))))
      ({ x with g := g }.skip 4).commit
/-- IUNPIN (R69, R241). -/
def execIunpin (f : BitVec 7) (sel : BitVec 1) (s : State) : Out :=
  withFrag s fun x =>
    let c := namedDst x f sel
    issue x c.isSome [] [c.getD 127] fun x =>
      ({ x with g := setShadow x.g (c.getD 127) { shadow x.g (c.getD 127) with pin := false } }.skip 4).commit
/-- ITOP (R69, R241). -/
def execItop (f : BitVec 7) (sel : BitVec 1) (s : State) : Out :=
  withFrag s fun x =>
    let c := namedDst x f sel
    issue x c.isSome [] [c.getD 127] fun x =>
      ({ x with g := setShadow x.g (c.getD 127) ⟨minI, maxI, false⟩ }.skip 4).commit
/-- ISHADOW (R242). -/
def execIshadow (f d : BitVec 7) (sel : BitVec 1) (s : State) : Out :=
  withFrag s fun x =>
    let c := namedSrc x f sel
    issue x (c.isSome && d.toNat % 4 = 0 && d.toNat ≤ 60) [] (c.getD 127 :: (List.range 3).map fun i => 128 + d.toNat + i) fun x =>
      let c := c.getD 127
      let x := { x with f := touch x.f c }
      let v := view x.g x.f c
      let nar := c ≤ 95 && x.f.narrow.any (·.reg == c)
      let st := if c = 127 then 0 else b2n (shadow x.g c).pin + 2 * b2n nar
      let x := ((x.gwrite d.toNat (wordI v.lo) top).gwrite (d.toNat + 1) (wordI v.hi) top).gwrite (d.toNat + 2) (word st) top
      ((x.wrote [d.toNat, d.toNat + 1, d.toNat + 2]).skip 4).commit
/-- A register that passed ichk: a narrowing for a v register of a whole fragment, a met shadow for an unpinned g one (R243). -/
def checkedReg (x : Env) (c : Nat) (hi : Int) : Env :=
  let m := meet (view x.g x.f c) ⟨0, hi⟩
  if c ≤ 95 then (if x.f.exec = x.f.members && x.f.exec != 0 then { x with f := narrowTo x.f c m } else x)
  else if c = 127 ∨ (shadow x.g c).pin then x
  else { x with g := { x.g with shadows := kput x.g.shadows c ⟨m.lo, m.hi, false⟩ } }
/-- ICHK (R243). -/
def execIchk (f : BitVec 7) (b : BitVec 3) (sel : BitVec 1) (s : State) : Out :=
  withFrag s fun x =>
    let c := namedSrc x f sel
    issue x c.isSome [c.getD 127] [] fun x =>
      let c := c.getD 127
      let r := brec x.g b.toNat
      if !validRec r then badRecord x b.toNat
      else
        let hi : Int := (extent r : Int) - 1
        let inside := fun (w : Word) => 0 ≤ sgn w && sgn w ≤ hi
        let ok := if c ≤ 95 then (lanesOf x.f.exec).all fun l => inside (vreg x.g c l) else inside (codeVal x.g c 0)
        if ok then ((checkedReg x c hi).skip 4).commit else memTrap x 3 0 0 (word b.toNat)

end Sys2Proof.Machine
end

