-- ==== Sys2Proof/Machine/Matrix.lean ====
section
/-!
DEFINITION. Matrix instructions: tiles in accumulator storage, gangs and keystones, the arithmetic of mma and tmma, and the
movement of tiles (R46 to R49, R54, R106, R107, R115 to R118, R244 to R265).
-/
namespace Sys2Proof.Machine

/-! ## Tiles (R48, R49, R244) -/

/-- fmt.acc, fmt.afmt and fmt.bfmt of a fragment (R41). -/
def fAcc (f : Frag) : Nat := bits f.fmt.toNat 10 9
def fBf (f : Frag) : Nat := bits f.fmt.toNat 8 6
def fAf (f : Frag) : Nat := bits f.fmt.toNat 5 3
/-- No field of fmt holds a reserved value (R42). -/
def fmtOk (f : Frag) : Bool := fAcc f ≤ 2 && fAf f ≤ 4 && (fBf f ≤ 3 || fBf f == 5)
/-- The accumulator format (R41). -/
def accFmt (acc : Nat) : Fmt := match acc with | 0 => fp32 | 1 => bf16 | _ => fp16
/-- A tile name within the group's storage (R48). -/
def tileOk (g : Group) (acc md : Nat) : Bool := if acc = 0 then 2 * md + 1 < g.acch else md < g.acch
/-- The half-slots a tile occupies (R48). -/
def tileHalves (acc md : Nat) : List Nat := if acc = 0 then [2 * md, 2 * md + 1] else [md]
/-- The first 16-bit unit of element (m, n) (R244). -/
def tileUnit (acc md m n : Nat) : Nat := if acc = 0 then 4096 * md + 2 * (64 * m + n) else 2048 * md + 64 * m + n
/-- Bits of an element. -/
def tileBits (g : Group) (acc md m n : Nat) : Nat :=
  let u := tileUnit acc md m n
  if acc = 0 then (kget 0 g.acc u).toNat + 65536 * (kget 0 g.acc (u + 1)).toNat else (kget 0 g.acc u).toNat
/-- The units that hold an element's bits. -/
def tilePut (acc md m n v : Nat) : List (Nat × BitVec 16) :=
  let u := tileUnit acc md m n
  if acc = 0 then [(u, BitVec.ofNat 16 v), (u + 1, BitVec.ofNat 16 (v / 65536))] else [(u, BitVec.ofNat 16 v)]
/-- An element's value. -/
def tileVal (g : Group) (acc md m n : Nat) : FVal := (accFmt acc).decode (tileBits g acc md m n)
/-- An accumulator word with a double-bit error under an element (R54). -/
def tileError (g : Group) (acc md m n : Nat) : Bool := g.accErrors.contains (tileUnit acc md m n / 4)
/-- Accumulator words with a single-bit error under some elements; a read of them corrects and counts them (R54). -/
def tileSingles (g : Group) (acc md : Nat) (es : List (Nat × Nat)) : List Nat :=
  g.accSingles.filter fun w => es.any fun e => tileUnit acc md e.1 e.2 / 4 == w
def Env.tileScrub (x : Env) (acc md : Nat) (es : List (Nat × Nat)) : Env :=
  let ws := tileSingles x.g acc md es
  if ws = [] then x else { x with s := corrected x.s x.core ws.length, g := { x.g with accSingles := x.g.accSingles.filter fun w => !ws.contains w } }
/-- The half-slot of an error among elements an instruction reads. -/
def errorHalf (g : Group) (acc md : Nat) (es : List (Nat × Nat)) : Option Nat :=
  (es.find? fun e => tileError g acc md e.1 e.2).map fun e => tileUnit acc md e.1 e.2 / 2048
/-- The trap of such a read (R54). -/
def accTrap (x : Env) (half : Nat) : State := memTrap x 7 3 0 (word half)
/-- Rows by columns. -/
def grid (rows : List Nat) (cols : List Nat) : List (Nat × Nat) := rows.flatMap fun m => cols.map fun n => (m, n)

/-! ## Busy tiles (R245) -/

/-- Arrivals of a group that wait at the core's keystones. -/
def arrivalsOf (s : State) (k : Nat) : List KArrival :=
  (kget ({} : Core) s.cores (k / 64)).keystones.flatMap fun (_, q) => q.members.filter (·.group == k)
/-- Two sets of half-slots meet. -/
def overlap (a b : List Nat) : Bool := a.any b.contains
/-- A tile is busy for an instruction; `same` names the accumulations that do not hold it: mma or tmma. -/
def busy (x : Env) (hs : List Nat) (same : Option Bool) : Bool :=
  (x.outstanding.any fun o => overlap o.tiles hs &&
    (match o.kind, same with | .matrix m _ _, some t => m.ternary != t | _, _ => true)) ||
  (arrivalsOf x.s x.k).any fun a => overlap (tileHalves (bits a.fmt.toNat 10 9) a.md) hs &&
    (match same with | some t => a.ternary != t | none => true)
/-- Issue of an instruction that names a tile: decode, formats and name, registers, then the wait for a busy tile. -/
def issueTile (x : Env) (sl : BitVec 1) (md : Nat) (ok : Bool) (srcs dsts : List Nat) (same : Option Bool) (m : Env → State) : State :=
  issueOp x (ok && fmtOk x.f && tileOk x.g (fAcc x.f) md) srcs dsts sl fun y =>
    if busy y (tileHalves (fAcc y.f) md) same then stall x else m y

/-! ## Coordinates and bytes of scratchpad tiles (R84, R254, R262) -/

/-- Coordinates lo to lo + n − 1 lie in a dimension that may be circular. -/
def coordsOk (circ : Bool) (ext lo n : Nat) : Bool := if circ then n = 0 || ext != 0 else lo + n ≤ ext
/-- A checked coordinate, modulo its dimension when that is circular. -/
def coord (circ : Bool) (ext i : Nat) : Nat := if circ then i % ext else i
/-- A coordinate resolved against its dimension and a bounds mode: nothing for trap, an index or a mask otherwise (R262). -/
def resolveC (circ : Bool) (ext bm : Nat) (i : Int) : Option (Option Nat) :=
  if circ && ext != 0 then some (some (i % ext).toNat) else resolve bm ext i
/-- Address of an element of a tile at coordinates not yet reduced. -/
def tileElem (r : Rec) (row col : Nat) : Nat := tileAddr r (coord (tRcirc r) (tRows r) row) (coord (tCcirc r) (tCols r) col)
/-- The value of an element's bytes in a tile's format (R101, R106, R218, R261). -/
def elemVal (efmt : Nat) (v : Nat) : FVal :=
  match efmt with
  | 0 => bf16.decode v | 1 => fp16.decode v | 2 => e4m3.decode v | 3 => e5m2.decode v
  | 4 => ofInt (signedOf 1 v) 0 false | 7 => ofInt (signedOf 4 v) 0 false | _ => fp32.decode v
/-- A value rounded to a tile's format (R108, R112, R114). -/
def elemBits (efmt : Nat) (f8ov : Bool) (v : FVal) : Nat :=
  match efmt with
  | 0 => (bf16.encode 0 v).1 | 1 => (fp16.encode 0 v).1 | 2 => e4m3.encodeFp8 0 f8ov v | 3 => e5m2.encodeFp8 0 f8ov v
  | 4 => (toIntSat 0 (-128) 127 v % 256).toNat | 7 => (toIntSat 0 minI maxI v % 2 ^ 32).toNat | _ => (fp32.encode 0 v).1

/-! ## The arithmetic (R106, R107, R115 to R118) -/

/-- An activation byte (R106) and trit i of a weight byte (R107). -/
def activation (b : Byte) : Int := if b = 0x80 then -127 else b.toInt
def trit (b : Byte) (i : Nat) : Int := if 243 ≤ b.toNat then 0 else (b.toNat / 3 ^ i % 3 : Nat) - 1
/-- The products of one output element. -/
def products (af bf e : Nat) (a b : List Byte) : List FVal :=
  (List.range (a.length / e)).map fun k => mulExact (elemVal af (leAt a (k * e) e)) (elemVal bf (leAt b (k * e) e))
/-- Accumulate chunks of q products: the element and whether a rounding overflowed (R115). -/
def chunks (f : Fmt) (q : Nat) : Nat → List FVal → Nat × Bool → Nat × Bool
  | 0, _, r => r
  | n + 1, ps, (acc, ov) =>
    let (c, o1) := f.encode 0 (sumTerms 0 (ps.take q))
    let (v, o2) := f.encode 0 (sumTerms 0 [f.decode acc, f.decode c])
    chunks f q n (ps.drop q) (v, ov || o1 || o2)
/-- mma's element from a row of A bytes and a column of B bytes. -/
def mmaElem (fmt : BitVec 11) (old : Nat) (a b : List Byte) : Nat × Bool :=
  let af := bits fmt.toNat 5 3
  let q := if af ≤ 1 then 4 else 8
  let ps := products af (bits fmt.toNat 8 6) (efmtSize af) a b
  chunks (accFmt (bits fmt.toNat 10 9)) q (ps.length / q) ps (old, false)
/-- tmma's element. -/
def tmmaElem (fmt : BitVec 11) (old : Nat) (a b : List Byte) (sa sb : Word) : Nat × Bool :=
  let f := accFmt (bits fmt.toNat 10 9)
  let s : Int := ((List.range 320).map fun k => activation (a.getD k 0) * trit (b.getD (k / 5) 0) (k % 5)).sum
  let (sg, o1) := fp32.encode 0 (mulExact (f32 sa) (f32 sb))
  let (r, o2) := fp32.encode 0 (sumTerms 0 [f.decode old, mulExact (ofInt s 0 false) (fp32.decode sg)])
  let (v, o3) := if bits fmt.toNat 10 9 = 0 then (r, false) else f.encode 0 (fp32.decode r)
  (v, o1 || o2 || o3)

/-! ## Operands (R252 to R256) -/

/-- K and the extent of B's K coordinate for an instruction and its formats; none for a pair not accepted (R253). -/
def shapeOf (ternary : Bool) (a b acc : Nat) : Option (Nat × Nat) :=
  if ternary then (if a = 4 ∧ b = 5 then some (320, 64) else none)
  else
    let k := if acc = 0 then 1 else 2
    if a ≤ 1 ∧ b ≤ 1 then some (32 * k, 32 * k)
    else if 2 ≤ a ∧ a ≤ 3 ∧ 2 ≤ b ∧ b ≤ 3 then some (64 * k, 64 * k) else none
/-- The address of B's element (kk, n). -/
def bAddr (a : KArrival) (kk n : Nat) : Nat :=
  if a.dir then tileElem a.recB (a.nb + n) (a.kb + kk) else tileElem a.recB (a.kb + kk) (a.nb + n)
/-- The B addresses of an operation, column by column. -/
def bAddrs (a : KArrival) (kB : Nat) : List (List Nat) := (List.range 64).map fun n => (List.range kB).map fun kk => bAddr a kk n
/-- K and B's K extent of an arrival. -/
def KArrival.shape (a : KArrival) : Nat × Nat :=
  (shapeOf a.ternary (bits a.fmt.toNat 5 3) (bits a.fmt.toNat 8 6) (bits a.fmt.toNat 10 9)).getD (0, 0)
/-- Bytes of an element of B. -/
def KArrival.bSize (a : KArrival) : Nat := efmtSize (tEfmt a.recB)
/-- Signatures agree (R250). -/
def sameSig (a b : KArrival) : Bool :=
  a.ternary == b.ternary && bits a.fmt.toNat 10 3 == bits b.fmt.toNat 10 3 && a.recB == b.recB && a.kb == b.kb && a.nb == b.nb &&
  a.dir == b.dir && a.sigB == b.sigB && (!a.ternary || a.recS == b.recS)

/-- Check 3: the first record register of a pair-and-record failure. -/
def matRecords (x : Env) (ternary : Bool) (bA bB bS : Nat) (w0 w1 : Word) : Option Nat :=
  let rA := brec x.g bA
  let rB := brec x.g bB
  let rS := brec x.g bS
  if bitOf w0.toNat 31 || wbits w1 31 12 != 0 then some bA
  else if !(validRec rA && isTile rA && tEfmt rA == fAf x.f) then some bA
  else if !(validRec rB && isTile rB && tEfmt rB == fBf x.f) then some bB
  else if ternary && !(validRec rS && isTile rS && tEfmt rS == 6) then some bS
  else none
/-- Pieces of consecutive columns of a row. -/
def rowPieces (r : Rec) (lane row col n : Nat) : List Piece :=
  (List.range n).map fun k => ⟨lane, k, (tileElem r row (col + k) : Int), efmtSize (tEfmt r)⟩

/-- Rows as the plumb stage resolves them against A's rows (R254). -/
def matRows (x : Env) (rA : Rec) (bA : Nat) (vi : BitVec 7) : Option (List (Nat × Option Int)) × Env :=
  let who := lanesOf x.f.exec
  let v := fun l => vsrc x.g vi.toNat l
  if tRcirc rA then
    (if tRows rA = 0 ∧ who ≠ [] then none else some (who.map fun l => (l, some (sgn (v l) % (tRows rA : Int)))), x)
  else
    match plumb x rA bA (vcode vi.toNat) 0 1 who v false (tRows rA) with
    | (none, g) => (none, { x with g := g })
    | (some es, g) => (some (es.map fun (l, _, i) => (l, i)), { x with g := g })

/-- Checks 3 to 8 of R256 and the gathering of A rows and scales: a trap, or the arrival. -/
def gather (x : Env) (ternary : Bool) (sl : BitVec 1) (md : Nat) (b : BitVec 3) (c : BitVec 4) (vi : BitVec 7) : Sum State (Env × KArrival) :=
  let w0 := greg x.g (2 * c.toNat)
  let w1 := greg x.g (2 * c.toNat + 1)
  let (bS, bB, kb, ka, nb, dir) := (wbits w0 30 28, wbits w0 26 24, wbits w0 23 12, wbits w0 11 0, wbits w1 11 0, bitOf w0.toNat 27)
  match matRecords x ternary b.toNat bB bS w0 w1 with
  | some n => .inl (recordTrap x n)
  | none =>
    let rA := brec x.g b.toNat
    let rB := brec x.g bB
    let rS := brec x.g bS
    let (k, kB) := (shapeOf ternary (fAf x.f) (fBf x.f) (fAcc x.f)).getD (0, 0)
    match matRows x rA b.toNat vi with
    | (none, x) => .inl (memTrap x 3 0 0 (word b.toNat))
    | (some rows, x) =>
      let got := rows.filterMap fun (l, i) => i.map fun i => (l, i)
      let bOk := if dir then coordsOk (tRcirc rB) (tRows rB) nb 64 && coordsOk (tCcirc rB) (tCols rB) kb kB
        else coordsOk (tRcirc rB) (tRows rB) kb kB && coordsOk (tCcirc rB) (tCols rB) nb 64
      let sOk := !ternary || (2 ≤ tRows rS && coordsOk (tCcirc rS) (tCols rS) nb 64 &&
        got.all fun (_, i) => if tCcirc rS then true else 0 ≤ i && i < tCols rS)
      if !coordsOk (tCcirc rA) (tCols rA) ka k then .inl (memTrap x 3 0 0 (word b.toNat))
      else if !bOk then .inl (memTrap x 3 0 0 (word bB))
      else if !sOk then .inl (memTrap x 3 0 0 (word bS))
      else if !pread rA then .inl (memTrap x 4 0 0 (word b.toNat))
      else if !pread rB then .inl (memTrap x 4 0 0 (word bB))
      else if ternary && !pread rS then .inl (memTrap x 4 0 0 (word bS))
      else
        let a : KArrival := {
          group := x.k, entry := x.e, index := x.g.index, ternary := ternary, fmt := x.f.fmt, md := md, flag := flagOf x sl, pc := x.f.pc
          recB := rB, kb := kb, nb := nb, dir := dir, recS := rS, sigB := bB, rows := [], sa := [], sb := [] }
        let pA := got.flatMap fun (l, i) => if i < 0 then [(⟨l, 0, -1, 1⟩ : Piece)] else rowPieces rA l i.toNat ka k
        let pS := if ternary then rowPieces rS 0 0 nb 64 ++ got.flatMap fun (l, i) => rowPieces rS l 1 i.toNat 1 else []
        let qB := (bAddrs a kB).flatMap id
        let pB := qB.map fun (q : Nat) => (⟨0, 0, q, efmtSize (tEfmt rB)⟩ : Piece)
        let a := { a with bLo := qB.foldl min (qB.headD 0), bHi := qB.foldl max 0 + efmtSize (tEfmt rB) }
        match lowestBad (pA ++ pS ++ pB) (outside x true) with
        | some q => .inl (memTrap x 6 2 q)
        | none =>
          match lowestBad (pA ++ pS) (locked x true .load) with
          | some q => .inl (memTrap x 8 0 q)
          | none =>
            let seg := fun (p : Piece) => (⟨3, 0, p.addr.toNat, p.len, 0⟩ : Seg)
            match lowestBad (pA ++ pS) fun p => (segError x (seg p)).isSome with
            | some q => .inl (memTrap x 7 1 q)
            | none =>
              let read := fun (q n : Nat) => mreads x.b.scratch q n
              let row := fun (i : Nat) => (rowPieces rA 0 i ka k).flatMap fun p => read p.addr.toNat p.len
              let w32 := fun (r i : Nat) => word (leVal (read (tileElem rS r i) 4))
              let at' := fun l => (got.find? fun q => q.1 == l).map (·.2.toNat)
              .inr (x, { a with
                read := (pA ++ pS).map fun p => (p.addr.toNat, p.len)
                rows := lanes.map fun l => (at' l).map row
                sa := if ternary then lanes.map fun l => match at' l with | some i => w32 1 i | none => 0 else []
                sb := if ternary then (List.range 64).map fun n => w32 0 (nb + n) else [] })

/-! ## Gangs and keystones (R46, R47, R249 to R251) -/

/-- Members a gang register names. -/
def gangMembers (w : Word) : List Nat := (List.range (wbits w 2 0)).map fun i => wbits w (7 + 4 * i) (4 + 4 * i)
/-- Validity (R47). -/
def gangValid (x : Env) : Bool :=
  let w := x.g.gang
  let n := wbits w 2 0
  let ms := gangMembers w
  2 ≤ n && n ≤ 6 && ms.eraseDups == ms && ms.all (· < x.b.groups) && ms.contains x.g.index && !bitOf w.toNat 3 && wbits w 31 (4 + 4 * n) == 0
def setMask (ms : List Nat) : BitVec 16 := ms.foldl (fun m i => m ||| (1#16 <<< i)) 0
/-- A member's release without joint issue: its flag falls and its fragment stands at the instruction. A group waits at one keystone at most,
so its waiting fragment is the only one it has (R249). -/
def unarrive (s : State) (a : KArrival) : State :=
  { s with groups := kmod s.groups a.group fun g => mapFrags (fun f => if f.wait = .keystone then { f with wait := .none } else f) (lowerFlag g a.flag) }
/-- The gang trap of a waiting member (R251), wherever its fragment stands; a handler that runs goes first, and its own wait ends in a supervisor fault (R342). -/
def gangTrap (s : State) (a : KArrival) (cause : Nat) : State :=
  match (kfind s.groups a.group).bind fun g => bringIn g (·.wait == .keystone) with
  | none => unarrive s a
  | some (e, g) =>
    let s := unarrive { s with groups := kput s.groups a.group g } a
    match envAt s a.group e with
    | none => s
    | some x =>
      let t : Trap := { code := 0x0B, cause := cause, inWait := true, entry := e, pc := a.pc, mask := x.f.exec, next := a.pc + 4 }
      if x.g.bank.any (·.trap.entry == e) then supervisorFault s x.g.block t
      else if x.g.level == .supervisor then { s with groups := kput s.groups a.group { x.g with traps := x.g.traps ++ [t] } }
      else takeTrap x t
/-- Release every member of a keystone with the gang trap and free it. -/
def breakKeystone (s : State) (core n cause : Nat) : State :=
  match kfind (kget ({} : Core) s.cores core).keystones n with
  | none => s
  | some q => q.members.foldl (fun s a => gangTrap s a cause) (modCore s core fun c => { c with keystones := kdel c.keystones n })
/-- Discard a group's arrival: a trap of its waiting fragment, or pre-emption, ends the wait (R251). -/
def dropArrival (s : State) (k : Nat) : State :=
  let qs := (kget ({} : Core) s.cores (k / 64)).keystones
  match qs.findSome? fun (n, q) => if q.block = (kget ({} : Group) s.groups k).block then (q.members.find? fun a => a.group == k).map fun a => (n, q, a) else none with
  | none => s
  | some (n, q, a) =>
    let rest := q.members.filter fun b => b.group != k
    unarrive (modCore s (k / 64) fun c => { c with
      keystones := if rest = [] then kdel c.keystones n else kput c.keystones n { q with members := rest, jointDue := false } }) a
/-- A group of a block has ended: the keystones that name it release their members (R251). -/
def gangEnded (s : State) (core block index : Nat) : State :=
  let ns := (kget ({} : Core) s.cores core).keystones.filterMap fun (n, q) => if q.block = block ∧ q.set.getLsbD index then some n else none
  ns.foldl (fun s n => breakKeystone s core n 0) s

/-- The range-lock table has a free entry (R136). -/
def lockFree (s : State) (core n : Nat) : Bool := (kget ({} : Core) s.cores core).locks.length + n ≤ 64
/-- Joint issue: the B bytes enter the buffer, their hull is locked, and each member's operation begins, in increasing group
index (R250, R257); `ganged` members wait at a keystone and go on. -/
def jointIssue (s : State) (core block : Nat) (ganged : Bool) (ms : List KArrival) : State :=
  match ms with
  | [] => s
  | a :: _ =>
    let b := kget ({} : Block) s.blocks block
    let e := a.bSize
    let addrs := bAddrs a a.shape.2
    let all := addrs.flatMap id
    let bytes := all.flatMap fun q => mreads b.scratch q e
    let words := (all.flatMap fun q => [q / 8, (q + e - 1) / 8]).eraseDups.filter b.spErrors.contains
    let cols := (addrs.zipIdx.filter fun (as, _) => as.any fun q => words.contains (q / 8) || words.contains ((q + e - 1) / 8)).map (·.2)
    let s := scrubbed s block (all.map fun q => (q, e))
    let jid := s.fresh
    let lo := all.foldl min (all.headD 0)
    let hi := all.foldl max 0 + e
    let s := modCore { s with fresh := s.fresh + 1 } core fun c => { c with
      locks := c.locks ++ [{ block := block, owner := jid, matrix := true, scratch := true, part := b.part, lo := lo, hi := hi, role := .matB }]
      uncorrected := c.uncorrected + words.length
      lastErr := match words.getLast? with | some w => 8 * w | none => c.lastErr }
    let order := (List.range 16).flatMap fun i => ms.filter (·.index == i)
    order.foldl (fun s m =>
      match kfind s.groups m.group with
      | none => s
      | some g =>
        let op : Op := { id := s.fresh, kind := .matrix m bytes cols, group := m.group, gid := g.gid, entry := m.entry, pc := m.pc
                         flag := m.flag, tiles := tileHalves (bits m.fmt.toNat 10 9) m.md, dest := jid, part := b.part, next := m.pc + 4 }
        let go := fun (f : Frag) => if ganged ∧ f.wait = .keystone then { f with wait := .none, pc := m.pc + 4, reached := s.clock } else f
        { s with ops := s.ops ++ [op], fresh := s.fresh + 1, groups := kput s.groups m.group (mapFrags go g) }) s

/-- The arrival of a member whose checks have passed (R249). DESIGN CHOICE (log 128): of two keystones with different sets that both name the arriving
group the lowest-numbered breaks, and a set that names an ended group takes cause 0 alone, whatever keystone it overlaps (R251). -/
def arriveGang (x : Env) (a : KArrival) : State :=
  let ms := gangMembers x.g.gang
  let set := setMask ms
  let core := kget ({} : Core) x.s.cores x.core
  let mine := core.keystones.filter fun (_, q) => q.block == x.g.block
  let gang := fun (y : Env) (cause : Nat) => takeTrap y { code := 0x0B, cause := cause, pc := y.f.pc, mask := y.f.exec, next := y.f.pc + 4 }
  let wait := fun (y : Env) => { y with g := raiseFlag y.g a.flag, f := { y.f with wait := .keystone } }
  let put := fun (s : State) (n : Nat) (q : Keystone) => modCore s x.core fun c => { c with keystones := kput c.keystones n q }
  if ms.any fun i => !x.b.alive.getLsbD i then
    let s := gang x 0
    match mine.find? fun (_, q) => q.set == set with | some (n, _) => breakKeystone s x.core n 0 | none => s
  else match mine.find? fun (_, q) => q.set == set with
    | some (n, q) =>
      if q.members.any (·.group == x.k) then stall x
      else
        let q := { q with members := q.members ++ [a] }
        let y := wait x
        let y := { y with s := put y.s n q }
        if q.members.length < ms.length then y.commit
        else if q.members.all (sameSig a) then { y with s := put y.s n { q with jointDue := true } }.commit
        else breakKeystone y.commit x.core n 3
    | none =>
      match mine.find? fun (_, q) => q.set.getLsbD x.g.index with
      | some (n, _) => breakKeystone (gang x 2) x.core n 2
      | none =>
        match (List.range 4).find? fun n => (kfind core.keystones n).isNone with
        | none => stall x
        | some n =>
          let y := wait x
          { y with s := put y.s n { block := x.g.block, set := set, members := [a] } }.commit

/-- mma and tmma (R252 to R258). -/
def matmul (x : Env) (ternary : Bool) (sl : BitVec 1) (md : Nat) (b : BitVec 3) (c : BitVec 4) (vi : BitVec 7) : State :=
  let ok := srcOk x.g vi && (shapeOf ternary (fAf x.f) (fBf x.f) (fAcc x.f)).isSome
  let srcs := [vcode vi.toNat, 128 + 2 * c.toNat, 128 + (2 * c.toNat + 1)]
  issueTile x sl md ok srcs [] (some ternary) fun y =>
    let ganged := wbits y.g.gang 2 0 != 0
    if ganged && !gangValid y then takeTrap y { code := 0x0B, cause := 1, pc := y.f.pc, mask := y.f.exec, next := y.f.pc + 4 }
    else match gather y ternary sl md b c vi with
      | .inl s => s
      | .inr (z, a) =>
        let read := fun (t : State) => if t.stalled then t else scrubbed t z.g.block (a.read)
        if ganged then read (arriveGang z a)
        else if !lockFree z.s z.core 1 then stall x
        else
          let z := { z with g := raiseFlag z.g a.flag }
          read (jointIssue (z.skip 4).commit z.core z.g.block false [a])

/-! ## Moving tiles (R260 to R265) -/

/-- Status bits a rounding leaves: NaN, and overflow of a finite value. -/
def statusOf (f : Fmt) (r : Nat × Bool) : Nat := b2n (f.decode r.1 == .nan) + 2 * b2n r.2
/-- OR of status words. -/
def orAll (l : List Nat) : Nat := l.foldl (· ||| ·) 0
/-- Start an operation on a tile and go on; one that writes the tile makes it busy (R245). -/
def startTile (x : Env) (sl : BitVec 1) (md : Nat) (zero writes : Bool) (fill : Op → Op) : State :=
  let hs := if writes then tileHalves (fAcc x.f) md else []
  ((x.start (fill { newOp x (.tile md zero) (flagOf x sl) with tiles := hs, dest := fAcc x.f })).skip 4).commit
/-- The pair of mld and mst, once its reserved bits and the record pass (R261): row0, col0 and the scale. -/
def tileRecord (x : Env) (b c : Nat) : Option (Rec × Nat × Nat × FVal) :=
  let w := greg x.g (2 * c)
  let r := brec x.g b
  if wbits w 31 24 = 0 && validRec r && isTile r && tEfmt r != 5 then some (r, wbits w 11 0, wbits w 23 12, f32 (greg x.g (2 * c + 1))) else none
/-- Checks of scratchpad bytes: range, locks, bytes that an arrival of the group has still to read, and errors; a trap or a wait, or nothing. -/
def scratchBad (x : Env) (k : AccKind) (data : Bool) (ps : List Piece) : Option State :=
  match lowestBad ps (outside x true), lowestBad ps (locked x true k) with
  | some a, _ => some (memTrap x 6 2 a)
  | none, some a => some (memTrap x 8 0 a)
  | none, none =>
    if unreadB x true k ps then some (stall x)
    else if !data then none
    else (lowestBad ps fun p => (segError x ⟨3, 0, p.addr.toNat, p.len, 0⟩).isSome).map fun a => memTrap x 7 1 a

/-- mld (R262). -/
def tileLoad (x : Env) (sl : BitVec 1) (md b c : Nat) (t : Bool) : State :=
  issueTile x sl md true [128 + 2 * c, 128 + (2 * c + 1)] [] none fun y =>
    match tileRecord y b c with
    | none => recordTrap y b
    | some (r, row0, col0, scale) =>
      let e := efmtSize (tEfmt r)
      let cells := (grid lanes (List.range 64)).map fun (m, n) =>
        let (i, j) := if t then (n, m) else (m, n)
        (m, n, resolveC (tRcirc r) (tRows r) (bmode r) (row0 + i : Nat), resolveC (tCcirc r) (tCols r) (bmode r) (col0 + j : Nat))
      if cells.any fun (_, _, i, j) => i.isNone || j.isNone then memTrap y 3 0 0 (word b)
      else if !pread r then memTrap y 4 0 0 (word b)
      else
        let addr := fun (i j : Option (Option Nat)) => match i, j with | some (some i), some (some j) => some (tileAddr r i j) | _, _ => none
        let ps := cells.filterMap fun (m, n, i, j) => (addr i j).map fun a => (⟨m, n, (a : Int), e⟩ : Piece)
        match scratchBad y .load true ps with
        | some s => s
        | none =>
          let y := y.scrub (ps.map fun p => (p.addr.toNat, p.len))
          let acc := fAcc y.f
          let out := cells.map fun (m, n, i, j) =>
            let v := match addr i j with | some a => elemVal (tEfmt r) (leVal (mreads y.b.scratch a e)) | none => .fin false 0 0
            (m, n, (accFmt acc).encode 0 (mulExact v scale))
          startTile y sl md false true fun o => { o with
            awrites := out.flatMap fun (m, n, v) => tilePut acc md m n v.1
            status := [(md, word (orAll (out.map fun q => statusOf (accFmt acc) q.2.2)))] }

/-- mst (R263): `idx` is the index register, if any. -/
def tileStore (x : Env) (sl : BitVec 1) (md b c : Nat) (add : Bool) (idx : Option Nat) : State :=
  let ok := match idx with | some v => nameable x.g v | none => true
  issueTile x sl md ok ([128 + 2 * c, 128 + (2 * c + 1)] ++ (match idx with | some v => [v] | none => [])) [] none fun y =>
    match tileRecord y b c with
    | none => recordTrap y b
    | some (r, row0, col0, scale) =>
      let e := efmtSize (tEfmt r)
      let ms := match idx with | some _ => lanesOf y.f.exec | none => lanes
      let rowOf := fun (m : Nat) => match idx with | some v => sgn (vreg y.g v m) + row0 | none => (row0 + m : Nat)
      let rows := ms.map fun m => (m, resolveC (tRcirc r) (tRows r) (bmode r) (rowOf m))
      let cols := (List.range 64).map fun n => (n, resolveC (tCcirc r) (tCols r) (bmode r) (col0 + n : Nat))
      if rows.any (fun q => q.2.isNone) || cols.any (fun q => q.2.isNone) then memTrap y 3 0 0 (word b)
      else if !(pwrite r && (!add || pread r)) then memTrap y 4 0 0 (word b)
      else
        let cells := rows.flatMap fun (m, i) => cols.filterMap fun (n, j) =>
          match i, j with | some (some i), some (some j) => some (m, n, tileAddr r i j) | _, _ => none
        match scratchBad y .store add (cells.map fun (m, n, a) => (⟨m, n, (a : Int), e⟩ : Piece)) with
        | some s => s
        | none =>
          let acc := fAcc y.f
          match errorHalf y.g acc md (cells.map fun (m, n, _) => (m, n)) with
          | some h => accTrap y h
          | none =>
            let y := y.tileScrub acc md (cells.map fun (m, n, _) => (m, n))
            let y := if add then y.scrub (cells.map fun (_, _, a) => (a, e)) else y
            let f8ov := y.f.fmt.getLsbD 2
            let y := cells.foldl (fun (y : Env) (m, n, a) =>
              let v := mulExact (tileVal y.g acc md m n) scale
              let v := if add then sumTerms 0 [elemVal (tEfmt r) (leVal (mreads y.b.scratch a e)), v] else v
              y.scratchWrite (cellsAt a (leOut e (elemBits (tEfmt r) f8ov v)))) y
            let whole := fun (w : Nat) => (List.range 8).all fun i => cells.any fun (_, _, a) => a ≤ 8 * w + i && 8 * w + i < a + e
            let y := { y with g := { y.g with wrStamp := stampNow y.s }
                              b := { y.b with spErrors := y.b.spErrors.filter (fun w => !whole w), spSingles := y.b.spSingles.filter fun w => !whole w } }
            let y := leaveMarks y y.f.exec none false (cells.flatMap fun (_, _, a) => (List.range e).map fun i => (3, 0, a + i))
            startTile y sl md false false id

/-- mrd (R264): the bits of an FP32 tile, and a narrow tile's values widened. -/
def tileRead (x : Env) (sl : BitVec 1) (md : Nat) (d : BitVec 7) (q : Nat) : State :=
  let ds := (List.range 8).map (d.toNat + ·)
  issueTile x sl md (d.toNat + 7 ≤ 95 && ds.all (nameable x.g)) [] ds none fun y =>
    let acc := fAcc y.f
    let who := lanesOf (y.f.exec ||| y.helpers)
    match errorHalf y.g acc md (grid who ((List.range 8).map (8 * q + ·))) with
    | some h => accTrap y h
    | none =>
      let y := y.tileScrub acc md (grid who ((List.range 8).map (8 * q + ·)))
      startTile y sl md false false fun o => { o with
        pend := ds, vshadow := ds, ws := y.f.exec, zeroed := y.helpers
        vwrites := kputAll [] ((List.range 8).flatMap fun j => who.map fun l =>
          (vkey (d.toNat + j) l, if acc = 0 then word (tileBits y.g acc md l (8 * q + j)) else toF32 0 (tileVal y.g acc md l (8 * q + j)))) }

/-- mwr (R265). -/
def tileWrite (x : Env) (sl : BitVec 1) (md : Nat) (v : BitVec 7) (q : Nat) : State :=
  let vs := if v = 127 then [127] else (List.range 8).map (v.toNat + ·)
  let ok := v = 127 || (v.toNat + 7 ≤ 95 && vs.all (nameable x.g))
  issueTile x sl md ok vs [] none fun y =>
    let acc := fAcc y.f
    let out := (grid (lanesOf y.f.exec) (List.range 8)).map fun (l, j) =>
      (l, 8 * q + j, (accFmt acc).encode 0 (f32 (if v = 127 then 0 else vreg y.g (v.toNat + j) l)))
    startTile y sl md false true fun o => { o with
      awrites := out.flatMap fun (m, n, r) => tilePut acc md m n r.1
      status := [(md, word (orAll (out.map fun q => statusOf (accFmt acc) q.2.2)))] }

/-! ## The instructions -/

/-- GANG (R248). -/
def execGang (a : BitVec 7) (s : State) : Out :=
  withFrag s fun x => issue x (gsOk a) [gcode a.toNat] [] fun x =>
    ({ x with g := { x.g with gang := gsrc x.g a.toNat } }.skip 4).commit
/-- MMA (R252 to R258). -/
def execMma (sl : BitVec 1) (m : BitVec 5) (b : BitVec 3) (c : BitVec 4) (v : BitVec 7) (s : State) : Out :=
  withFrag s fun x => matmul x false sl m.toNat b c v
/-- TMMA (R252 to R258). -/
def execTmma (sl : BitVec 1) (m : BitVec 5) (b : BitVec 3) (c : BitVec 4) (v : BitVec 7) (s : State) : Out :=
  withFrag s fun x => matmul x true sl m.toNat b c v
/-- MZERO (R260). -/
def execMzero (sl : BitVec 1) (m : BitVec 5) (s : State) : Out :=
  withFrag s fun x => issueTile x sl m.toNat true [] [] none fun x => startTile x sl m.toNat true true id
/-- MLD (R261, R262). -/
def execMld (sl : BitVec 1) (m : BitVec 5) (b : BitVec 3) (c : BitVec 5) (t : BitVec 1) (s : State) : Out :=
  withFrag s fun x => tileLoad x sl m.toNat b.toNat c.toNat (t == 1)
/-- MST (R261, R263). -/
def execMst (sl : BitVec 1) (m : BitVec 5) (b : BitVec 3) (c : BitVec 5) (a : BitVec 1) (i : BitVec 6) (s : State) : Out :=
  withFrag s fun x => tileStore x sl m.toNat b.toNat c.toNat (a == 1) (if i = 63 then none else some i.toNat)
/-- MRD (R264). -/
def execMrd (sl : BitVec 1) (m : BitVec 5) (d : BitVec 7) (q : BitVec 3) (s : State) : Out :=
  withFrag s fun x => tileRead x sl m.toNat d q.toNat
/-- MRD_ST (R264): the status word, read at issue. -/
def execMrdSt (sl : BitVec 1) (m : BitVec 5) (d : BitVec 7) (s : State) : Out :=
  withFrag s fun x => issueTile x sl m.toNat (gdOk d) [] [128 + d.toNat] none fun y =>
    startTile y sl m.toNat false false fun o => { o with
      pend := [128 + d.toNat], gshadow := [d.toNat], ws := 1, vwrites := [(gkey d.toNat, kget 0 y.g.tstatus m.toNat)] }
/-- MWR (R265). -/
def execMwr (sl : BitVec 1) (m : BitVec 5) (v : BitVec 7) (q : BitVec 3) (s : State) : Out :=
  withFrag s fun x => tileWrite x sl m.toNat v q.toNat

/-! ## Events -/

/-- KEYSTONE_JOINT_ISSUE (R250): once every member has arrived with one signature and the table has an entry for B. -/
def execKeystoneJointIssue (core n : Nat) (s : State) : Out :=
  .next (match kfind (kget ({} : Core) s.cores core).keystones n with
    | some q =>
      if q.jointDue && lockFree s core 1 then
        jointIssue (modCore s core fun c => { c with keystones := kdel c.keystones n }) core q.block true q.members
      else s
    | none => s)
/-- B_STREAM_END (R257): the last byte of B has been read, and its lock ends. -/
def execBStreamEnd (id : Nat) (s : State) : Out :=
  .next { s with cores := kmap (fun _ c => { c with locks := c.locks.filter fun l => !(l.matrix && l.owner == id) }) s.cores }
/-- The elements an operation gives its tile, with the status bits and the half-slots whose errors it met (R54, R115 to R118, R257). -/
def matResult (g : Group) (a : KArrival) (b : List Byte) (bad : List Nat) : List (Nat × Nat × Nat) × Nat × List Nat :=
  let acc := bits a.fmt.toNat 10 9
  let f := accFmt acc
  let len := a.bSize * a.shape.2
  let rows := a.rows.zipIdx.filterMap fun (r, m) => r.map fun bs => (m, bs)
  let out := rows.flatMap fun (m, bs) => (List.range 64).map fun n =>
    let old := tileBits g acc a.md m n
    let err := tileError g acc a.md m n
    let col := (b.drop (n * len)).take len
    if err || bad.contains n then (m, n, f.nanEnc, 1, if err then some (tileUnit acc a.md m n / 2048) else none)
    else
      let r := if a.ternary then tmmaElem a.fmt old bs col (a.sa.getD m 0) (a.sb.getD n 0) else mmaElem a.fmt old bs col
      (m, n, r.1, statusOf f r, none)
  let odd := if a.ternary && b.any (fun q => 243 ≤ q.toNat) then 4 else 0
  (out.map fun (m, n, v, _, _) => (m, n, v), orAll (odd :: out.map fun (_, _, _, t, _) => t), (out.filterMap fun (_, _, _, _, h) => h).eraseDups)
/-- Write units of accumulator storage: words written whole lose their errors (R54). -/
def accWrite (g : Group) (us : List (Nat × BitVec 16)) : Group :=
  let stays := fun (w : Nat) => !((List.range 4).all fun i => us.any fun u => u.1 == 4 * w + i)
  { g with acc := kputAll g.acc us, accErrors := g.accErrors.filter stays, accSingles := g.accSingles.filter stays }
/-- Add status bits to a tile's status word. -/
def addStatus (g : Group) (md st : Nat) : Group := { g with tstatus := kput g.tstatus md (kget 0 g.tstatus md ||| word st) }
/-- MATRIX_COMPLETION (R258): after the B stream, in issue order on a tile; the tile is written whole. -/
def execMatrixCompletion (id : Nat) (s : State) : Out :=
  completeIf s id (fun o => (match o.kind with | .matrix _ _ _ => true | _ => false) &&
      !((kget ({} : Core) s.cores (o.group / 64)).locks.any fun l => l.matrix && l.owner == o.dest) &&
      !((earlier s o).any fun q => overlap q.tiles o.tiles)) fun s o =>
    match o.kind, kfind s.groups o.group with
    | .matrix a b bad, some g =>
      let (es, st, errs) := matResult g a b bad
      let s := if g.gid = o.gid then corrected s (o.group / 64) (tileSingles g (bits a.fmt.toNat 10 9) a.md (es.map fun (m, n, _) => (m, n))).length else s
      let g := accWrite g (es.flatMap fun (m, n, v) => tilePut (bits a.fmt.toNat 10 9) a.md m n v)
      let s := { s with groups := if g.gid = o.gid then kput s.groups o.group (addStatus g a.md st) else s.groups }
      finish (modCore s (o.group / 64) fun c => { c with uncorrected := c.uncorrected + errs.length, lastErr := (errs.getLast?).getD c.lastErr }) o
    | _, _ => finish s o
/-- TILE_OP_COMPLETION (R258, R260): the tile or the registers are written. -/
def execTileOpCompletion (id : Nat) (s : State) : Out :=
  completeIf s id (fun o => (match o.kind with | .tile _ _ => true | _ => false)) fun s o =>
    match o.kind, kfind s.groups o.group with
    | .tile md zero, some g =>
      if g.gid ≠ o.gid then finish s o
      else
        let inTile := fun (u : Nat) => o.tiles.contains (u / 2048)
        let g := if zero then { g with acc := g.acc.filter (fun u => !inTile u.1), tstatus := kput g.tstatus md 0
                                       accErrors := g.accErrors.filter (fun w => !inTile (4 * w)), accSingles := g.accSingles.filter fun w => !inTile (4 * w) }
          else o.status.foldl (fun g (n, w) => addStatus g n w.toNat) (accWrite g o.awrites)
        finish (wakeAll { s with groups := kput s.groups o.group g }) o
    | _, _ => finish s o

end Sys2Proof.Machine
end

