-- ==== Sys2Proof/Machine/Copy.lean ====
section
/-!
DEFINITION. The copy engine: commands, descriptors and their checks, transfers with their watermark, faults and aborts;
completion counters; and static copy schedules (R266 to R286, R134, R135, R464).
-/
namespace Sys2Proof.Machine

/-! ## Descriptors and commands (R268, R269) -/

def dDir (d : List Byte) : Bool := bitOf (leAt d 0 4) 20
def dCirc (d : List Byte) (i : Nat) : Bool := bitOf (leAt d 0 4) (15 + i)
def dEs (d : List Byte) : Nat := 2 ^ bits (leAt d 0 4) 14 12
def dRank (d : List Byte) : Nat := bits (leAt d 0 4) 2 0
def dExt (d : List Byte) (i : Nat) : Nat := leAt d (4 + 4 * i) 4
def dStride (d : List Byte) (i : Nat) : Nat := leAt d (20 + 4 * i) 4
/-- A box size; dimensions at or above rank count as 1. -/
def dBox (d : List Byte) (i : Nat) : Nat := if i < dRank d then leAt d (40 + 2 * i) 2 else 1
def dPitch (d : List Byte) : Nat := let p := bits (leAt d 52 4) 20 0; if p = 0 then dEs d * dBox d 0 else p
/-- Elements of the box, and its byte count N (R273). -/
def dElems (d : List Byte) : Nat := dBox d 0 * dBox d 1 * dBox d 2 * dBox d 3 * dBox d 4
def dBytes (d : List Byte) : Nat := dEs d * dElems d
/-- Validity (R268). -/
def validDesc (d : List Byte) : Bool :=
  leAt d 56 8 == 0 && bits (leAt d 52 4) 31 21 == 0 && leAt d 50 2 == 0 && bits (leAt d 0 4) 31 21 == 0 && bits (leAt d 0 4) 11 3 == 0 &&
  1 ≤ dRank d && dRank d ≤ 5 && bits (leAt d 0 4) 14 12 ≤ 4 && (List.range (dRank d)).all (fun i => 1 ≤ dExt d i) && dBytes d ≤ 2097152

/-- Register `i` of a command. -/
def cmd (c : List Word) (i : Nat) : Word := c.getD i 0
def cSr (c : List Word) : Nat := wbits (cmd c 1) 23 12
/-- Record registers a command names: bT, bG, bP, bC. -/
def cT (c : List Word) : Nat := wbits (cmd c 1) 2 0
def cG (c : List Word) : Nat := wbits (cmd c 1) 5 3
def cP (c : List Word) : Nat := wbits (cmd c 1) 8 6
def cC (c : List Word) : Nat := wbits (cmd c 1) 11 9

/-- Where an element of the box lies: its global address, none when masked, and its scratchpad address (R270). -/
structure Elem where
  t : Nat
  g : Option Nat
  sa : Nat
  deriving DecidableEq, Repr

/-- Coordinates of the box's element `t`, i0 fastest. -/
def boxAt (d : List Byte) (t : Nat) : List Nat :=
  let b := dBox d
  [t % b 0, t / b 0 % b 1, t / (b 0 * b 1) % b 2, t / (b 0 * b 1 * b 2) % b 3, t / (b 0 * b 1 * b 2 * b 3)]
/-- Coordinates of an element in the tensor: nothing for a trap; a masked one names none. -/
def tensorAt (d : List Byte) (bm : Nat) (c : List Word) (is : List Nat) : Option (Option (List Nat)) :=
  (List.range (dRank d)).foldl (fun acc i =>
    match acc with
    | none => none
    | some l =>
      match resolveC (dCirc d i) (dExt d i) bm (sgn (cmd c (3 + i)) + (is.getD i 0 : Nat)), l with
      | none, _ => none
      | some (some x), some xs => some (some (xs ++ [x]))
      | some _, _ => some none) (some (some []))
/-- An element's place; nothing when its coordinate traps. -/
def elemPlace (d : List Byte) (c : List Word) (rG rP : Rec) (t : Nat) : Option Elem :=
  let is := boxAt d t
  let row := is.getD 1 0 + dBox d 1 * (is.getD 2 0 + dBox d 2 * (is.getD 3 0 + dBox d 3 * is.getD 4 0))
  let sa :=
    if isTile rP then tileAddr rP (coord (tRcirc rP) (tRows rP) (cSr c + row)) (is.getD 0 0)
    else lBase rP + dEs d * is.getD 0 0 + dPitch d * row
  (tensorAt d (bmode rG) c is).map fun xs =>
    ⟨t, xs.map fun xs => lBase rG + dEs d * xs.getD 0 0 + ((List.range 4).map fun i => dStride d (i + 1) * xs.getD (i + 1) 0).sum, sa⟩
/-- Tile rows of the box lie below the tile's, or wrap (R270). -/
def rowsOk (d : List Byte) (c : List Word) (rP : Rec) : Bool :=
  !isTile rP || (if tRcirc rP then tRows rP != 0 else cSr c + dBox d 1 * dBox d 2 * dBox d 3 * dBox d 4 ≤ tRows rP)
/-- Elements from the watermark on. -/
def Copy.elems (c : Copy) : List Elem :=
  let n := dElems c.desc
  let k := c.w / dEs c.desc
  (List.range' k (n - k)).filterMap fun t => elemPlace c.desc c.command c.recG c.recP t

/-! ## Range locks of a copy (R274) -/

/-- The hull of intervals of `n` bytes. -/
def hullOf (as : List Nat) (n : Nat) : Nat × Nat := match as with | [] => (0, 0) | a :: t => (t.foldl min a, t.foldl max a + n)
def copyLocks (b : Block) (bid n : Nat) (c : Copy) : List RangeLock :=
  let es := (List.range (dElems c.desc)).filterMap fun t => elemPlace c.desc c.command c.recG c.recP t
  let (glo, ghi) := hullOf (es.filterMap (·.g)) (dEs c.desc)
  let (slo, shi) := hullOf (es.map (·.sa)) (dEs c.desc)
  let mk := fun (sc : Bool) (lo hi : Nat) (r : LockRole) => ({ block := bid, owner := n, matrix := false, scratch := sc, part := b.part, lo := lo, hi := hi, role := r } : RangeLock)
  let dir := dDir c.desc
  [mk false glo ghi (if dir then .dst else .src), mk true slo shi (if dir then .src else .dst)]
def addLocks (s : State) (core : Nat) (ls : List RangeLock) : State := modCore s core fun c => { c with locks := c.locks ++ ls }
def dropLocks (s : State) (core bid n : Nat) : State :=
  modCore s core fun c => { c with locks := c.locks.filter fun l => !(l.block == bid && l.owner == n && !l.matrix) }

/-! ## The checks of a copy (R272) -/

/-- The outcome of the checks: a trap, a page that migrates, or the copy. -/
inductive CopyCheck
  | bad (t : Trap)
  | park (pte : Nat)
  | ok (c : Copy)

/-- Address of a counter (R464: any index outside the extent has trapped before). -/
def counterVa (r : Rec) (i : Word) : Int := elemAt r (sgn i)
/-- Translate a piece: its segments, or the failing outcome with the address. -/
def place (s : State) (core part : Nat) (lvl : Level) (acc : Acc) (p : Piece) : (Sum Xlate (List Seg)) × State :=
  let (tr, s) := translateAll s core part lvl acc (pagesOf p)
  match failOf tr p with | some e => (.inl e, s) | none => (.inr (segsOf tr p), s)

/-- Sixty-four bytes an element of a record holds, read at issue: range, translation and data errors (R268, R272 row 3). -/
def fetch64 (s : State) (core : Nat) (b : Block) (lvl : Level) (r : Rec) (a : Nat) : (Sum CopyCheck (List Byte)) × State :=
  let trap := fun (code cause addr : Nat) (_ : Nat) => CopyCheck.bad { code := code, cause := cause, addr := addr }
  if inScratch r then
    if b.spsize < a + 64 then (.inl (trap 6 2 a 0), s)
    else if b.spErrors.any fun w => a / 8 ≤ w && w < a / 8 + 8 then (.inl (trap 7 1 a 0), s)
    else (.inr (mreads b.scratch a 64), s)
  else if 2 ^ 57 < a + 64 then (.inl (trap 6 2 a 0), s)
  else
    match place s core b.part lvl .read ⟨0, 0, a, 64⟩ with
    | (.inl (.park q), s) => (.inl (.park q), s)
    | (.inl (.trap code u), s) => (.inl (trap code u a 0), s)
    | (.inl _, s) => (.inl (trap 5 0 a 0), s)
    | (.inr sg, s) =>
      let blk := sg.flatMap fun g => if g.tier = 0 then (List.range (g.len / 64 + 2)).filterMap fun i =>
        let n := g.pa / 64 + i; if 64 * n < g.pa + g.len then some n else none else []
      if blk.any s.badBlocks.contains then (.inl (trap 7 1 a 0), s)
      else
        let from' := fun (g : Seg) => if g.tier = 2 then g.place * 2 ^ 52 + g.pa else g.pa
        let lost := sg.any fun g => g.tier == 2 && (List.range g.len).any fun i => (Config.peerByte s.clock (from' g + i)).isNone
        if blk.any s.poison.contains || lost || sg.any (fun g => g.tier == 1 && (List.range g.len).any fun i => badByte s 1 (g.pa + i)) then (.inl (trap 7 0 a 0), s)
        else (.inr (sg.flatMap fun g => physRead s g.tier (from' g) g.len), s)

/-- Rows 2 to 8 of R272, for a command over four records. -/
def copyCheck (s : State) (k : Nat) (b : Block) (lvl : Level) (c : List Word) (rT rG rP rC : Rec) : CopyCheck × State :=
  let core := k / 64
  let trap := fun (code cause addr : Nat) (det : Nat) => CopyCheck.bad { code := code, cause := cause, addr := addr, detail := word det }
  let lin := fun (r : Rec) => validRec r && !isTile r
  let dAddr := lBase rT + (cmd c 0).toNat * lStride rT
  let row2 := if !(lin rT && 64 ≤ lStride rT && lStride rT % 8 == 0 && lBase rT % 8 == 0 && inReach rT dAddr 64) then some (cT c)
    else if !(lin rG && !inScratch rG) then some (cG c)
    else if !(validRec rP && inScratch rP) then some (cP c)
    else if !(lin rC && lEsize rC == 3) then some (cC c)
    else if wbits (cmd c 1) 31 24 != 0 || (!isTile rP && cSr c != 0) then some (cP c)
    else none
  match row2 with
  | some n => (trap 0x13 0 0 n, s)
  | none =>
    if !pread rT then (trap 4 0 0 (cT c), s)
    else
      let got := fetch64 s core b lvl rT dAddr
      match got with
      | (.inl r, s) => (r, s)
      | (.inr d, s) =>
        if !(validDesc d && (!isTile rP || (efmtSize (tEfmt rP) == dEs d && dBox d 0 ≤ tCols rP))) then (trap 0x13 0 0 (cT c), s)
        else
          let n := dElems d
          let es := (List.range n).map fun t => elemPlace d c rG rP t
          let ok := es.filterMap id
          let dir := dDir d
          let cva := counterVa rC (cmd c 2)
          let inExt := 0 ≤ sgn (cmd c 2) && sgn (cmd c 2) < lExtent rC
          let bad4 := if n = 0 then none
            else if es.any (·.isNone) || ok.any (fun e => match e.g with | some a => !inReach rG a (dEs d) | none => false) then some (cG c)
            else if ok.any (fun e => !inReach rP e.sa (dEs d)) || !rowsOk d c rP then some (cP c)
            else if !inExt then some (cC c) else none
          match bad4 with
          | some r => (trap 3 0 0 r, s)
          | none =>
            if !(if dir then pread rP else pread rG) then (trap 4 0 0 (if dir then cP c else cG c), s)
            else if !(if dir then pwrite rG else pwrite rP) then (trap 4 0 0 (if dir then cG c else cP c), s)
            else if !patom rC then (trap 4 0 0 (cC c), s)
            else
              let high := (ok.filterMap (·.g)).filter fun a => 2 ^ 57 < a + dEs d
              let out := (ok.map (·.sa)).filter fun a => b.spsize < a + dEs d
              let cEnd : Int := if inScratch rC then b.spsize else 2 ^ 57
              let range := match (high ++ out).min? with | some a => some a | none => if cva < 0 || cEnd < cva + 8 then some cva.toNat else none
              match range with
              | some a => (trap 6 2 a 0, s)
              | none =>
                if cva.toNat % 8 ≠ 0 then (trap 9 0 cva.toNat 0, s)
                else
                  let mk : Copy := { group := k, level := lvl, command := c, desc := d, recT := rT, recG := rG, recP := rP, recC := rC, order := s.fresh }
                  if inScratch rC then (.ok mk, s)
                  else match place s core b.part lvl .write ⟨0, 0, cva, 8⟩ with
                    | (.inl (.park a), s) => (.park a, s)
                    | (.inl (.trap code u), s) => (trap code u cva.toNat 0, s)
                    | (.inl _, s) => (trap 5 0 cva.toNat 0, s)
                    | (.inr _, s) => (.ok mk, s)

/-! ## Issue -/

/-- Copies held by a core's engine. -/
def engineCopies (s : State) (core : Nat) : Nat := (s.blocks.map fun (_, b) => if b.core = core then (b.copies.filter fun x => x.2.state != .aborted).length else 0).sum
/-- The lowest copy number a block's copies leave free; one whose trap is still to be taken keeps its number. -/
def freeCopy (b : Block) : Option Nat := (List.range 32).find? fun n => (kfind b.copies n).isNone
/-- The engine can take a copy of a block (R267). -/
def engineRoom (s : State) (core : Nat) (b : Block) : Bool := engineCopies s core < 32 && lockFree s core 2 && (freeCopy b).isSome
/-- The global bytes a copy can touch, as an interval; none when every element is masked (R274). -/
def copyHull (c : Copy) : Option (Nat × Nat) :=
  match (List.range (dElems c.desc)).filterMap fun t => (elemPlace c.desc c.command c.recG c.recP t).bind (·.g) with
  | [] => none
  | a :: as => some (hullOf (a :: as) (dEs c.desc))
/-- Log a copy's footprint when its turn has come (R75, R414). DESIGN CHOICE (log 85): a copy's footprint is the hull of its global bytes. -/
def copyFootprint (s : State) (core part : Nat) (c : Copy) : State :=
  match copyHull c with
  | some (lo, hi) => footprint s core part lo (hi - lo) 2 (walk s part lo).pte
  | none => s
/-- Enter a copy: its number, locks and flag (R267, R274). -/
def enterCopy (s : State) (bid : Nat) (c : Copy) : State :=
  let b := kget ({} : Block) s.blocks bid
  let n := (freeCopy b).getD 0
  let s := copyFootprint s b.core b.part c
  let s := addLocks { s with fresh := s.fresh + 1, blocks := kput s.blocks bid { b with copies := kput b.copies n c } } b.core (copyLocks b bid n c)
  { s with groups := kmod s.groups c.group fun g => raiseFlag g c.flag }
/-- Add to a counter that has passed its checks, with the release of the addition (R135, R273), whose stamp covers the copy's writes, or for
a copy of no bytes its issuer's accesses. A counter on a peer takes a remote reduction for the copy named, whose tag is awaited. -/
def counterAdd (s : State) (bid : Nat) (g : Seg) (n : Nat) (k stamp : Nat) (copy : Option Nat) : State :=
  let mk : RelMark := { stamp := stamp, scope := if g.tier = 3 then 1 else 3, group := k, block := bid }
  if g.tier = 3 then
    wakeAll { s with blocks := kmod s.blocks bid fun b =>
      { b with scratch := mwrites b.scratch g.pa (leOut 8 (leVal (mreads b.scratch g.pa 8) + n))
               marks := writeMarks b.marks ((List.range 8).map (g.pa + ·)) true [mk] } }
  else
    let s := { s with marks := writeMarks s.marks ((List.range 8).map fun i => markKey g.tier g.place (g.pa + i)) true [mk] }
    if g.tier = 2 then
      let (t, s) := putAtomic s { type := 3, dst := g.place, part := (kget ({} : Block) s.blocks bid).part, copy := copy.map (bid, ·), pa := g.pa } 0 8 0 n 0
      match copy with
      | some c => { s with blocks := kmod s.blocks bid fun b => { b with copies := kmod b.copies c fun c => { c with tags := c.tags ++ [t], counted := true } } }
      | none => s
    else
      let v := leVal (physRead s g.tier g.pa 8) + n
      accepted (partWrite s (kget ({} : Block) s.blocks bid).part g.tier (cellsAt g.pa (leOut 8 v))) g.tier ((List.range 8).map (g.pa + ·)) false
/-- The counter's place, or why it cannot be written. -/
def counterPlace (s : State) (k : Nat) (b : Block) (c : Copy) : (Sum Xlate Seg) × State :=
  let va := counterVa c.recC (cmd c.command 2)
  if inScratch c.recC then (.inr ⟨3, 0, va.toNat, 8, 0⟩, s)
  else match place s (k / 64) b.part c.level .write ⟨0, 0, va, 8⟩ with
    | (.inr (g :: _), s) => (.inr g, s)
    | (.inr [], s) => (.inl (.trap 5 0), s)
    | (.inl e, s) => (.inl e, s)
/-- COPY (R267 to R274). -/
def execCopy (sl : BitVec 1) (c : BitVec 7) (gp : BitVec 3) (s : State) : Out :=
  withFrag s fun x =>
    let regs := (List.range 8).map fun i => 128 + c.toNat + i
    issueOp x (gblockOk 8 c) (regs ++ (if gp = 0 then [] else [gpcode gp.toNat])) [] sl fun x =>
      if !gpred x.g gp.toNat then (x.skip 4).commit
      else if releaseHeld x then stall x
      else
        let cw := (List.range 8).map fun i => greg x.g (c.toNat + i)
        let r := fun (n : Nat) => brec x.g n
        match copyCheck x.s x.k x.b x.g.level cw (r (cT cw)) (r (cG cw)) (r (cP cw)) (r (cC cw)) with
        | (.bad t, s) => takeTrap { x with s := s } { t with pc := x.f.pc, mask := x.f.exec, next := x.f.pc + 4 }
        | (.park a, s) => { x with s := s, g := { x.g with parked := some ⟨x.e, a, 15, []⟩ } }.commit
        | (.ok cp, s) =>
          let x := { x with s := s }
          if dBytes cp.desc = 0 then
            match counterPlace s x.k x.b cp with
            | (.inr g, s) => counterAdd ({ x with s := s }.skip 4).commit x.g.block g 0 x.k (releaseStamp x.g) none
            | (.inl _, _) => (x.skip 4).commit
          else if !engineRoom s x.core x.b then stall x
          else enterCopy (x.skip 4).commit x.g.block { cp with flag := flagOf x sl }

/-! ## Static schedules (R284 to R286) -/

/-- Each entry's next stage that has been released, as (stage number, entry), with the number of its last released one. -/
def dueStages (b : Block) : List (Nat × Nat × Nat) :=
  b.sched.zipIdx.filterMap fun (e, i) =>
    let j := kget 0 b.nextj i
    let n := leAt e 2 2 + j
    if j < leAt e 0 2 && n ≤ b.stage then some (n, i, min b.stage (leAt e 2 2 + leAt e 0 2 - 1)) else none
/-- The next stage due: the lowest number, and of one number the first entry. -/
def nextStage (b : Block) : Option (Nat × Nat) :=
  ((dueStages b).map fun q => (q.1, q.2.1)).foldl (fun m q => match m with | some r => if q.1 < r.1 then some q else m | none => some q) none
/-- The group a stage counts for (R285). -/
def stageGroup (s : State) (b : Block) (bid n : Nat) : Nat :=
  match b.releasers.find? fun r => n ≤ r.1 with
  | some r => r.2
  | none => ((s.groups.find? fun (_, g) => g.block == bid && g.index == 0).map (·.1)).getD 0
/-- Signed 32-bit arithmetic of a stage's coordinates. -/
def stageCmd (b : Block) (cl : Cluster) (e : List Byte) (j : Nat) : List Word :=
  let roots := leAt e 4 2 % 4096
  let p := leAt e 56 4
  let sr := (bits p 11 0 + j * bits p 23 12) % 4096
  let dim := bits (leAt e 60 4) 2 0
  let lb := cl.linear * cl.blocks.length + b.index
  [word (leAt e 12 4), word (roots + 4096 * sr), word (leAt e 8 4)] ++ (List.range 5).map fun d =>
    word (leAt e (16 + 4 * d) 4) + word j * word (leAt e (36 + 4 * d) 4) + (if d = dim then word (bits (leAt e 60 4) 31 16) * word lb else 0)
/-- Queue a trap of a group's copy or stage for its next clause header. -/
def queueTrap (s : State) (k : Nat) (t : Trap) : State := { s with groups := kmod s.groups k fun g => { g with traps := g.traps ++ [t] } }
/-- STAGE_ISSUE (R285): the engine issues the next released stage, an entry of the block's schedule; in a block being resumed, once its
restore 1 has put the schedule back. -/
def execStageIssue (block n : Nat) (s : State) : Out :=
  .next (match kfind s.blocks block with
    | none => s
    | some b =>
      match nextStage b with
      | none => s
      | some (num, i) =>
        if i ≠ n ∨ !engineRoom s b.core b ∨ b.preempting ∨ (b.resumed ∧ !b.restored1) then s
        else
          let e := b.sched.getD i []
          let j := kget 0 b.nextj i
          let k := stageGroup s b block num
          let cw := stageCmd b (kget {} s.clusters b.cluster) e j
          let r := fun (q : Nat) => kget (0 : Rec) b.roots q
          let step := fun (s : State) => { s with blocks := kmod s.blocks block fun b => { b with nextj := kput b.nextj i (j + 1) } }
          match copyCheck s k b .user cw (r (cT cw)) (r (cG cw)) (r (cP cw)) (r (cC cw)) with
          | (.bad t, s) => step (queueTrap s k { t with
              cause := if t.code = 5 then 1 else if t.code = 6 then t.cause + 4 else t.cause, kind := .copy 99, inWait := true, command := cw })
          | (.park _, s) => s
          | (.ok cp, s) =>
            if dBytes cp.desc = 0 then
              match counterPlace s k b cp with
              | (.inr g, s) => counterAdd (step s) block g 0 k (releaseStamp (kget {} s.groups k)) none
              | (.inl _, s) => step s
            else enterCopy (step s) block cp)
/-- CSTEP (R286): a release of the stages it reaches. -/
def execCstep (_sl : BitVec 1) (a : BitVec 7) (gp : BitVec 3) (s : State) : Out :=
  withFrag s fun x =>
    issueAccess x (gsOk a) ([gcode a.toNat] ++ (if gp = 0 then [] else [gpcode gp.toNat])) [] fun x =>
      if !gpred x.g gp.toNat then (x.skip 4).commit
      else if releaseHeld x then stall x
      else
        let v := (gsrc x.g a.toNat).toNat
        let b := if x.b.stage < v then { x.b with stage := v, releasers := x.b.releasers ++ [(v, x.k)] } else x.b
        ({ x with b := b }.skip 4).commit

/-! ## The transfer (R270, R273, R275, R277) -/

/-- How far a copy comes: to its end, to a wait for answers, to a migrating page, to a fault or to a bad source byte. -/
inductive CopyEnd
  | done | waits
  | park (pte : Nat)
  | fault (code cause addr : Nat)
  | bad (addr : Nat)
  deriving DecidableEq, Repr

/-- Translate pages in order up to the first that fails. -/
def translateUntil (s : State) (core part : Nat) (lvl : Level) (acc : Acc) : List Nat → List (Nat × Xlate) × State
  | [] => ([], s)
  | v :: vs =>
    let (r, s) := translate s core part lvl acc (v * 65536)
    match r with
    | .ok _ _ _ _ => let (rs, s) := translateUntil s core part lvl acc vs; ((v, r) :: rs, s)
    | _ => ([(v, r)], s)
/-- An element's global bytes as a piece. -/
def Elem.piece (e : Elem) (es : Nat) : Option Piece := e.g.map fun (a : Nat) => ⟨0, e.t, a, es⟩
/-- Its source holds a double-bit error or poison (R277). -/
def srcBad (s : State) (b : Block) (dir : Bool) (es : Nat) (e : Elem) (sg : List Seg) : Bool :=
  if dir then b.spErrors.any fun w => e.sa / 8 ≤ w && w ≤ (e.sa + es - 1) / 8
  else sg.any fun g => [g.pa, g.pa + g.len - 1].any fun a => badByte s g.tier a
/-- Run a copy from its watermark: what it writes, the watermark it reaches and why it stops. Answers the copy as changed. DESIGN CHOICE
(log 86): its bytes move in this one step, so another party's racing access sees all of them old or all of them new (R127, R134). -/
def copyRun (s : State) (bid n : Nat) (c : Copy) : CopyEnd × State :=
  let b := kget ({} : Block) s.blocks bid
  let es := dEs c.desc
  let dir := dDir c.desc
  let put := fun (s : State) (c : Copy) => { s with blocks := kmod s.blocks bid fun b => { b with copies := kput b.copies n c } }
  if c.moved then (if c.tags = [] then .done else .waits, s)
  else if c.asked && c.tags != [] then (.waits, s)
  else
    let all := c.elems
    let pages := (all.flatMap fun e => match e.piece es with | some p => pagesOf p | none => []).eraseDups
    let (tr, s) := translateUntil s b.core b.part c.level (if dir then .write else .read) pages
    let fine := all.takeWhile fun e => match e.piece es with | some p => (failOf tr p).isNone && (pagesOf p).all fun v => (tr.lookup v).isSome | none => true
    let segs := fun (e : Elem) => match e.piece es with | some p => segsOf tr p | none => []
    let good := fine.takeWhile fun e => !srcBad s b dir es e (segs e) && !c.lost.contains e.t
    let remote := if dir then [] else good.flatMap fun e =>
      (segs e).zipIdx.flatMap fun (g, q) => if g.tier = 2 then
        let off := if q = 0 then 0 else es - g.len
        (List.range g.len).map fun i => ((g.place, g.pa + i), 16 * e.t + off + i) else []
    if remote != [] && !c.asked then
      let (tags, s) := (sectorsOf (remote.map (·.1))).foldl (fun (ts, s) (dev, base) =>
        let mine := remote.filter fun w => w.1.1 == dev && w.1.2 / 32 * 32 == base
        let (t, s) := askSector s { type := 0, dst := dev, part := b.part, copy := some (bid, n), pa := base
                                    va := (mine.filterMap fun w => (all.find? fun e => e.t == w.2 / 16).bind (·.g)).foldl min (2 ^ 57)
                                    patches := mine.map fun w => (w.1.2 - base, w.2, 0) }
        (ts ++ [t], s)) ([], s)
      (.waits, put s { c with asked := true, tags := tags })
    else if dir && pteHeld s (segLines (good.flatMap segs)) then (.waits, s)
    else
      let bytes := fun (e : Elem) =>
        if dir then mreads b.scratch e.sa es
        else (segs e).zipIdx.flatMap fun (g, q) =>
          if g.tier = 2 then (List.range g.len).map fun i => kget 0 c.got (16 * e.t + (if q = 0 then 0 else es - g.len) + i)
          else physRead s g.tier g.pa g.len
      let stop := good.length * es + c.w / es * es
      let ending : CopyEnd :=
        if good.length < fine.length then .bad (match fine.drop good.length with | e :: _ => if dir then e.sa else e.g.getD 0 | [] => 0)
        else match all.drop fine.length with
          | [] => .done
          | e :: _ =>
            match e.piece es with
            | none => .done
            | some p =>
              match failOf tr p with
              | some (.park a) => .park a
              | some (.trap code u) => .fault code (if code = 6 then u + 4 else 1) (e.g.getD 0)
              | _ => .fault 5 1 (e.g.getD 0)
      let c := { c with w := stop, asked := false, got := [], lost := [] }
      let open_ := good.any fun e => (watched (segs e)).any fun a => (raceState s b.part a).isNone
      let s := if open_ then setFault s b.part 4 else s
      let s := if dir then scrubbed s bid (good.map fun e => (e.sa, es)) else s
      if dir then
        let puts := good.flatMap fun e => match e.piece es with | some p => putsOf p (segs e) (bytes e) | none => []
        let sects := (good.flatMap fun e => watched (segs e)).eraseDups
        let s := partWrite (partWrite s b.part 0 (cellsOf puts 0)) b.part 1 (cellsOf puts 1)
        let s := raceMark s b.part c.group 0 sects
        let s := { s with marks := endMarks s.marks (puts.map fun p => markKey p.tier p.place p.pa) }
        let (tags, s) := putAll s { type := 1, dst := 0, part := b.part, copy := some (bid, n) }
          (puts.filterMap fun p => if p.tier = 2 then some (p.place, (p.pa, p.b)) else none)
        let at' := fun (t : Nat) => puts.filterMap fun p => if p.tier = t then some p.pa else none
        let s := accepted (accepted (put s { c with tags := tags, moved := ending = .done }) 0 (at' 0) true) 1 (at' 1) false
        (if ending = .done && tags != [] then .waits else ending, s)
      else
        let s := ((good.flatMap segs).filterMap fun g => if g.tier = 0 then some (g.pa / 128) else none).eraseDups.foldl (fun s l => homeRead s l) s
        let cells := good.flatMap fun e => cellsAt e.sa (if e.g.isSome then bytes e else List.replicate es 0)
        let whole := fun (w : Nat) => (List.range 8).all fun i => cells.any fun q => q.1 == 8 * w + i
        let s := { s with blocks := kmod s.blocks bid fun b =>
          { b with scratch := mputAll b.scratch cells, spErrors := b.spErrors.filter (fun w => !whole w), spSingles := b.spSingles.filter fun w => !whole w
                   marks := endMarks b.marks (cells.map (·.1)) } }
        (ending, wakeAll (put s { c with moved := ending = .done }))
/-- A running copy of a block, free to move. -/
def movable (s : State) (bid n : Nat) : Option (Block × Copy) :=
  match kfind s.blocks bid with
  | none => none
  | some b => match kfind b.copies n with
    | some c => if c.state = .running ∧ c.migWait = none then some (b, c) else none
    | none => none
/-- A copy ends: its entry, locks and flag (R267, R274). -/
def endCopy (s : State) (bid n : Nat) (c : Copy) : State :=
  let s := dropLocks s (c.group / 64) bid n
  { s with blocks := kmod s.blocks bid (fun b => { b with copies := kdel b.copies n })
           groups := kmod s.groups c.group fun g => lowerFlag g c.flag }
/-- Change a copy where it stands. -/
def setCopy (s : State) (bid n : Nat) (f : Copy → Copy) : State :=
  { s with blocks := kmod s.blocks bid fun b => { b with copies := kmod b.copies n f } }
/-- The trap of a suspended or aborted copy, to be taken as R275 says. -/
def copyTrap (c : Copy) (n code cause addr : Nat) : Trap :=
  { code := code, cause := cause, inWait := true, addr := addr, detail := word c.w, slot := n, command := c.command, kind := .copy n }
/-- Take back the locks a copy lost (R276). -/
def relock (s : State) (bid n : Nat) (b : Block) (c : Copy) : Option State :=
  if c.locked then some s
  else if lockFree s b.core 2 then some (addLocks (setCopy s bid n fun c => { c with locked := true }) b.core (copyLocks b bid n c))
  else none
/-- What a copy does next, and how that ends: every byte moved, the counter receives N; one on a peer has received it when its
acknowledgement comes (R161, R273, R275, R449). -/
def copyNext (s : State) (bid n : Nat) (b : Block) (c : Copy) : CopyEnd × State :=
  match relock s bid n b c with
  | none => (.waits, s)
  | some s =>
    match copyRun s bid n { c with locked := true } with
    | (.done, s) =>
      if c.counted then (.done, endCopy s bid n c)
      else match counterPlace s c.group b c with
      | (.inr g, s) =>
        if g.tier = 2 then
          (.waits, counterAdd (setCopy s bid n fun c => { c with w := dBytes c.desc, moved := true }) bid g (dBytes c.desc) c.group (stampNow s) (some n))
        else (.done, endCopy (counterAdd s bid g (dBytes c.desc) c.group (stampNow s) none) bid n c)
      | (.inl (.park a), s) => (.park a, setCopy s bid n fun c => { c with w := dBytes c.desc, moved := true })
      | (.inl (.trap code u), s) =>
        (.fault code (if code = 6 then u + 4 else 1) (counterVa c.recC (cmd c.command 2)).toNat,
          setCopy s bid n fun c => { c with w := dBytes c.desc, moved := true, counterFault := true })
      | (.inl _, s) => (.waits, s)
    | r => r
/-- COPY_COMPLETION (R273): the copy runs to its end and its counter is added to; or it runs to answers it awaits, or to a
migrating page. -/
def execCopyCompletion (block n : Nat) (s : State) : Out :=
  .next (match movable s block n with
    | none => s
    | some (b, c) =>
      match copyNext s block n b c with
      | (.done, t) => t
      | (.waits, t) => t
      | (.park a, t) => setCopy t block n fun c => { c with migWait := some a }
      | _ => s)
/-- COPY_SUSPEND (R275): a page of the box or of the counter fails, and the copy stops at its watermark. -/
def execCopySuspend (block n : Nat) (s : State) : Out :=
  .next (match movable s block n with
    | none => s
    | some (b, c) =>
      match copyNext s block n b c with
      | (.fault code u a, t) =>
        let c := kget c (kget b t.blocks block).copies n
        queueTrap (setCopy t block n fun c => { c with state := .suspended }) c.group (copyTrap c n code u a)
      | _ => s)
/-- COPY_ABORT (R277): a source byte cannot be read, and the copy ends without its counter. -/
def execCopyAbort (block n : Nat) (s : State) : Out :=
  .next (match movable s block n with
    | none => s
    | some (b, c) =>
      match copyNext s block n b c with
      | (.bad a, t) =>
        let c := kget c (kget b t.blocks block).copies n
        let t := dropLocks t b.core block n
        let t := { t with groups := kmod t.groups c.group fun g => lowerFlag g c.flag }
        queueTrap (setCopy t block n fun c => { c with state := .aborted, locked := false }) c.group (copyTrap c n 0x0D 1 a)
      | _ => s)
/-- A group's own copies, issued or due (R279). -/
def ownCopies (s : State) (k : Nat) (g : Group) : Bool :=
  match kfind s.blocks g.block with
  | none => false
  | some b => b.copies.any (fun x => x.2.group == k) ||
      (dueStages b).any fun (n, _, last) => (List.range' n (last + 1 - n)).any fun m => stageGroup s b g.block m == k

/-! ## Completion counters (R280 to R283) -/

/-- A counter operand: the word's place, once its checks pass (R280). -/
def counterOperand (x : Env) (c : Nat) (k : AccKind) (perm : Rec → Bool) : Sum State (Env × Seg) :=
  let w := greg x.g c
  let b := wbits w 2 0
  if wbits w 31 3 ≠ 0 then .inl (recordTrap x b)
  else controlWord x b (128 + (c + 1)) (greg x.g (c + 1)) k 3 8 perm counterRec
/-- The 64-bit value of a counter operand. -/
def counterT (x : Env) (c : Nat) : Nat := (greg x.g (c + 2)).toNat + 2 ^ 32 * (greg x.g (c + 3)).toNat
/-- The virtual address of an operand's counter. -/
def operandVa (x : Env) (c : Nat) : Nat := wordVa (brec x.g (wbits (greg x.g c) 2 0)) (greg x.g (c + 1))
/-- Codes of an operand's registers. -/
def blockCodes (c n : Nat) : List Nat := (List.range n).map fun i => 128 + c + i
/-- CWAIT (R281): it goes on at a continuation, which must be a clause header (R158). -/
def execCwait (_sl : BitVec 1) (c : BitVec 7) (gp : BitVec 3) (s : State) : Out :=
  withFrag s fun x =>
    issueAccess x (gblockOk 4 c) (blockCodes c.toNat 4 ++ (if gp = 0 then [] else [gpcode gp.toNat])) [] fun x =>
      if !gpred x.g gp.toNat then (x.skip 4).commit
      else match counterOperand x c.toNat .load pread with
        | .inl s => s
        | .inr (y, g) =>
          let t := counterT y c.toNat
          let va := operandVa y c.toNat
          withWord y g va fun y w => if t ≤ w then goOn y g else awaitWord y g va .cwait t
/-- CTEST (R282). -/
def execCtest (_sl : BitVec 1) (c : BitVec 7) (p : BitVec 3) (s : State) : Out :=
  withFrag s fun x =>
    issueAccess x (gblockOk 4 c) (blockCodes c.toNat 4) [gpcode p.toNat] fun x =>
      match counterOperand x c.toNat .load pread with
      | .inl s => s
      | .inr (y, g) => withWord y g (operandVa y c.toNat) fun y w =>
        let hit := counterT y c.toNat ≤ w
        let y := if hit then y.acquireWord g 3 else y
        ((y.gpwrite p.toNat hit {}).skip 4).commit
/-- CADD (R283). -/
def execCadd (sl : BitVec 1) (c : BitVec 7) (s : State) : Out :=
  withFrag s fun x =>
    issueOp x (gblockOk 4 c) (blockCodes c.toNat 4) [] sl fun x =>
      match counterOperand x c.toNat .rmw patom with
      | .inl s => s
      | .inr (y, g) =>
        let v := counterT y c.toNat
        let op := newOp y (.cadd (g.tier = 3) g.pa v) (flagOf y sl)
        if g.tier = 2 then
          let (t, s) := putAtomic y.s { type := 3, dst := g.place, part := y.b.part, op := some op.id, pa := g.pa } 0 8 0 v 0
          let y := leaveMarks ({ y with s := s }.metWord g) y.f.exec none true (segBytes [g])
          ((y.start { op with tags := [t] }).skip 4).commit
        else
          let y := (y.metWord g).start op
          ((y.writeWord g ((y.readWord g + v) % 2 ^ 64) none true false 3).skip 4).commit
/-- CADD_COMPLETION (R283): the update has been made. -/
def execCaddCompletion (id : Nat) (s : State) : Out :=
  completeIf s id (fun o => match o.kind with | .cadd _ _ _ => true | _ => false) finish

end Sys2Proof.Machine
end

