-- ==== Sys2Proof/Machine/TaskInstrs.lean ====
section
/-!
DEFINITION. spawn, post, exit.j, join and the beacons, with their completion points (R287, R292 to R305).
-/
namespace Sys2Proof.Machine

/-! ## Task controls (R293) -/

/-- The segment of a join counter, by the key of its location and its page's entry. -/
def joinSeg (key pte : Nat) : Seg :=
  let a := key % 2 ^ 60
  if key / 2 ^ 60 = 2 then ⟨2, a / 2 ^ 52, a % 2 ^ 52, 8, pte⟩ else ⟨key / 2 ^ 60, 0, a, 8, pte⟩
/-- Add the record count of a spawn or post to its join counter, a read-modify-write at its home slice (R139, R294, R295). -/
def bumpWord (s : State) (o : Op) (key n : Nat) : State :=
  let g := joinSeg key o.dest
  let as := (List.range 8).map (g.pa + ·)
  let keys := as.map (markKey g.tier g.place ·)
  let grp := kget ({} : Group) s.groups o.group
  let s := { s with groups := kmod s.groups o.group (noteMet o.lanes (marksAt s.marks keys))
                    marks := writeMarks s.marks keys true (ownMarks o.group grp o.lanes none) }
  if g.tier = 2 then
    let (t, s) := putAtomic s { type := 3, dst := g.place, part := o.part, op := some o.id, pa := g.pa } 0 8 0 n 0
    { s with ops := s.ops.map fun q => if q.id = o.id then { q with tags := q.tags ++ [t], counted := true } else q }
  else
    let s := claimPast (partWrite s o.part g.tier (cellsAt g.pa (leOut 8 (leVal (physRead s g.tier g.pa 8) + n)))) o.gid (as.map (tkey g.tier ·))
    accepted (raceMark s o.part o.group 3 (watched [g])) g.tier as false
/-- The completion of a spawn or post: its count and what it places, both or neither; `place` answers nothing while there is no room. A join
counter on a peer is counted first, when there is room, and what is placed follows the acknowledgement (R161, R294, R295, R449). DESIGN
CHOICE (log 118): should the room be gone by then, it waits for room, as the count cannot be taken back. -/
def countThen (s : State) (o : Op) (join : Option Nat) (n : Nat) (place : State → Option State) (full : State → State) : State :=
  if o.counted then (match place s with | some t => finish t o | none => s)
  else match join with
    | none => (match place s with | some t => finish t o | none => full s)
    | some key =>
      if key / 2 ^ 60 = 2 then (if (place s).isSome then bumpWord s o key n else full s)
      else match place (bumpWord s o key n) with | some t => finish t o | none => full s
/-- A block of `n` vector registers named by its first (R36, R293, R302). -/
def vblockOk (g : Group) (v : BitVec 7) (n : Nat) : Bool := v.toNat + n ≤ 96 && (List.range n).all fun i => nameable g (v.toNat + i)
def vblock (v : BitVec 7) (n : Nat) : List Nat := (List.range n).map (v.toNat + ·)
/-- The word of a lane's argument `i`. -/
def laneArg (g : Group) (v : BitVec 7) (l i : Nat) : Word := vreg g (v.toNat + i) l
/-- The records of spawn and post, one per active lane in increasing order. -/
def laneRecs (x : Env) (v : BitVec 7) (m : Mask) (node scope pri origin : Nat) (jn : Bool) (join : Nat) : List TaskRec :=
  (lanesOf m).map fun l =>
    { node := node, scope := scope, jn := jn, origin := origin, pri := pri, join := join, stamp := releaseStamp x.g
      args := (List.range 12).map (laneArg x.g v l) }
/-- spawn and post (R293 to R295). -/
def spawnPost (x : Env) (sl : BitVec 1) (c v : BitVec 7) (g : BitVec 3) (origin : Nat) (kind : List TaskRec → Option Nat → OpKind) : State :=
  let srcs := blockCodes c.toNat 4 ++ vblock v 12 ++ (if g = 0 then [] else [pcode g.toNat])
  issueOp x (gblockOk 4 c && vblockOk x.g v 12) srcs [] sl fun x =>
    let act := x.f.exec &&& pmask x.g g.toNat
    let w := greg x.g c.toNat
    let w1 := greg x.g (c.toNat + 1)
    let bJ := wbits w1 2 0
    let rJ := brec x.g bJ
    let node := wbits w 15 0
    let jn := bitOf w.toNat 18
    if act = 0 then (x.skip 4).commit
    else if releaseHeld x then stall x
    else if wbits w 31 21 ≠ 0 || 2 ≤ wbits w 17 16 || wbits w1 31 3 ≠ 0 || greg x.g (c.toNat + 3) ≠ 0 then recordTrap x bJ
    else if jn && inScratch rJ then recordTrap x bJ
    else
      let word := if jn then
          match controlWord x bJ (128 + (c.toNat + 2)) (greg x.g (c.toNat + 2)) .rmw 3 8 patom counterRec with
          | .inl s => Sum.inl s
          | .inr (y, g) => .inr (y, some (g.key, g.pte))
        else .inr (x, none)
      match word with
      | .inl s => s
      | .inr (y, j) =>
        let y := { y with s := nodeWalk y.s y.b.part (dieOf y.core) node }
        if nodeHeld y.s (dieOf y.core) y.b.part node then stall x
        else if (nodeFor y.s (dieOf y.core) y.b.part node).isNone then trapAt y 0x12 0
        else
          let va := if jn then (counterVa rJ (greg y.g (c.toNat + 2))).toNat else 0
          let recs := laneRecs y v act node (wbits w 17 16) (wbits w 20 19) origin jn va
          ((y.start { newOp y (kind recs (j.map (·.1))) (flagOf y sl) with dest := (j.map (·.2)).getD 0 }).skip 4).commit
/-- SPAWN (R293, R294). -/
def execSpawn (sl : BitVec 1) (c v : BitVec 7) (g : BitVec 3) (s : State) : Out :=
  withFrag s fun x => spawnPost x sl c v g 2 .spawn
/-- POST (R293, R295). -/
def execPost (sl : BitVec 1) (c v : BitVec 7) (g : BitVec 3) (s : State) : Out :=
  withFrag s fun x => spawnPost x sl c v g 1 .post
/-- A trap at the completion point: the fragment still stands after the instruction (R161). -/
def lateTrap (s : State) (op : Op) (code cause : Nat) (mask : Option Mask) (kind : TrapKind) : State :=
  let m := match mask with | some m => m | none => match envAt s op.group op.entry with | some x => x.f.exec | none => 0
  raiseAt (finish s op) op { code := code, cause := cause, pc := op.pc, mask := m, next := op.next, kind := kind }
/-- SPAWN_COMPLETION (R294, R296): the count joins the counter, and then the frame is pushed; with no room, neither. While a ring it must
spill to is migrating, it waits. -/
def execSpawnCompletion (id : Nat) (s : State) : Out :=
  completeIf s id (fun o => match o.kind with | .spawn _ _ => true | _ => false) fun s o =>
    match o.kind with
    | .spawn recs j =>
      let core := o.group / 64
      let f : Frame := { recs := recs, part := o.part, gslot := o.group % 64, core := core }
      if pushWaits s core f then s else countThen s o j recs.length (pushFrame · core f) fun s => lateTrap s o 0x12 0 none .late
    | _ => s
/-- POST_COMPLETION (R295): the count joins the counter, and the records enter bins or the ring; with no room, none does. While its node's
entry lies on a migrating page, it waits. -/
def execPostCompletion (id : Nat) (s : State) : Out :=
  completeIf s id (fun o => match o.kind with | .post _ _ => true | _ => false) fun s o =>
    match o.kind with
    | .post recs j =>
      let die := dieOf (o.group / 64)
      let node := (recs.head?.map (·.node)).getD 0
      if nodeHeld s die o.part node then s
      else countThen (nodeWalk s o.part die node) o j recs.length (fun t => (nodeFor s die o.part node).bind fun d => placeAll t o.part die d recs) fun s => lateTrap s o 0x12 0 none .late
    | _ => s

/-! ## exit.j and join (R299, R300) -/

/-- The decrement of one join counter: a release at device scope; below zero it wraps, wakes nobody and sets sfault bit 5. A counter on a
peer takes it as a remote reduction. -/
def joinDown (x : Env) (g : Seg) : Env :=
  let x := x.metWord g
  if g.tier = 2 then
    let x := leaveMarks { x with g := { x.g with wrStamp := stampNow x.s } } x.f.exec (some 3) true (segBytes [g])
    { x with s := (putAtomic x.s { type := 3, dst := g.place, part := x.b.part, own := some x.g.gid, pa := g.pa } 0 8 0 (2 ^ 64 - 1) 0).2 }
  else
    let v := x.readWord g
    if v ≠ 0 then x.writeWord g (v - 1) (some 3) true false 3
    else
      let x := leaveMarks { x with g := { x.g with wrStamp := stampNow x.s } } x.f.exec (some 3) true (segBytes [g])
      let s := claimPast (partWrite x.s x.b.part g.tier (cellsAt g.pa (leOut 8 (2 ^ 64 - 1)))) x.g.gid ((List.range 8).map fun i => tkey g.tier (g.pa + i))
      { x with s := setFault (raceMark s x.b.part x.k 3 (watched [g])) x.b.part 5 }
/-- A fragment of this device is parked in join at a counter on a peer (R300, log 117). -/
def peerJoined (s : State) (g : Seg) : Bool :=
  s.groups.any fun q => (groupFrags q.2).any fun f => f.wait == .join && f.watch.any fun w => w.tier == 2 && w.addr == g.place * 2 ^ 52 + g.pa
/-- JOIN (R300): it goes on at a continuation, which must be a clause header (R158). -/
def execJoin (_sl : BitVec 1) (c : BitVec 7) (gp : BitVec 3) (s : State) : Out :=
  withFrag s fun x =>
    issueAccess x (gblockOk 4 c) (blockCodes c.toNat 4 ++ (if gp = 0 then [] else [gpcode gp.toNat])) [] fun x =>
      let b := wbits (greg x.g c.toNat) 2 0
      if !gpred x.g gp.toNat then (x.skip 4).commit
      else if x.f.crowded then trapAt { x with f := { x.f with crowded := false } } 0x12 0
      else if inScratch (brec x.g b) then recordTrap x b
      else match counterOperand x c.toNat .rmw patom with
        | .inl s => s
        | .inr (y, g) =>
          let va := operandVa y c.toNat
          withWord y g va fun y w =>
            let n := slotSlice y.s y.b.part g.tier g.pa
            if w = 0 then goOn y g
            else if g.tier = 2 then (if peerJoined y.s g then trapAt y 0x12 0 else awaitWord y g va .join 0)
            else if y.s.slices.any (fun q => (kfind q.2.waiters g.key).isSome) then trapAt y 0x12 0
            else awaitWord { y with s := modSlice y.s n fun sl => { sl with waiters := kput sl.waiters g.key (y.k, y.g.gid) } } g va .join 0
/-- A group's fragment that waits in join stops waiting without its counter: its waiter record goes, and a continuation frame already pushed,
in the SRAM or in the spill ring (R301). -/
def dropWaiter (s : State) (k : Nat) (f : Frag) : State :=
  match f.wait, f.watch with
  | .join, some w =>
    let key := tkey w.tier w.addr
    let mine := fun (q : Frame) => q.cont && q.slot == k % 64 && q.ctr == w.tier * 2 ^ 56 + w.addr % 2 ^ 56
    let s := { s with slices := kmap (fun _ sl => { sl with waiters := sl.waiters.filter fun q => !(q.1 == key && q.2.1 == k) }) s.slices }
    let s := modCore s (k / 64) fun c => { c with quarry := c.quarry.filter fun q => !mine q }
    let p := (kget ({} : Block) s.blocks (kget ({} : Group) s.groups k).block).part
    let fs := spilled s (k / 64) p
    if fs.any mine then (storeSpilled s (k / 64) p (fs.filter fun q => !mine q)).getD s else s
  | _, _ => s

/-! ## Beacons (R302 to R305) -/

/-- rinv and rinv.t: `pd` names the predicate, 0 for none. -/
def rinv (x : Env) (sl : BitVec 1) (n v : BitVec 7) (p : BitVec 3) (trapping : Bool) : State :=
  issueOp x (gsOk n && vblockOk x.g v 13) (gcode n.toNat :: vblock v 13) (if p = 0 then [] else [pcode p.toNat]) sl fun x =>
    let w := gsrc x.g n.toNat
    let act := match x.f.resend with | some m => x.f.exec &&& m | none => x.f.exec
    if releaseHeld x || (bitOf w.toNat 18 && remoteHeld x) then stall x
    else if wbits w 31 19 ≠ 0 then recordTrap x 0
    else
      let op := newOp x (.beacon p.toNat trapping) (flagOf x sl)
      let scope := if bitOf w.toNat 18 then 2 else 1
      let recs := (lanesOf act).map fun l =>
        (op.id, l, (laneArg x.g v l 12).toNat,
          ({ node := wbits w 15 0, scope := scope, origin := 3, pri := wbits w 17 16, args := (List.range 12).map (laneArg x.g v l), stamp := releaseStamp x.g } : TaskRec))
      let near := recs.filter fun r => r.2.2.1 < 4096
      let far := recs.foldl (fun (m : Mask) r => if 4096 ≤ r.2.2.1 then m ||| lane1 r.2.1 else m) 0
      let x := { x with s := modCore x.s x.core (fun c => { c with beaconQ := c.beaconQ ++ near }), f := { x.f with resend := none } }
      ((x.start { op with pend := if p = 0 then [] else [pcode p.toNat], ws := if x.f.exec = act then x.f.exec else act, zeroed := x.helpers
                          sent := act &&& ~~~far, refused := far }).skip 4).commit
/-- RINV. -/
def execRinv (sl : BitVec 1) (n v : BitVec 7) (p : BitVec 3) (s : State) : Out := withFrag s fun x => rinv x sl n v p false
/-- RINV_T. -/
def execRinvT (sl : BitVec 1) (n v : BitVec 7) (p : BitVec 3) (s : State) : Out := withFrag s fun x => rinv x sl n v p true
/-- A record in a beacon packet (R447): node, flags and arguments. -/
def beaconBytes (r : TaskRec) : List Byte := (recBytes r).take 4 ++ ((recBytes r).drop 12).take 48
def beaconOf (b : List Byte) : TaskRec := { recOf (b.take 4 ++ List.replicate 8 0 ++ b.drop 4) with join := 0, jn := false, origin := 3 }
/-- Send one packet of queued beacons: those of the least class, up to four of one instruction to one target (R303). -/
def sendBeacons (s : State) (core : Nat) : State :=
  let q := (kget ({} : Core) s.cores core).beaconQ
  match q with
  | [] => s
  | h :: t =>
    let best := t.foldl (fun b r => if r.2.2.2.pri < b.2.2.2.pri then r else b) h
    let mine := (q.filter fun r => r.1 == best.1 && r.2.2.1 == best.2.2.1).take 4
    let s := modCore s core fun c => { c with beaconQ := c.beaconQ.filter fun r => !mine.contains r }
    match s.ops.find? fun o => o.id == best.1 with
    | none => s
    | some o =>
      let (tag, s) := request s { type := 4, dst := best.2.2.1, part := o.part, op := some o.id, lanes := mine.map (·.2.1), release := best.2.2.2.stamp }
        (mine.length + 256 * best.2.2.2.pri) (mine.flatMap fun r => beaconBytes r.2.2.2)
      { s with ops := s.ops.map fun o => if o.id = best.1 then { o with tags := o.tags ++ [tag] } else o }
/-- The beacon ports send what they hold. -/
def drainBeacons : Nat → State → State
  | 0, s => s
  | n + 1, s =>
    match s.cores.find? fun c => c.2.beaconQ != [] with
    | some (core, _) => drainBeacons n (sendBeacons s core)
    | none => s
/-- Beacons queued anywhere. -/
def queuedBeacons (s : State) : Nat := (s.cores.map fun c => c.2.beaconQ.length).sum
/-- BEACON_COMPLETION (R305): every beacon has been accepted or refused. -/
def execBeaconCompletion (id : Nat) (s : State) : Out :=
  completeIf s id (fun o => (match o.kind with | .beacon _ _ => true | _ => false) && o.sent == 0) fun s o =>
    match o.kind, kfind s.groups o.group with
    | .beacon pd trapping, some g =>
      let m := o.ws ||| o.zeroed
      let g := if pd = 0 ∨ g.gid ≠ o.gid then g else
        mapFrags (fun f => if f.members &&& m = 0 then f
          else { f with loop := f.loop.map fun q => { q with written := pcode pd :: q.written.filter (· != pcode pd) } })
          { g with preds := kput g.preds pd ((kget 0 g.preds pd &&& ~~~m) ||| (o.accepted &&& o.ws)), provs := kput g.provs pd {} }
      let s := { s with groups := kput s.groups o.group g }
      if trapping && o.refused != 0 then lateTrap s o 0x0C 0 (some o.refused) .beacon else finish s o
    | _, _ => finish s o

end Sys2Proof.Machine
end

