-- ==== Sys2Proof/Machine/Cairns.lean ====
section
/-!
DEFINITION. arm and disarm with their completion points, arrival notes and the retries of a cairn's actions (R306 to R311).
-/
namespace Sys2Proof.Machine

/-- What arm's checks answer: a trap or a park, or the region's place with the word's address and the stored record. -/
def armChecks (x : Env) (w : List Word) : Sum State (Env × Nat × Nat × Nat × Option TaskRec) :=
  let w0 := cmd w 0
  let (write, post) := (bitOf w0.toNat 9, bitOf w0.toNat 10)
  let (nR, nW, nK) := (wbits w0 2 0, wbits w0 5 3, wbits w0 8 6)
  let (rR, rW, rK) := (brec x.g nR, brec x.g nW, brec x.g nK)
  let size := match reach rR with | some (a, b) => b - a | none => 0
  let base := lBase rR
  let kAddr := lBase rK + (cmd w 3).toNat * lStride rK
  let wAddr := counterVa rW (cmd w 2)
  let inside := fun (r : Rec) (i : Word) => 0 ≤ sgn i && sgn i < lExtent r
  let bad2 :=
    if wbits w0 31 12 != 0 || cmd w 6 != 0 || cmd w 7 != 0 || cmd w 1 == 0 || !(write || post) then some nR
    else if !(validRec rR && !inScratch rR && size != 0 && base / 65536 == (base + size - 1) / 65536) then some nR
    else if write && !(validRec rW && !isTile rW && !inScratch rW && lEsize rW == 3) then some nW
    else if post && !(validRec rK && !isTile rK && 64 ≤ lStride rK && lStride rK % 8 == 0 && lBase rK % 8 == 0) then some nK
    else none
  match bad2 with
  | some n => .inl (recordTrap x n)
  | none =>
    if post && !pread rK then .inl (memTrap x 4 0 0 (word nK))
    else if post && !inside rK (cmd w 3) then .inl (memTrap x 3 0 0 (word nK))
    else if post && !inReach rK kAddr 64 then .inl (recordTrap x nK)
    else
      let (got, s) := if post then fetch64 x.s x.core x.b x.g.level rK kAddr else (.inr [], x.s)
      let x := { x with s := s }
      match got with
      | .inl (.bad t) => .inl (takeTrap x { t with pc := x.f.pc, mask := x.f.exec, next := x.f.pc + 4 })
      | .inl (.park a) => .inl { x with g := { x.g with parked := some ⟨x.e, a, 15, []⟩ } }.commit
      | .inl (.ok _) => .inl x.commit
      | .inr bytes =>
        if write && !inside rW (cmd w 2) then .inl (memTrap x 3 0 0 (word nW))
        else if !pwrite rR then .inl (memTrap x 4 0 0 (word nR))
        else if write && !pwrite rW then .inl (memTrap x 4 0 0 (word nW))
        else if 2 ^ 57 < base + size then .inl (memTrap x 6 2 base)
        else if write && (wAddr < 0 || 2 ^ 57 < wAddr + 8) then .inl (memTrap x 6 2 wAddr.toNat)
        else if write && wAddr.toNat % 8 ≠ 0 then .inl (memTrap x 9 0 wAddr.toNat)
        else
          match place x.s x.core x.b.part x.g.level .read ⟨0, 0, base, size⟩ with
          | (.inl (.park a), s) => .inl { x with s := s, g := { x.g with parked := some ⟨x.e, a, 15, []⟩ } }.commit
          | (.inl (.trap c u), s) => .inl (memTrap { x with s := s } c u base)
          | (.inl _, s) => .inl (memTrap { x with s := s } 5 0 base)
          | (.inr sg, s) =>
            let x := { x with s := s }
            match sg with
            | g :: _ =>
              if g.tier ≠ 0 ∨ bitOf g.pte 10 ∨ (homeSlice s g.pa).isNone then .inl (memTrap x 6 0 base)
              else
                let task := if post then some { recOf bytes with origin := 4 } else none
                match task with
                | some r =>
                  let x := { x with s := nodeWalk x.s x.b.part (homeDie x.s x.b.part r.node) r.node }
                  if nodeHeld x.s (homeDie x.s x.b.part r.node) x.b.part r.node then .inl (stall x)
                  else if (nodeFor x.s (homeDie x.s x.b.part r.node) x.b.part r.node).isNone then .inl (trapAt x 0x12 0)
                  else .inr (x, g.pa, size, wAddr.toNat, task)
                | none => .inr (x, g.pa, size, wAddr.toNat, none)
            | [] => .inl (memTrap x 6 0 base)
/-- ARM (R306). -/
def execArm (sl : BitVec 1) (c d : BitVec 7) (s : State) : Out :=
  withFrag s fun x =>
    issueOp x (gblockOk 8 c && gdOk d) (blockCodes c.toNat 8) [128 + d.toNat] sl fun x =>
      let w := (List.range 8).map fun i => greg x.g (c.toNat + i)
      match armChecks x w with
      | .inl s => s
      | .inr (y, pa, size, va, task) =>
        let value := (cmd w 4).toNat + 2 ^ 32 * (cmd w 5).toNat
        let b := cmd w 0
        let op := newOp y (.arm y.b.part pa size (cmd w 1).toNat va value (wbits b 11 9) task) (flagOf y sl)
        ((y.start { op with pend := [128 + d.toNat], dest := d.toNat }).skip 4).commit
/-- The lowest free entry of a slice (R307). -/
def freeCairn (s : State) (n : Nat) : Option Nat := (List.range 64).find? fun i => (kfind (kget ({} : Slice) s.slices n).cairns i).isNone
/-- ARM_COMPLETION (R307): an entry at the home slice and a place in every filter of the domain, or the cairn-full trap. -/
def execArmCompletion (id : Nat) (s : State) : Out :=
  completeIf s id (fun o => match o.kind with | .arm _ _ _ _ _ _ _ _ => true | _ => false) fun s o =>
    match o.kind with
    | .arm part base size total va value bits' task =>
      let n := (homeSlice s base).getD 0
      let dom := domSlices s base
      match freeCairn s n with
      | some i =>
        if dom.any fun q => 256 ≤ (kget ({} : Slice) s.slices q).filters.length then lateTrap s o 0x14 0 none .late
        else
          let h := 64 * n + i
          let c : Cairn := { part := part, base := base, size := size, total := total, write := bitOf bits' 0, post := bitOf bits' 1
                             rearm := bitOf bits' 2, wordVa := va, value := value, task := task }
          let s := dom.foldl (fun s q => modSlice s q fun sl => { sl with filters := sl.filters ++ [h] }) (setCairn s h c)
          finish s { o with gshadow := [o.dest], ws := 1, vwrites := [(gkey o.dest, word h)] }
      | none => lateTrap s o 0x14 0 none .late
    | _ => s
/-- DISARM (R311). -/
def execDisarm (sl : BitVec 1) (h d : BitVec 7) (s : State) : Out :=
  withFrag s fun x =>
    issueOp x (gsOk h && gdOk d) [gcode h.toNat] [128 + d.toNat] sl fun x =>
      let op := newOp x (.disarm (gsrc x.g h.toNat).toNat) (flagOf x sl)
      ((x.start { op with pend := [128 + d.toNat], dest := d.toNat }).skip 4).commit
/-- Take a cairn's region out of every filter, with the counts held for it. -/
def unfilter (s : State) (h : Nat) : State :=
  { s with slices := kmap (fun _ sl => { sl with filters := sl.filters.filter (· != h), notes := kdel sl.notes h }) s.slices }
/-- Free a cairn: a firing already begun completes, and its entry frees with it. A total of zero marks such an entry. -/
def freeEntryOf (s : State) (h : Nat) (c : Cairn) : State :=
  let s := unfilter s h
  if c.owed = 0 then modSlice s (h / 64) fun sl => { sl with cairns := kdel sl.cairns (h % 64) } else setCairn s h { c with total := 0, spent := true }
/-- A partition's live cairn by its handle; a handle with high bits set or of a disabled slice names none (R311). -/
def ownCairn (s : State) (part h : Nat) : Option Cairn :=
  if 2 ^ 14 ≤ h ∨ bitOf s.mgmt.config.slices (h / 64) then none
  else match cairnAt s h with | some c => if c.part = part ∧ c.total ≠ 0 then some c else none | none => none
/-- DISARM_COMPLETION (R311). -/
def execDisarmCompletion (id : Nat) (s : State) : Out :=
  completeIf s id (fun o => match o.kind with | .disarm _ => true | _ => false) fun s o =>
    match o.kind with
    | .disarm h =>
      let (r, s) := match ownCairn s o.part h with | some c => ((1 : Word), freeEntryOf s h c) | none => (0, s)
      let s := { s with groups := kmod s.groups o.group fun g => if g.gid = o.gid then o.change (fun g => landWide g o.who o.dest r ⟨0, 1⟩) g else g }
      finish s o
    | _ => finish s o

/-- ARRIVAL_NOTE (R308): a slice's held count reaches the cairn's home. -/
def execArrivalNote (slice handle : Nat) (s : State) : Out :=
  .next (match kfind (kget ({} : Slice) s.slices slice).notes handle with
    | some n => addCount (modSlice s slice fun sl => { sl with notes := kdel sl.notes handle }) handle n
    | none => s)
/-- CAIRN_POST_RETRY (R309, R310): a firing carries on; once complete, the next one may begin. -/
def execCairnPostRetry (handle : Nat) (s : State) : Out :=
  .next (match cairnAt s handle with
    | some c =>
      if c.owed = 0 then s
      else
        let s := carryOn s handle c c.owed
        match cairnAt s handle with
        | some q =>
          if q.owed ≠ 0 then s
          else if q.total = 0 then modSlice s (handle / 64) fun sl => { sl with cairns := kdel sl.cairns (handle % 64) }
          else fireWhile (q.sum + 2) s handle
        | none => s
    | none => s)

end Sys2Proof.Machine
end

