-- ==== Sys2Proof/Machine/Images.lean ====
section
/-!
DEFINITION. The context images of save and restore: fragments, provenances, groups and blocks as bytes, and back
(R359 to R363).
-/
namespace Sys2Proof.Machine

/-! ## Fragments (R360) -/

/-- Bytes of zero. -/
def zeros (n : Nat) : List Byte := List.replicate n 0

/-- An optional code address. -/
def optWord (o : Option Word) : Nat := match o with | some w => w.toNat | none => 0xFFFFFFFF
def wordOpt (n : Nat) : Option Word := if n = 0xFFFFFFFF then none else some (word n)
/-- Wait code and barrier of a fragment; outside a barrier, the barrier at which it has arrived last. -/
def waitCode (f : Frag) : Nat × Nat :=
  let at' := f.arrived.headD 0
  match f.wait with | .reconv => (1, at') | .bar n => (2, n) | .cbar => (3, 0) | .mbar => (4, at') | .cwait => (5, at') | .join => (6, at') | _ => (0, at')
/-- A fragment's 64 bytes. A barrier waiter whose arrival belongs to the next phase has arr clear. DESIGN CHOICE (log 81): narrowings occupy
slots 0 to 3 in their order of use, with ranks 0 to 3. -/
def fragBytes (f : Frag) : List Byte :=
  let (w, bar) := waitCode f
  let arr := match f.wait with | .bar _ => !f.again | .cbar => true | _ => f.arrived != []
  let slots := (List.range 4).map fun i => (f.narrow.drop i).head?
  leOut 4 f.members.toNat ++ leOut 4 f.exec.toNat ++ leOut 4 f.pc.toNat ++ leOut 4 (optWord f.reconv) ++ leOut 4 (optWord f.encl) ++
  leOut 4 f.fmt.toNat ++
  leOut 4 (w + 8 * b2n f.spin + 16 + 32 * b2n arr + 64 * (bar % 16) + 4096 * (0 + 4 * 1 + 16 * 2 + 64 * 3) + 2 ^ 20 * min f.age 4095) ++
  (slots.flatMap fun o => leOut 1 (match o with | some n => n.reg | none => 255)) ++
  slots.flatMap fun o => match o with | some n => leOut 4 (wordI n.lo).toNat ++ leOut 4 (wordI n.hi).toNat | none => leOut 8 0
/-- A fragment from its 64 bytes; nothing for an entry not in use. -/
def fragOf (b : List Byte) : Option Frag :=
  let w := leAt b 24 4
  if !bitOf w 4 then none
  else
    let arr := bitOf w 5
    let bar := bits w 9 6
    let rank := fun (i : Nat) => bits w (13 + 2 * i) (12 + 2 * i)
    let slot := fun (i : Nat) =>
      let r := leAt b (28 + i) 1
      if r = 255 then none else some (⟨r, sgn (word (leAt b (32 + 8 * i) 4)), sgn (word (leAt b (36 + 8 * i) 4))⟩ : Narrow)
    let order := (List.range 4).flatMap fun q => (List.range 4).filterMap fun i => if rank i = q then slot i else none
    let wait := bits w 2 0
    some {
      members := word (leAt b 0 4), exec := word (leAt b 4 4), pc := word (leAt b 8 4), reconv := wordOpt (leAt b 12 4), encl := wordOpt (leAt b 16 4)
      fmt := BitVec.ofNat 11 (leAt b 20 4), spin := bitOf w 3, age := bits w 31 20, narrow := order, rewait := true
      wait := match wait with | 1 => .reconv | 2 => .bar bar | 3 => .cbar | _ => .none
      arrived := if wait = 2 || (arr && wait != 3) then [bar] else [], again := wait == 2 && !arr }

/-- The header in force at a code address: of those below from which decoding reaches the address without meeting another, the farthest, as a
nearer one may be the payload of a LIT or a stage word (R155 to R157). -/
def walkTo (at' : Nat → Word) : Nat → Nat → Nat → Bool
  | 0, _, _ => false
  | n + 1, a, pc =>
    if a = pc then true
    else if pc < a then false
    else
      let w := at' a
      if wbits w 7 0 = 0xFF then false else walkTo at' n (a + (if bitOf w.toNat 0 then 4 else 2)) pc
def findHeader (s : State) (b : Block) (g : Group) (pc : Nat) : Option (Word × Word) :=
  let at' := fun (a : Nat) => peekWord s b { g with level := .user } (word a)
  ((List.range 70).filterMap fun k =>
    let a := pc - 2 * k
    let w := at' a
    if 1 ≤ k && 2 * k ≤ pc && wbits w 7 0 == 0xFF && walkTo at' 70 (a + (if bitOf w.toNat 29 then 8 else 4)) pc then some (word a, w) else none).getLast?
/-- A header word that waits for nothing and names no flag. -/
def openHeader : Word := 0x0FF000FF
/-- Put the header in force into a fragment that has not come through it; with none to be found, its clause begins where it stands. -/
def withHeader (s : State) (b : Block) (g : Group) (f : Frag) : Frag :=
  match findHeader s b g f.pc.toNat with | some (a, w) => { f with header := a, hword := w } | none => { f with header := f.pc - 4, hword := openHeader }
/-- What a fragment owes beyond its entry of an image (log 87). -/
def keepOf (f : Frag) : FragKeep :=
  { pc := f.pc, waits := (match f.wait with | .bar _ => true | .cbar => true | _ => false), arrived := f.arrived, again := f.again, arrive := f.arrive
    header := f.header, hword := f.hword, loop := f.loop, reached := f.reached, lastIssue := f.lastIssue, rotated := f.rotated }
/-- The same for a group's fragments as they stand at user level: by split-table entry, spilled ones from 8 on. -/
def keepsOf (g : Group) : KMap FragKeep :=
  (g.table.map fun (e, f) => (e, keepOf (match g.bank with | some k => if k.trap.entry = e then { k.frag with arrived := f.arrived } else f | none => f))) ++
  g.spill.zipIdx.map fun (f, i) => (8 + i, keepOf f)
/-- A restored fragment with what it still owes, when it is the one that was saved; a waiter whose phase has been completed since goes on
(R209 to R211). -/
def withKeep (s : State) (b : Block) (g : Group) (i : Nat) (f : Frag) : Frag :=
  let parted : Bool := match f.wait with | .bar _ => true | .cbar => true | _ => false
  match kfind g.kept i with
  | none => withHeader s b g f
  | some q =>
    if q.pc = f.pc ∨ (parted ∧ q.pc = f.pc + 4) then
      let f := { f with
        header := q.header, hword := q.hword, arrive := q.arrive, loop := q.loop, reached := q.reached, arrived := q.arrived, again := q.again
        lastIssue := q.lastIssue, rotated := q.rotated }
      if parted && !q.waits then { f with wait := .none, pc := f.pc + 4, again := false } else f
    else withHeader s b g f

/-! ## Provenances (R361) -/

def relCode (r : Rel) : Nat := match r with | .eq => 0 | .ne => 1 | .lt => 2 | .le => 3 | .gt => 4 | .ge => 5
def relOf (n : Nat) : Rel := match n with | 0 => .eq | 1 => .ne | 2 => .lt | 3 => .le | 4 => .gt | _ => .ge
/-- DESIGN CHOICE (log 127): byte 2, the second operand's register (R361), is 0 where that operand is an immediate, and a restore ignores it. -/
def provBytes (p : Prov) : List Byte :=
  if !p.valid then zeros 16
  else leOut 1 (1 + 2 * b2n p.signed + 4 * relCode p.rel + 32 * b2n p.useImm) ++ leOut 1 p.ra ++ leOut 1 (if p.useImm then 0 else p.rb) ++ [0] ++
    leOut 4 p.imm.toNat ++ leOut 4 p.mask.toNat ++ leOut 4 0
def provOf (b : List Byte) : Prov :=
  let w := leAt b 0 1
  if !bitOf w 0 then {}
  else { valid := true, signed := bitOf w 1, rel := relOf (bits w 4 2), useImm := bitOf w 5, ra := leAt b 1 1, rb := if bitOf w 5 then 0 else leAt b 2 1
         imm := word (leAt b 4 4), mask := word (leAt b 8 4) }

/-! ## The group image (R359) -/

/-- Byte size of a group's image. -/
def imageSize (g : Group) : Nat := 5120 + 1024 * g.units + 4096 * g.acch
def shadowBytes (s : Shadow) : List Byte := leOut 4 (wordI s.lo).toNat ++ leOut 4 (wordI s.hi).toNat
/-- A trap of a copy. -/
def isCopyTrap (t : Trap) : Bool := match t.kind with | .copy _ => true | _ => false
/-- Traps raised at a completion point that wait to be taken. -/
def lateOnes (g : Group) : List Trap := g.traps.filter fun t => t.kind == .late || t.kind == .beacon
/-- Pin bits by register code. -/
def pinByte (g : Group) (i : Nat) : Byte :=
  BitVec.ofNat 8 (((List.range 8).map fun j => if (kget ({} : Shadow) g.shadows (8 * i + j)).pin then 2 ^ j else 0).sum)
/-- The image of a group's user state. -/
def groupBytes (part slot : Nat) (g : Group) : List Byte :=
  let words := fun (l : List Nat) => l.flatMap fun v => leOut 4 v
  let trap := (lateOnes g).head?
  words [3 + 256 * g.units + 4096 * g.acch + 2 ^ 19 * g.index + 2 ^ 23 * g.role + 2 ^ 25 * slot, imageSize g, g.live.toNat, g.helper.toNat, g.spill.length, part] ++
  zeros 40 ++ leOut 4 g.gang.toNat ++ ((List.range 12).flatMap fun i => leOut 1 (kget 0 g.flags i)) ++ leOut 4 (g.gpreds &&& 0xFE#8).toNat ++
  (match trap with
    | some t => words [t.code + 256 * t.cause + 65536 * t.entry + 2 ^ 31, t.mask.toNat, t.pc.toNat]
    | none => zeros 12) ++
  words ((List.range' 1 7).map fun p => (kget (0 : Mask) g.preds p).toNat) ++ leOut 4 0 ++
  (((List.range' 1 7) ++ (List.range' 9 7)).flatMap fun p => provBytes (kget {} g.provs p)) ++
  ((List.range 8).flatMap fun b => leOut 16 (brec g b).toNat) ++ (List.range 32).map (pinByte g) ++
  words ((List.range 32).map fun m => (kget (0 : Word) g.tstatus m).toNat) ++ words ((List.range 64).map fun r => (greg g r).toNat) ++
  ((List.range 64).flatMap fun r => shadowBytes (kget {} g.shadows (128 + r))) ++ words (lanes.map fun l => (vreg g 95 l).toNat) ++
  ((List.range 96).flatMap fun r => shadowBytes (kget {} g.shadows r)) ++
  ((List.range 8).flatMap fun e => match kfind g.table e with | some f => fragBytes f | none => zeros 64) ++
  ((List.range 32).flatMap fun i => match (g.spill.drop i).head? with | some f => fragBytes f | none => zeros 64) ++
  words ((List.range (8 * g.units)).flatMap fun r => lanes.map fun l => if r = 95 then 0 else (vreg g r l).toNat) ++
  ((List.range (2048 * g.acch)).flatMap fun u => leOut 2 (kget (0 : BitVec 16) g.acc u).toNat) ++
  (lanes.flatMap fun l => leOut 8 (match kfind g.links l with | some a => a % 2 ^ 57 + 2 ^ 63 | none => 0))
/-- Nonzero entries of a table read from bytes. -/
def kfrom {α : Type} [DecidableEq α] (zero : α) (l : List (Nat × α)) : KMap α := kputAll [] (l.filter fun x => x.2 != zero)
/-- A group's user state from its image (R353); registers, masks and tables are the image's, identity and size its own. -/
def groupOf (s : State) (blk : Block) (b : List Byte) (g : Group) : Group :=
  let w := fun (o : Nat) => word (leAt b o 4)
  let pin := fun (c : Nat) => bitOf (leAt b (0x1E0 + c / 8) 1) (c % 8)
  let sh := fun (c o : Nat) => (⟨sgn (w o), sgn (w (o + 4)), pin c⟩ : Shadow)
  let t := leAt b 0x54 4
  let accAt := 0x1300 + 1024 * g.units
  let frag := fun (i o : Nat) => (fragOf ((b.drop o).take 64)).map (withKeep s blk g i)
  { g with
    live := w 8, helper := w 12, gang := w 0x40, gpreds := BitVec.ofNat 8 (leAt b 0x50 4) &&& 0xFE#8
    flags := kfrom 0 ((List.range 12).map fun i => (i, leAt b (0x44 + i) 1 % 64))
    traps := g.traps.filter isCopyTrap ++ if bitOf t 31 then
        [{ code := bits t 7 0, cause := bits t 15 8, entry := bits t 18 16, mask := w 0x58, pc := w 0x5C, next := w 0x5C + 4
           kind := if bits t 7 0 = 0x0C then .beacon else .late }] else []
    preds := kfrom 0 ((List.range' 1 7).map fun p => (p, w (0x60 + 4 * (p - 1))))
    provs := kfrom {} (((List.range' 1 7) ++ (List.range' 9 7)).zipIdx.map fun (p, i) => (p, provOf ((b.drop (0x80 + 16 * i)).take 16)))
    brecs := kfrom 0 ((List.range 8).map fun i => (i, BitVec.ofNat 128 (leAt b (0x160 + 16 * i) 16)))
    tstatus := kfrom 0 ((List.range 32).map fun m => (m, w (0x200 + 4 * m) &&& 7))
    gregs := kfrom 0 ((List.range 64).map fun r => (r, w (0x280 + 4 * r)))
    shadows := kfrom {} (((List.range 96).map fun r => (r, sh r (0x600 + 8 * r))) ++ ((List.range 64).map fun r => (128 + r, sh (128 + r) (0x380 + 8 * r))))
    vregs := kfrom 0 ((((List.range (8 * g.units)).filter (· != 95)).flatMap fun r => lanes.map fun l => (32 * r + l, w (0x1300 + 128 * r + 4 * l))) ++
      lanes.map fun l => (32 * 95 + l, w (0x580 + 4 * l)))
    acc := kfrom 0 ((List.range (2048 * g.acch)).map fun u => (u, BitVec.ofNat 16 (leAt b (accAt + 2 * u) 2)))
    links := (lanes.filterMap fun l =>
      let v := leAt b (accAt + 4096 * g.acch + 8 * l) 8
      if bitOf v 63 then some (l, v % 2 ^ 57) else none)
    table := (List.range 8).filterMap fun e => (frag e (0x900 + 64 * e)).map fun f => (e, f)
    spill := (List.range (leAt b 16 4 % 64)).filterMap fun i => frag (8 + i) (0xB00 + 64 * i), kept := [] }

/-! ## The block image (R362, R363) -/

/-- A saved copy: issuing group index, and the code of the trap it still owes. -/
def copyBytes (idx : Nat) (pend : Option Nat) (c : Copy) : List Byte :=
  (c.command.flatMap fun w => leOut 4 w.toNat) ++ c.desc ++ leOut 16 c.recT.toNat ++ leOut 16 c.recG.toNat ++ leOut 16 c.recP.toNat ++ leOut 16 c.recC.toNat ++
  leOut 8 c.w ++ leOut 4 (idx + 16 * (min c.flag 15) + (match pend with | some t => 256 + 65536 * t | none => 0)) ++ zeros 20
/-- The trap a copy owes its group, if one waits. -/
def owedTrap (g : Group) (n : Nat) : Option Trap := g.traps.find? fun t => t.kind == .copy n
/-- Trap code a copy is saved with: its own, or 0x05 when it stands at a migrating page (R278, R401). -/
def savedCode (s : State) (n : Nat) (c : Copy) : Option Nat :=
  if c.migWait.isSome then some 5 else (owedTrap (kget {} s.groups c.group) n).map (·.code)
/-- Copies that a save keeps (R278). -/
def savedCopies (s : State) (b : Block) : List (Nat × Copy) :=
  b.copies.filter fun (n, c) => c.state == .suspended || c.migWait.isSome || (c.state == .aborted && (savedCode s n c).isSome)
/-- Byte size of a block's image with its groups. -/
def blockSize (s : State) (bid : Nat) (b : Block) : Nat := 0x2000 + b.spsize + ((blockGroups s bid).map fun k => imageSize (kget {} s.groups k)).sum
/-- The image of a block, scratchpad included. DESIGN CHOICE (log 127): R350 names no trap of save 1 for a scratchpad word with a double-bit error;
its bytes are saved as they stand, and the word holds no error after the restore. -/
def blockBytes (s : State) (bid : Nat) (b : Block) : List Byte :=
  let cl := kget ({} : Cluster) s.clusters b.cluster
  let copies := savedCopies s b
  let ident := match cl.launch with | some l => (kget ({} : Launch) s.launches l).identity | none => 0
  let mine := (cl.arrived.filter fun i => i / 16 == bid).foldl (fun m i => m + 2 ^ (i % 16)) 0
  leOut 4 (3 + 256 * b.groups + 2 ^ 13 * b.index + 2 ^ 17 * b.part) ++ leOut 4 b.spsize ++ leOut 4 b.stage ++ leOut 4 copies.length ++ leOut 8 ident ++
  leOut 4 cl.x ++ leOut 4 cl.y ++ leOut 4 cl.z ++ leOut 4 (mine + 65536 * b2n cl.phase) ++ leOut 4 b.pword.toNat ++ zeros 20 ++
  ((List.range 16).flatMap fun n => leOut 4 (kregNow b n).toNat) ++
  ((List.range 16).flatMap fun n =>
    let q := kget ({} : Bar) b.bars n
    leOut 8 (q.arrived.toNat + 65536 * (q.expected % 256) + 2 ^ 24 * b2n q.phase + 2 ^ 25 * b2n q.countSet)) ++
  leOut 2 (match b.task with | some (n, _) => n | none => 0) ++ leOut 2 (match b.task with | some (_, r) => r | none => 0) ++ leOut 4 (b2n b.task.isSome) ++
  leOut 8 b.entry.toNat ++ leOut 16 b.code.toNat ++ zeros 32 ++
  ((List.range 32).flatMap fun n => match copies.find? (·.1 == n) with
    | some (_, c) => copyBytes (kget ({} : Group) s.groups c.group).index (savedCode s n c) c
    | none => zeros 192) ++
  ((List.range 16).flatMap fun i => b.sched.getD i (zeros 64)) ++
  ((List.range 16).flatMap fun i => leOut 4 (kget 0 b.nextj i)) ++ ((List.range 8).flatMap fun n => leOut 16 (kget (0 : Rec) b.roots n).toNat) ++
  zeros 512 ++ mreads b.scratch 0 b.spsize
/-- A copy from its 192 bytes, for a group; suspended, or aborted with its trap due, and without locks (R353). -/
def copyOf (b : List Byte) (k order : Nat) : Copy × Option Nat :=
  let f := leAt b 168 4
  let pend := if bitOf f 8 then some (bits f 23 16) else none
  ({ group := k, command := (List.range 8).map fun i => word (leAt b (4 * i) 4), desc := (b.drop 32).take 64
     recT := BitVec.ofNat 128 (leAt b 96 16), recG := BitVec.ofNat 128 (leAt b 112 16), recP := BitVec.ofNat 128 (leAt b 128 16)
     recC := BitVec.ofNat 128 (leAt b 144 16), w := leAt b 160 8, flag := bits f 7 4, locked := false, order := order
     state := if pend = some 0x0D then .aborted else .suspended }, pend)
/-- The schedule entries an image holds, up to the last (R284). -/
def schedOf : Nat → List Byte → List (List Byte)
  | 0, _ => []
  | n + 1, b => let e := b.take 64; if leAt e 0 2 = 0 then [] else if bitOf (leAt e 60 4) 3 then [e] else e :: schedOf n (b.drop 64)
/-- A copy once save 1 has saved it: without locks, and suspended when it stood at a migrating page, so that nothing of it moves before its
resumption (R278, R401). -/
def savedCopy (c : Copy) : Copy := { c with locked := false, state := if c.migWait.isSome then .suspended else c.state, migWait := none }
/-- Put a block image's state back (R353). Arrivals at the cluster barrier stand again in the phase they were made in; a phase completed since
has released them (R210, R211). -/
def restoreBlock (s : State) (bid : Nat) (im : List Byte) : State :=
  match kfind s.blocks bid with
  | none => s
  | some b =>
    let at' := fun (o n : Nat) => leAt im o n
    let groupKey := fun (i : Nat) => ((s.groups.find? fun (_, g) => g.block == bid && g.index == i).map (·.1)).getD 0
    let copies := (List.range 32).filterMap fun n =>
      let c := (im.drop (0x140 + 192 * n)).take 192
      if leAt c 32 4 % 8 = 0 then none else some (n, copyOf c (groupKey (leAt c 168 4 % 16)) (s.fresh + n))
    let word24 := at' 0x24 4
    let b := { b with
      stage := at' 8 4
      kregs := kfrom {} ((List.range 16).map fun n => (n, (⟨[(0, word (at' (0x40 + 4 * n) 4))]⟩ : KReg)))
      bars := kfrom {} ((List.range 16).map fun n =>
        let q := at' (0x80 + 8 * n) 8
        (n, ({ arrived := BitVec.ofNat 16 q, expected := bits q 23 16, phase := bitOf q 24, countSet := bitOf q 25 } : Bar)))
      copies := copies.map fun (n, c) => (n, c.1)
      sched := schedOf 16 (im.drop 0x1940)
      nextj := kfrom 0 ((List.range 16).map fun i => (i, at' (0x1D40 + 4 * i) 4))
      roots := kfrom 0 ((List.range 8).map fun n => (n, BitVec.ofNat 128 (at' (0x1D80 + 16 * n) 16)))
      releasers := [(at' 8 4, groupKey 0)]
      scratch := mwrites [] 0 ((im.drop 0x2000).take b.spsize), marks := [], spErrors := [], spSingles := [] }
    let s := { s with fresh := s.fresh + 32, blocks := kput s.blocks bid b
                      groups := kmap (fun _ g => if g.block = bid then { g with verdicts := [] } else g) s.groups
                      clusters := kmod s.clusters b.cluster fun cl =>
                        if cl.phase = bitOf word24 16 then
                          { cl with arrived := (cl.arrived.filter fun i => i / 16 != bid) ++ (List.range 16).filterMap fun i => if bitOf word24 i then some (16 * bid + i) else none }
                        else cl }
    copies.foldl (fun s (n, c, pend) =>
      match pend with
      | some code =>
        let addr := match c.elems.head? with | some e => if code = 0x0D ∧ dDir c.desc then e.sa else e.g.getD 0 | none => (counterVa c.recC (cmd c.command 2)).toNat
        let s := setCopy s bid n fun c => { c with counterFault := c.elems == [], moved := c.elems == [] }
        queueTrap s c.group (copyTrap c n code (if code = 6 then 4 else 1) addr)
      | none => s) s

end Sys2Proof.Machine
end

