-- ==== Sys2Proof/Machine/System.lean ====
section
/-!
DEFINITION. Clause headers; traps taken at headers and in waits; rte and its dispositions; system registers; save and restore;
pgref and cresume; the watchdog (R154 to R159, R275 to R279, R340 to R357, R364, R404).
-/
namespace Sys2Proof.Machine

/-! ## Traps that wait to be taken (R342, R345) -/

/-- Copy traps of a group in the issue order of their copies; the others, oldest first. -/
def copyOrder (b : Block) (t : Trap) : Nat := match t.kind with | .copy n => (match kfind b.copies n with | some c => c.order | none => 0) | _ => 0
def firstCopyTrap (b : Block) (ts : List Trap) : Option Trap :=
  (ts.filter isCopyTrap).foldl (fun m t => match m with | some q => if copyOrder b t < copyOrder b q then some t else m | none => some t) none
def dropTrap (g : Group) (t : Trap) : Group := { g with traps := g.traps.erase t }
/-- Waits that a trap ends and the return executes again; a barrier waiter waits on with its arrival (R211, R251, R281, R301). -/
def rewait (f : Frag) : Frag :=
  match f.wait with
  | .keystone => { f with wait := .none }
  | .mbar => { f with wait := .none, watch := none }
  | .cwait => { f with wait := .none, watch := none }
  | .join => { f with wait := .none, watch := none }
  | _ => f
/-- Pre-emption discards a group's arrival at a keystone and its waiters' records, whichever fragments they belong to (R251, R301). -/
def leaveWaits (s : State) (k : Nat) : State :=
  (groupFrags (kget ({} : Group) s.groups k)).foldl (fun s f => dropWaiter s k f) (dropArrival s k)
/-- Take a trap at a clause header or in a wait. -/
def takeHere (x : Env) (t : Trap) : State :=
  let s := x.commit
  let s := if t.kind = .preempt then leaveWaits s x.k
    else if t.kind = .watchdog then
      let s := leaveWaits s x.k
      { s with groups := kmod s.groups x.k (mapFrags rewait) }
    else if x.f.wait = .keystone then dropArrival s x.k
    else dropWaiter s x.k x.f
  let y := x.reload s
  let f := rewait y.f
  takeTrap { y with f := f } { t with inWait := true, pc := f.pc, mask := f.exec }
/-- The watchdog and pre-emption traps. -/
def watchdogTrap : Trap := { code := 0x15, kind := .watchdog }
def preemptTrap (cause idx : Nat) : Trap := { code := 0x10, cause := cause, addr := idx, kind := if cause = 3 then .resume else .preempt }
/-- The trap a fragment at a clause header or in a wait takes, in the order of R345; `copyOk` tells which copy traps reach it. -/
def takePending (x : Env) (copyOk : Trap → Bool) : Option State :=
  if x.g.watchdog then some (takeHere { x with g := { x.g with watchdog := false } } watchdogTrap)
  else match firstCopyTrap x.b (x.g.traps.filter copyOk) with
    | some t => some (takeHere { x with g := dropTrap x.g t } t)
    | none => match x.g.preempt with
      | some (c, i, own) => some (takeHere { x with g := { x.g with preempt := none, sgindex := own } } (preemptTrap c i))
      | none => none

/-! ## Clause headers (R154 to R159) -/

/-- Every flag a wait mask names is zero (R44). -/
def flagsZero (g : Group) (wait : Nat) : Bool := (List.range 12).all fun i => !(bitOf wait i) || kget 0 g.flags i == 0
/-- A word is the budget word a calli target must begin with, and the group's allotment covers it (R154). -/
def budgetOk (g : Group) (w : Nat) : Bool := bits w 7 0 = 0xFD && 1 ≤ bits w 11 8 && bits w 11 8 ≤ 12 && bits w 11 8 ≤ g.units
/-- The check that a fragment arriving by calli owes at the header (R154); it waits for bytes on their way, and one that cannot be fetched
raises the fetch's trap. -/
def budgetCheck (x : Env) (first : Word) (m : Env → State) : State :=
  let here : Trap := { code := 0x0A, pc := x.f.pc, mask := x.f.exec, next := x.f.pc, kind := .arrival .calli }
  if x.f.arrive ≠ .calli then m x
  else match firstAt x first with
    | (.inl .waits, y) => stall y
    | (.inl (.park p), y) => y.park p
    | (.inl (.trap c u a), y) => takeTrap y { here with code := c, cause := u, addr := a }
    | (.inr w, y) => if budgetOk y.g w then m y else takeTrap y here
/-- CLAUSE_HEADER: a fragment reaches a header. The budget of a calli target, the header's fields, the traps taken at a header,
then the wait mask, which stands to be met again as the clause's first instruction issues (R44, R159). -/
def execClauseHeader (sg y : BitVec 1) (b a : BitVec 4) (w : BitVec 12) (s : State) : Out :=
  withFrag s fun x =>
    let len : Nat := if sg = 1 then 8 else 4
    let bad := fun (v : BitVec 4) => 12 ≤ v.toNat && v.toNat ≤ 14
    budgetCheck x (x.f.pc + word len) fun x =>
    if bad a || bad b then illegal x len
    else match (if x.g.level = .user then takePending x (fun _ => true) else none) with
      | some s => s
      | none =>
        let word := word (0xFF + 256 * w.toNat + 2 ^ 20 * a.toNat + 2 ^ 24 * b.toNat + 2 ^ 28 * y.toNat + 2 ^ 29 * sg.toNat)
        if !flagsZero x.g w.toNat then stall x
        else { x with f := { x.f with header := x.f.pc, hword := word, pc := x.f.pc + BitVec.ofNat 32 len, arrive := .none, rewait := true } }.commit

/-- TRAP_ENTRY: a trap that does not wait for a header is taken: one raised at a completion point while a handler ran (R342),
one that wakes a waiting fragment (R275, R357, R364), or one of a group with no live lane (R279). -/
def execTrapEntry (k e : Nat) (s : State) : Out :=
  .next (match envAt s k e with
    | none => s
    | some x =>
      if x.g.level ≠ .user ∨ x.g.parked.isSome ∨ x.g.resuming.isSome ∨ x.g.left then s
      else match x.g.traps.find? fun t => !isCopyTrap t with
        | some t => if t.entry = e then takeTrap { x with g := dropTrap x.g t, f := { x.f with pc := t.pc } } t else s
        | none =>
          let onCounter := fun (t : Trap) =>
            match t.kind, x.f.wait, x.f.watch with
            | .copy n, .cwait, some w =>
              (match kfind x.b.copies n with
                | some c =>
                  w.scratch == inScratch c.recC && (w.va == (counterVa c.recC (cmd c.command 2)).toNat ||
                    (match (counterPlace x.s x.k x.b c).1 with
                      | .inr g => tkey w.tier w.addr == g.key
                      | .inl _ => false))
                | none => false)
            | _, _, _ => false
          if (x.f.wait = .none ∨ x.f.wait = .reconv) ∧ x.g.live ≠ 0 then s
          else (takePending x (if x.g.live = 0 then fun _ => true else onCounter)).getD s)

/-! ## rte (R346, R347, R354) -/

/-- fix and retry wait for what a copy needs: two free range locks where it holds none, as cresume does (R276, R356), and for one to be
issued again whole, room in its flag and in the engine (R44, R267, R277). -/
def resumeHeld (x : Env) (n : Nat) : Bool :=
  match kfind x.b.copies n with
  | some c => (!c.locked && !lockFree x.s x.core 2) ||
      (c.state == .aborted && ((c.flag < 12 && kget 0 x.g.flags c.flag == 63) || 32 ≤ engineCopies x.s x.core))
  | none => false
/-- The disposition of a copy's trap (R276, R277). -/
def copyDispose (s : State) (bid n : Nat) (again : Bool) : State :=
  match kfind (kget ({} : Block) s.blocks bid).copies n with
  | none => s
  | some c =>
    let b := kget ({} : Block) s.blocks bid
    let s := if again && c.state != .running then (relock s bid n b c).getD s else s
    match c.state with
    | .running => s
    | .suspended =>
      if again then setCopy s bid n fun c => { c with state := .running, counterFault := false, moved := c.counterFault && c.moved, asked := false, got := [] }
      else if c.counterFault then endCopy s bid n c
      else match counterPlace s c.group b c with
        | (.inr g, s) =>
          if g.tier = 2 then setCopy s bid n fun c => { c with state := .running, w := dBytes c.desc, moved := true }
          else endCopy (counterAdd s bid g (dBytes c.desc) c.group (stampNow s) none) bid n c
        | (.inl (.trap code u), s) =>
          queueTrap (setCopy s bid n fun c => { c with w := dBytes c.desc, moved := true, counterFault := true }) c.group
            (copyTrap { c with w := dBytes c.desc } n code (if code = 6 then u + 4 else 1) (counterVa c.recC (cmd c.command 2)).toNat)
        | (.inl _, s) => setCopy s bid n fun c => { c with state := .running, w := dBytes c.desc, moved := true }
    | .aborted =>
      if again then
        let s := setCopy s bid n fun c => { c with state := .running, w := 0, moved := false, asked := false, got := [], lost := [] }
        { s with groups := kmod s.groups c.group fun g => raiseFlag g c.flag }
      else { s with blocks := kmod s.blocks bid fun b => { b with copies := kdel b.copies n } }
/-- What a saved block keeps of each group: its place in the block and its allotment, the node of a task group, what its fragments owe, and its
place among synchronised accesses. -/
def husk (g : Group) : Group :=
  { gid := g.gid, block := g.block, index := g.index, units := g.units, acch := g.acch, role := g.role, resumed := true, sgindex := g.sgindex
    task := g.task, nodeDesc := g.nodeDesc, kept := keepsOf g, barCounts := g.barCounts
    acqStamp := g.acqStamp, wrStamp := g.wrStamp, readMarks := g.readMarks, relFence := g.relFence, icinv := g.icinv, codeSeen := g.codeSeen }
/-- Cause of the pre-emption that a block's groups have left on. -/
def leaveCause (s : State) (bid : Nat) : Nat :=
  ((blockGroups s bid).findSome? fun k => (kget ({} : Group) s.groups k).bank.map (·.trap.cause)).getD 0
/-- A block whose groups have all left is saved, or ends as by kill when it has no block image (R354, R387). -/
def blockLeaves (s : State) (bid : Nat) : State :=
  match kfind s.blocks bid with
  | none => s
  | some b =>
    let ks := blockGroups s bid
    if ks.any fun k => !(kget {} s.groups k).left then s
    else if !b.saved1 then killBlock s bid 0x10 (leaveCause s bid)
    else
      let keep : SavedBlock := {
        block := { b with copies := [], scratch := [], spErrors := [], spSingles := [], marks := [], kregs := [], bars := [], preempting := false, saved1 := false, resumed := true, restored1 := false }
        groups := kputAll [] (ks.map fun k => let g := kget ({} : Group) s.groups k; (g.index, husk g)), die := dieOf b.core }
      let s := { s with groups := s.groups.filter (fun x => x.2.block != bid), blocks := kdel s.blocks bid, saved := kput s.saved bid keep }
      let s := modCore s b.core fun c => { c with
        locks := c.locks.filter fun l => l.block != bid
        division := if s.blocks.any (fun x => x.2.core == b.core) then c.division else none }
      queueSaved s b.cluster
/-- rte after a pre-emption trap: the group leaves, or, unsaved, ends the block with a logged fault (R354). -/
def leaveCore (x : Env) (k : Bank) : State :=
  if x.g.saved then blockLeaves { x with g := { x.g with left := true } }.commit x.g.block
  else supervisorFault x.commit x.g.block k.trap
/-- A handler's group ends its fragment when the image held none there. -/
def dropHusk (s : State) (k e : Nat) : State :=
  match kfind s.groups k with
  | some g => if (kget ({} : Frag) g.table e).members = 0 ∧ 1 < g.table.length then { s with groups := kput s.groups k (refill { g with table := kdel g.table e }) } else s
  | none => s
/-- Skip past an instruction that had no effect: after a clause header its clause follows, counted from it and under its set fields (R157). -/
def skipped (t : Trap) (f : Frag) : Frag :=
  let f := { f with pc := t.next, replay := none, arrive := .none }
  if wbits t.word 7 0 = 0xFF then
    { f with pc := t.pc + (if bitOf t.word.toNat 29 then 8 else 4), header := t.pc, hword := t.word }
  else f
/-- The fragment as a disposition leaves it (R347). -/
def disposed (t : Trap) (again : Bool) (f : Frag) : Frag :=
  match t.kind with
  | .before => if again then { f with pc := t.pc } else skipped t f
  | .partly => if again then { f with pc := t.pc, replay := t.replay } else { f with pc := t.next, replay := none }
  | .late => if again then { f with pc := t.pc } else { f with pc := t.next }
  | .beacon => if again then { f with pc := t.pc, resend := some t.mask } else { f with pc := t.next, resend := none }
  | .arrival a => { f with arrive := if again then a else .none }
  | _ => f
/-- Skip at a code address waives the check of an arrival: the clause the address lies in is in force (R157, R347). -/
def waived (x : Env) (t : Trap) (again : Bool) : Env :=
  match t.kind with
  | .arrival _ => if again then x else { x with f := withHeader x.s x.b x.g x.f }
  | _ => x
/-- An rte waits for the group's save or restore, and in a resumed block for its restore 1 (R353). -/
def rteHeld (x : Env) : Bool :=
  x.outstanding.any (fun o => match o.kind with | .saveRestore _ _ => true | _ => false) || (x.b.resumed && !x.b.restored1)
/-- The fragment that a handler serves has ended with its last lane (R205): the group leaves the handler. DESIGN CHOICE (log 116): with rte
skip's disposition, as no instruction is left to go back to; a pre-emption's group leaves as by rte. -/
def handlerEnds (x : Env) (k : Bank) : State :=
  match k.trap.kind with
  | .preempt => leaveCore x k
  | .resume => { x with g := { bankOut x.g k with resumed := false, restored := false, sgindex := 0 } }.commitEnd
  | .copy n => copyDispose { x with g := bankOut x.g k }.commitEnd x.g.block n false
  | _ => { x with g := bankOut x.g k }.commitEnd
/-- Put back a fragment that has lost lanes (R205). -/
def Env.lanesGone (x : Env) : State :=
  match x.g.bank with
  | some k => if x.f.members = 0 then handlerEnds x k else x.commit
  | none => x.commitEnd
/-- EXIT (R205). -/
def execExit (g : BitVec 3) (s : State) : Out :=
  withFrag s fun x => issue x true (if g = 0 then [] else [pcode g.toNat]) [] fun x =>
    ((x.endLanes (x.f.exec &&& pmask x.g g.toNat)).skip 4).lanesGone
/-- EXIT_J (R299): each counter is checked as a read-modify-write is, and a failure at any of them comes before any effect. -/
def execExitJ (_sl : BitVec 1) (s : State) : Out :=
  withFrag s fun x => issueAccess x true [] [] fun x =>
    let act := lanesOf x.f.exec
    let ended := fun (x : Env) => ((x.endLanes x.f.exec).skip 4).lanesGone
    if act = [] then (x.skip 4).commit
    else if releaseHeld x then stall x
    else if act.any fun l => (kfind x.g.links l).isNone then trapAt x 0x12 0
    else match check x false .rmw 3 8 false (act.map fun l => (⟨l, 0, (kget 0 x.g.links l : Nat), 8⟩ : Piece)) with
      | .inl s => s
      | .inr c =>
        match c.trap with
        | some t => takeTrap c.x { t with mask := c.failed, next := c.x.f.pc + 4 }
        | none =>
          if c.parked ≠ 0 then c.x.park c.pte
          else ended (c.segs.foldl (fun x q => match q.2 with | g :: _ => joinDown x g | [] => x) c.x)
/-- rte fix, retry and skip. -/
def rte (x : Env) (again : Bool) (count : Partition → Partition) : State :=
  match x.g.bank with
  | none => illegal x
  | some k =>
    if rteHeld x then stall x
    else
      let y := { x with s := modPart x.s x.b.part count }
      match k.trap.kind with
      | .preempt => leaveCore y k
      | .resume =>
        let y := leaveHandler y k
        dropHusk { y with g := { y.g with resumed := false, restored := false, sgindex := 0 } }.commit y.k y.e
      | .copy n =>
        if again && resumeHeld x n then stall x
        else let y := leaveHandler y k; copyDispose y.commit y.g.block n again
      | _ => let y := leaveHandler y k; (waived { y with f := disposed k.trap again y.f } k.trap again).commit
/-- At user level every encoding of the system major traps (R349). -/
def priv (s : State) (m : Env → State) : Out := withFrag s fun x => if x.g.level = .user then trapAt x 2 0 else m x
/-- RTE_FIX. -/
def execRteFix (s : State) : Out := priv s fun x => rte x true fun p => { p with fixes := p.fixes + 1 }
/-- RTE_RETRY. -/
def execRteRetry (s : State) : Out := priv s fun x => rte x true fun p => { p with retries := p.retries + 1 }
/-- RTE_SKIP. -/
def execRteSkip (s : State) : Out := priv s fun x => rte x false id
/-- RTE_KILL (R348). -/
def execRteKill (s : State) : Out :=
  priv s fun x => match x.g.bank with
    | none => illegal x
    | some k => if rteHeld x then stall x else killBlock x.commit x.g.block k.trap.code k.trap.cause

/-! ## System registers (R340) -/

/-- A register of R340 that the partition holds. -/
def sysReg (n : Nat) : Bool :=
  n == 0 || (4 ≤ n && n ≤ 7) || (0x10 ≤ n && n ≤ 0x21) || n == 0x30 || n == 0x31 || (0x34 ≤ n && n ≤ 0x3C) || (0x40 ≤ n && n ≤ 0x44)
/-- A register of a group's own. -/
def groupReg (n : Nat) : Bool := 0x100 ≤ n && n ≤ 0x112
/-- Writable bits (R6, R340). -/
def sysMask (n : Nat) : Word := match n with | 0x20 => 1 | 0x3C => 0x1F | 0x44 => 0x3F | _ => 0xFFFFFFFF
/-- A partition register as a read returns it: the newest write. -/
def sysValue (s : State) (p n : Nat) : Word :=
  let q := kget ({} : Partition) s.parts p
  ((q.late.reverse.find? fun l => l.2.1 == n).map (·.2.2)).getD (kget 0 q.regs n)
/-- The group's image index (R362). -/
def groupIndex (s : State) (g : Group) (base : Nat) : Nat :=
  base + 0x2000 + (kget ({} : Block) s.blocks g.block).spsize +
    ((blockGroups s g.block).map fun k => let h := kget ({} : Group) s.groups k; if h.index < g.index then imageSize h else 0).sum
/-- What sread returns. -/
def sysRead (x : Env) (n : Nat) : Word :=
  if n < 0x100 then sysValue x.s x.b.part n
  else if n < 0x110 then x.g.strec.getD (n - 0x100) 0
  else if n = 0x110 then word (x.slot + 64 * x.g.index + 1024 * x.b.index + 16384 * x.core)
  else if n = 0x111 then word (imageSize x.g)
  else word x.g.sgindex
/-- SREAD. -/
def execSread (n d : BitVec 7) (h : BitVec 3) (s : State) : Out :=
  priv s fun x =>
    let r := n.toNat + 128 * h.toNat
    issue x ((sysReg r || groupReg r) && gdOk d) [] [128 + d.toNat] fun x => ((x.gwrite d.toNat (sysRead x r) top).skip 4).commit
/-- SWRITE: in effect for what begins 64 clocks later. -/
def execSwrite (n sr : BitVec 7) (h : BitVec 3) (s : State) : Out :=
  priv s fun x =>
    let r := n.toNat + 128 * h.toNat
    issue x ((sysReg r || groupReg r) && gsOk sr) [gcode sr.toNat] [] fun x =>
      let x := if sysReg r then
          { x with s := modPart x.s x.b.part fun p => { p with late := p.late ++ [(x.s.clock + 64, r, gsrc x.g sr.toNat &&& sysMask r)] } }
        else x
      (x.skip 4).commit
/-- Writes whose 64 clocks have passed take effect. -/
def applyLate (s : State) : State :=
  { s with parts := kmap (fun _ p =>
      let due := p.late.filter fun l => l.1 ≤ s.clock
      if due = [] then p else { p with regs := due.foldl (fun r l => kput r l.2.1 l.2.2) p.regs, late := p.late.filter fun l => s.clock < l.1 }) s.parts }

/-! ## save and restore (R350 to R353) -/

/-- Rows 1 to 8 for an image of `n` bytes: a trap or a park, or the places of its bytes. -/
def imageAt (x : Env) (i : BitVec 7) (b : BitVec 3) (n : Nat) (write : Bool) : Sum State (Env × List Seg) :=
  let r := brec x.g b.toNat
  let idx := (gsrc x.g i.toNat).toNat
  let va := lBase r + idx
  if !(validRec r && !isTile r && !inScratch r && lEsize r == 0 && idx % 64 == 0) then .inl (recordTrap x b.toNat)
  else if !inReach r va n then .inl (memTrap x 3 0 0 (word b.toNat))
  else if !(if write then pwrite r else pread r) then .inl (memTrap x 4 0 0 (word b.toNat))
  else if 2 ^ 57 < va + n then .inl (memTrap x 6 2 va)
  else
    let pages := (List.range ((va + n - 1) / 65536 + 1 - va / 65536)).map (va / 65536 + ·)
    let (tr, s) := translateAll x.s x.core x.b.part .supervisor (if write then .write else .read) pages
    let x := { x with s := s }
    match tr.find? fun q => match q.2 with | .ok _ _ _ _ => false | _ => true with
    | some (_, .park a) => .inl { x with g := { x.g with parked := some ⟨x.e, a, 15, []⟩ } }.commit
    | some (v, .trap c u) => .inl (memTrap x c u (max va (v * 65536)))
    | some (_, .ok _ _ _ _) => .inl x.commit
    | none => .inr (x, tr.filterMap fun (v, o) =>
        match o with
        | .ok tier place frame pte =>
          let lo := max va (v * 65536)
          some ⟨tier, place, frame * 65536 + lo % 65536, min (va + n) ((v + 1) * 65536) - lo, pte⟩
        | _ => none)
/-- Write an image; bytes of peers go out as remote writes of an operation, whose tags are answered. -/
def putImage (s : State) (part op : Nat) : List Seg → List Byte → List Nat × State
  | [], _ => ([], s)
  | g :: gs, bs =>
    let mine := bs.take g.len
    let s := { s with marks := endMarks s.marks ((List.range g.len).map fun i => markKey g.tier g.place (g.pa + i)) }
    let (t, s) := if g.tier = 2 then putAll s { type := 1, dst := g.place, part := part, op := some op } ((cellsAt g.pa mine).map fun c => (g.place, c))
      else ([], accepted (partWrite s part g.tier (cellsAt g.pa mine)) g.tier ((List.range g.len).map (g.pa + ·)) false)
    let (ts, s) := putImage s part op gs (bs.drop g.len)
    (t ++ ts, s)
/-- The bytes of an image as they stand on this device, those of peers zero. -/
def getImage (s : State) (sg : List Seg) : List Byte := sg.flatMap fun g => if g.tier = 2 then List.replicate g.len 0 else physRead s g.tier g.pa g.len
/-- The bytes of an image that peers hold, each wanted for its place among the image's words. -/
def imageWants (sg : List Seg) : List Want :=
  (sg.foldl (fun (acc : Nat × List Want) g =>
    (acc.1 + g.len, if g.tier = 2 then acc.2 ++ (List.range g.len).map fun i => ⟨g.place, g.pa + i, 0, (acc.1 + i) / 4, (acc.1 + i) % 4, 0⟩ else acc.2)) (0, [])).2
/-- An image's words, and the image from its words. -/
def imageWords (bs : List Byte) : KMap Word := kfrom 0 ((List.range (bs.length / 4)).map fun i => (i, word (leAt bs (4 * i) 4)))
def wordsImage (n : Nat) (m : KMap Word) : List Byte := (List.range (n / 4)).flatMap fun i => leOut 4 (kget 0 m i).toNat
/-- Start the operation of a save or restore and go on. -/
def startImage (x : Env) (block restore : Bool) (tags : List Nat) : State :=
  ((x.start { newOp x (.saveRestore block restore) 15 with tags := tags }).skip 4).commit
/-- A restore that needs bytes of peers: its operation holds the fragment until they have come. -/
def askImage (x : Env) (block : Bool) (b : Nat) (sg : List Seg) : State :=
  let op := newOp x (.saveRestore block true) 15
  let words := imageWords (getImage x.s sg)
  let (tags, s) := askAll x.s op.id x.b.part (imageWants sg)
  ({ x with s := s }.start { op with tags := tags, held := true, vwrites := words, dest := b }).commit
/-- A group's user state as its image shows it while a handler runs (R341, R346, R351). -/
def userState (g : Group) (e : Nat) (f : Frag) : Group :=
  match g.bank with
  | some k => let u := bankOut g k; { u with table := kput u.table e { k.frag with narrow := f.narrow, arrived := f.arrived } }
  | none => g
/-- Copies of a group or block that still move. -/
def copiesMove (b : Block) (k : Option Nat) : Bool :=
  b.copies.any fun (_, c) => c.state == .running && c.migWait.isNone && (match k with | some k => c.group == k | none => true)
/-- SAVE_GROUP (R351). It reads every register and accumulator word of the group (R54). DESIGN CHOICE (log 116): a double-bit error among them
raises the data-error trap of a read, before any effect, that of an accumulator word with cause 3 as mst's. -/
def execSaveGroup (i : BitVec 7) (b : BitVec 3) (s : State) : Out :=
  priv s fun x => issue x (gsOk i) [gcode i.toNat] [] fun x =>
    if x.outstanding != [] || x.g.pending != [] || copiesMove x.b (some x.k) then stall x
    else match (userState x.g x.e x.f).regErrors, x.g.accErrors with
      | w :: _, _ => errorTrap x w 4
      | [], w :: _ => accTrap x (w / 512)
      | [], [] =>
        match imageAt x i b (imageSize x.g) true with
        | .inl s => s
        | .inr (y, sg) =>
          let u := userState y.g y.e y.f
          let bytes := groupBytes y.b.part y.slot u
          let y := { y with
            s := corrected y.s y.core (u.regSingles.length + y.g.accSingles.length)
            g := { y.g with regSingles := [], accSingles := [], bank := y.g.bank.map fun (k : Bank) => { k with singles := [] } } }
          let (tags, s) := putImage y.commit y.b.part y.s.fresh sg bytes
          startImage (y.reload s) false false tags
/-- SAVE_BLOCK (R352). -/
def execSaveBlock (i : BitVec 7) (b : BitVec 3) (s : State) : Out :=
  priv s fun x => issue x (gsOk i && x.g.index == 0) [gcode i.toNat] [] fun x =>
    if (blockGroups x.s x.g.block).any (fun k => !(kget {} x.s.groups k).saved) || copiesMove x.b none then stall x
    else match imageAt x i b (0x2000 + x.b.spsize) true with
      | .inl s => s
      | .inr (y, sg) =>
        let s := scrubbed y.commit y.g.block [(0, y.b.spsize)]
        let bytes := blockBytes s y.g.block y.b
        let (tags, s) := putImage s y.b.part s.fresh sg bytes
        let s := (y.b.copies).foldl (fun s (n, _) => setCopy (dropLocks s y.core y.g.block n) y.g.block n savedCopy) s
        startImage (y.reload s) true false tags
/-- A group takes the user state of its image (R353), or raises the record trap. -/
def groupImage (y : Env) (b : Nat) (im : List Byte) : Sum State Env :=
  if leAt im 0 1 ≠ 3 ∨ leAt im 20 4 ≠ y.b.part ∨ leAt im 4 4 ≠ imageSize y.g then .inl (recordTrap y b)
  else
    let u := groupOf y.s y.b im y.g
    let mine := kget ({} : Frag) u.table y.e
    let u := { u with bank := y.g.bank.map fun k => { k with frag := mine }, regErrors := [], regSingles := [], accErrors := [], accSingles := [], verdicts := [] }
    .inr { y with g := rebank u { y.g with provs := y.g.provs.filter fun p => p.1 == 14 || p.1 == 15 }, f := { y.f with members := mine.members, exec := mine.exec, narrow := mine.narrow, arrived := mine.arrived } }
/-- A block takes the state of its image (R353), or its group raises the record trap; nothing while the copy engine lacks room for the saved
copies. -/
def blockImage (y : Env) (b : Nat) (im : List Byte) : Option (Sum State Env) :=
  if leAt im 0 1 ≠ 3 ∨ bits (leAt im 0 4) 22 17 ≠ y.b.part ∨ leAt im 4 4 ≠ y.b.spsize then some (.inl (recordTrap y b))
  else if 32 < engineCopies y.s y.core + leAt im 12 4 then none
  else some (.inr (y.reload (restoreBlock y.commit y.g.block im)))
/-- RESTORE_GROUP (R353). -/
def execRestoreGroup (i : BitVec 7) (b : BitVec 3) (s : State) : Out :=
  priv s fun x => issue x (gsOk i && x.g.resumed) [gcode i.toNat] [] fun x =>
    match imageAt x i b (imageSize x.g) false with
    | .inl s => s
    | .inr (y, sg) =>
      if sg.any (·.tier == 2) then askImage y false b.toNat sg
      else match groupImage y b.toNat (getImage y.s sg) with
        | .inl s => s
        | .inr z => startImage z false true []
/-- RESTORE_BLOCK (R353). -/
def execRestoreBlock (i : BitVec 7) (b : BitVec 3) (s : State) : Out :=
  priv s fun x => issue x (gsOk i && x.g.resumed && x.g.index == 0) [gcode i.toNat] [] fun x =>
    match imageAt x i b (0x2000 + x.b.spsize) false with
    | .inl s => s
    | .inr (y, sg) =>
      if sg.any (·.tier == 2) then askImage y true b.toNat sg
      else match blockImage y b.toNat (getImage y.s sg) with
        | none => stall x
        | some (.inl s) => s
        | some (.inr z) => startImage z true true []
/-- The end of a save or restore: what has been saved or restored; a block's restore 1 frees the slot it was saved in (R385). -/
def imageDone (s : State) (k : Nat) (block restore : Bool) : State :=
  match kfind s.groups k with
  | none => s
  | some g =>
    match block, restore with
    | false, false => { s with groups := kput s.groups k { g with saved := true } }
    | false, true => { s with groups := kput s.groups k { g with restored := true } }
    | true, false => { s with blocks := kmod s.blocks g.block fun b => { b with saved1 := true } }
    | true, true =>
      let b := kget ({} : Block) s.blocks g.block
      let s := freeSaveSlots s b.part b.resumeSlot.toList
      { s with blocks := kmod s.blocks g.block fun b => { b with restored1 := true, resumeSlot := none } }
/-- A restore's bytes have come from peers: its fragment goes on with the image put back. -/
def imageCame (s : State) (o : Op) (block : Bool) : State :=
  match envAt s o.group o.entry with
  | none => finish s o
  | some y =>
    if y.g.gid ≠ o.gid ∨ o.trap.isSome then finish s o
    else
      let im := wordsImage (if block then 0x2000 + y.b.spsize else imageSize y.g) o.vwrites
      let finish' := fun (z : Env) => imageDone (finish z.commit o) o.group block true
      let gone := { y with s := { y.s with ops := y.s.ops.filter fun q => q.id != o.id } }
      if block then
        match blockImage y o.dest im with
        | none => s
        | some (.inl _) => recordTrap gone o.dest
        | some (.inr z) => finish' z
      else match groupImage y o.dest im with
        | .inl _ => recordTrap gone o.dest
        | .inr z => finish' z
/-- SAVE_RESTORE_COMPLETION (R350): every byte has been moved. -/
def execSaveRestoreCompletion (id : Nat) (s : State) : Out :=
  completeIf s id (fun o => match o.kind with | .saveRestore _ _ => true | _ => false) fun s o =>
    match o.kind with
    | .saveRestore block restore => if o.held then imageCame s o block else imageDone (finish s o) o.group block restore
    | _ => s

/-! ## Frame counts (R355, R403, R404) -/

/-- The partition's free list lies on a migrating page: what would append to it waits (R401). -/
def freeWaits (s : State) (p : Nat) : Bool :=
  let n := wbits (preg s p 0x212) 4 0
  4 ≤ n && n ≤ 20 && deviceWaits s p .write (preg2 s p 0x210) (64 + 8 * 2 ^ n)
/-- Append a frame to the partition's free list. -/
def freeFrame (s : State) (p f : Nat) : State :=
  let base := preg2 s p 0x210
  let n := wbits (preg s p 0x212) 4 0
  let got := deviceRead s p base 8
  let s := markRead s p base 8
  match got with
  | none => setFault s p 1
  | some hd =>
    let head := leAt hd 0 4
    let tail := leAt hd 4 4
    if n < 4 ∨ 20 < n ∨ 2 ^ n ≤ (tail + 2 ^ 32 - head) % 2 ^ 32 then setFault s p 1
    else match deviceWrite s p (base + 64 + 8 * (tail % 2 ^ n)) (leOut 8 f) with
      | none => setFault s p 1
      | some s => (releasePut s p (base + 4) (leOut 4 (tail + 1))).getD (setFault s p 1)
/-- Count up, saturating; count down, to zero and then to the free list. -/
def countUp (s : State) (p f : Nat) : State :=
  let c := kget 0 s.mgmt.fcount f
  if c = 0xFFFFFFFF then setFault s p 0 else { s with mgmt := { s.mgmt with fcount := kput s.mgmt.fcount f (c + 1) } }
def countDown (s : State) (p f : Nat) : State :=
  let c := kget 0 s.mgmt.fcount f
  if c = 0 then setFault s p 0
  else
    let s := { s with mgmt := { s.mgmt with fcount := kput s.mgmt.fcount f (c - 1) } }
    if c = 1 then freeFrame s p f else s
/-- pgref; `last` for one that may take a count to zero. -/
def pgref (s : State) (a d : BitVec 7) (last : Bool) (m : State → Nat → Nat → State) : Out :=
  priv s fun x => issue x (gdPairOk a && gdOk d) [gcode a.toNat, gcode (pairHi a.toNat)] [128 + d.toNat] fun x =>
    let f := (gsrc x.g a.toNat).toNat + 2 ^ 32 * ((gsrc x.g (pairHi a.toNat)).toNat % 16)
    if hbmFrames x.s.mgmt.config ≤ f ∨ frameOwner x.s f ≠ x.b.part then memTrap x 6 0 0
    else if last && kget 0 x.s.mgmt.fcount f == 1 && freeWaits x.s x.b.part then stall x
    else
      let y := x.reload (m x.commit x.b.part f)
      ((y.gwrite d.toNat (word (kget 0 y.s.mgmt.fcount f)) top).skip 4).commit
def execPgrefRead (a d : BitVec 7) (s : State) : Out := pgref s a d false fun s _ _ => s
def execPgrefInc (a d : BitVec 7) (s : State) : Out := pgref s a d false countUp
def execPgrefDec (a d : BitVec 7) (s : State) : Out := pgref s a d true countDown

/-- CRESUME (R356). -/
def execCresume (a d : BitVec 7) (s : State) : Out :=
  priv s fun x => issue x (gsOk a && gdOk d) [gcode a.toNat] [128 + d.toNat] fun x =>
    let n := wbits (gsrc x.g a.toNat) 4 0
    let done := fun (y : Env) (v : Word) => ((y.gwrite d.toNat v top).skip 4).commit
    match kfind x.b.copies n with
    | none => done x 0
    | some c =>
      match c.state, owedTrap (if c.group = x.k then x.g else kget {} x.s.groups c.group) n with
      | .suspended, some t =>
        if !c.locked && !lockFree x.s x.core 2 then stall x
        else
          let s := x.commit
          let s := { s with groups := kmod s.groups c.group fun g => dropTrap g t }
          done (x.reload (copyDispose s x.g.block n true)) 1
      | _, _ => done x 0

/-! ## The watchdog (R364) -/

/-- Every live fragment of a group waits. -/
def allWait (g : Group) : Bool := g.live == 0 || (groupFrags g).all fun f => f.wait != .none
/-- WATCHDOG_EXPIRY. -/
def execWatchdogExpiry (block : Nat) (s : State) : Out :=
  .next (match kfind s.blocks block with
    | none => s
    | some b =>
      let w := (preg s b.part 0x21).toNat
      let gs := (s.groups.filter fun x => x.2.block == block).map (·.2)
      if w = 0 ∨ b.preempting ∨ s.clock < b.lastIssue + 65536 * w ∨ gs.any (fun g => g.level != .user || !allWait g) then s
      else { s with blocks := kput s.blocks block { b with lastIssue := s.clock }
                    groups := kmap (fun _ g => if g.block = block then { g with watchdog := true } else g) s.groups })

end Sys2Proof.Machine
end

