-- ==== Sys2Proof/Machine/Place.lean ====
section
/-!
DEFINITION. Fitting, reservation and commit of blocks; the start and end of groups, blocks and launches; fragments that proceed
or rotate; pre-emption and time slices; quarries and steals (R11, R12, R21, R30 to R32, R296 to R298, R357, R374, R380 to R387).
-/
namespace Sys2Proof.Machine

/-! ## Fitting (R52, R53, R380, R386) -/

/-- What a block needs: its partition and partition word, the W of each group, and scratchpad bytes. -/
structure Need where
  part : Nat
  pword : Nat
  units : List Nat
  sp : Nat
  deriving DecidableEq, Repr
/-- The division of a partition word. -/
def divisionOf (pw : Nat) : Nat × Nat × Nat := (pRfg pw, pSpg pw, pAccg pw)
/-- The partition that holds a core's time slice: its pair's only one, or the holder of the slice. -/
def holderOf (s : State) (core : Nat) : Option Nat :=
  let m := kget 0 s.mgmt.mcpair (core / 2)
  match kfind s.mgmt.holder (core / 2) with
  | some p => if bitOf m p then some p else (List.range 64).find? (bitOf m)
  | none => (List.range 64).find? (bitOf m)
/-- Keys of a core's resident groups, and its blocks. -/
def coreGroups (s : State) (core : Nat) : List Group := s.groups.filterMap fun (k, g) => if k / 64 = core then some g else none
def coreBlocks (s : State) (core : Nat) : List Block := s.blocks.filterMap fun (_, b) => if b.core = core then some b else none
/-- A block fits a core beside blocks reserved there (R380): registers are held by groups, scratchpad and accumulators by blocks until they
end (R32, R52), and a pair's other partition is gone from it (R386). -/
def fits (s : State) (n : Need) (reserved : List (Nat × Need)) (core : Nat) : Bool :=
  let rs := (reserved.filter (·.1 == core)).map (·.2)
  let gs := coreGroups s core
  let bs := coreBlocks s core
  let held := gs.length + (rs.map fun r => r.units.length).sum
  let regs := (gs.map fun g => g.units + 4).sum + (rs.map fun r => (r.units.map (· + 4)).sum).sum
  let sp := (bs.map (·.spsize)).sum + (rs.map (·.sp)).sum
  let acc := (bs.map fun b => 4 * b.groups * pAcch b.pword.toNat).sum + (rs.map fun r => 4 * r.units.length * pAcch r.pword).sum
  let same := if bs = [] then rs.all fun r => divisionOf r.pword == divisionOf n.pword
    else (kget ({} : Core) s.cores core).division == some (divisionOf n.pword)
  let free := !(s.blocks.any fun x => x.2.core / 2 == core / 2 && x.2.part != n.part)
  ownsCore s n.part core && holderOf s core == some n.part && free && held + n.units.length ≤ 64 && bs.length + rs.length + 1 ≤ 8 && same &&
  fitsDivision n.pword (regs + (n.units.map (· + 4)).sum) (sp + n.sp) (acc + 4 * n.units.length * pAcch n.pword)

/-! ## Launch records (R372) -/

def lLanes (b : List Byte) : Nat := bits (leAt b 32 4) 9 0
def lGroups (b : List Byte) : Nat := bits (leAt b 32 4) 14 10
def lBpc (b : List Byte) : Nat := bits (leAt b 32 4) 19 15
def lPri (b : List Byte) : Nat := bits (leAt b 36 4) 2 0
def lPart (b : List Byte) : Nat := bits (leAt b 36 4) 17 12
def lPword (b : List Byte) : Nat := leAt b 44 4
def lSp (b : List Byte) : Nat := bits (leAt b 48 4) 21 0
def lRole (b : List Byte) (i : Nat) : Nat := bits (leAt b 52 4) (2 * i + 1) (2 * i)
def lUnits (b : List Byte) (i : Nat) : Nat := let r := lRole b i; leAt b 56 2 / 2 ^ (4 * (match r with | 0 => 0 | 1 => 1 | 2 => 2 | _ => 3)) % 16
def lGrid (b : List Byte) : Nat × Nat × Nat := (leAt b 20 2, leAt b 22 2, leAt b 24 2)
def lClusters (b : List Byte) : Nat := let (x, y, z) := lGrid b; x * y * z
/-- What each block of a launch needs. -/
def launchNeed (b : List Byte) : Need := ⟨lPart b, lPword b, (List.range (lGroups b)).map (lUnits b), lSp b⟩
/-- What a task group needs (R292). -/
def taskNeed (p : Nat) (d : List Byte) : Need := ⟨p, nPword d, [nUnits d], nSpneed d⟩
/-- What a saved block needs again. -/
def savedNeed (sb : SavedBlock) : Need := ⟨sb.block.part, sb.block.pword.toNat, sb.groups.map (·.2.units), sb.block.spsize⟩
/-- Saved blocks of a cluster, by index. -/
def savedOf (s : State) (c : Nat) : List (Nat × SavedBlock) :=
  let l := s.saved.filter fun x => x.2.block.cluster == c
  (List.range 16).flatMap fun i => l.filter fun x => x.2.block.index == i
/-- The needs of an item of a distributor's list. -/
def needsOf (s : State) (die : Nat) : Waiting → List Need
  | .launch id _ => let b := (kget ({} : Launch) s.launches id).bytes; List.replicate (lBpc b) (launchNeed b)
  | .bin p node _ => [taskNeed p (binAt s die p node).desc]
  | .saved c _ => (savedOf s c).map fun x => savedNeed x.2
def Waiting.pri : Waiting → Nat
  | .launch _ p => p
  | .bin _ _ p => p
  | .saved _ p => p
/-- The partition an item belongs to. -/
def Waiting.part (s : State) : Waiting → Nat
  | .launch id _ => lPart (kget ({} : Launch) s.launches id).bytes
  | .bin p _ _ => p
  | .saved c _ => (((savedOf s c).head?).map fun x => x.2.block.part).getD 0
/-- A clustered saved block ranks ahead of fresh work of its priority (R383). -/
def Waiting.rank : Waiting → Nat
  | .saved _ p => 2 * p
  | w => 2 * w.pri + 1
/-- A list in the order it is served: by priority, then by arrival. -/
def insertWaiting (w : Waiting) : List Waiting → List Waiting
  | [] => [w]
  | v :: vs => if w.rank ≤ v.rank then w :: v :: vs else v :: insertWaiting w vs
def inOrder (ws : List Waiting) : List Waiting := ws.foldr insertWaiting []

/-! ## Reservations and claims (R380 to R384) -/

/-- The needs a die's pending reservation holds on its cores. -/
def reservedOn (s : State) (die : Nat) : List (Nat × Need) :=
  match (kget ({} : Die) s.dies die).reservation with
  | some r => r.cores.zip (needsOf s die r.work)
  | none => []
/-- The state without some clusters' blocks. -/
def without (s : State) (cs : List Nat) : State :=
  { s with groups := s.groups.filter (fun x => !cs.contains (kget ({} : Block) s.blocks x.2.block).cluster)
           blocks := s.blocks.filter fun x => !cs.contains x.2.cluster }
/-- A block of an item of work, or of a frame when none is named, fits a core: beside what is resident and reserved, and beside what
pre-emptions will make room for there for other work (R384). -/
def room (s : State) (w : Option Waiting) (n : Need) (more : List (Nat × Need)) (core : Nat) : Bool :=
  let die := dieOf core
  let rs := reservedOn s die ++ more
  let others := (kget ({} : Die) s.dies die).claims.filter fun c => !(w.any c.work.same)
  fits s n rs core && (others.isEmpty ||
    fits (without s (others.flatMap (·.victims))) n (rs ++ others.flatMap fun c => c.cores.zip (needsOf s die c.work)) core)
/-- Resident groups of a core, reservations counted. -/
def coreLoad (s : State) (rs : List (Nat × Need)) (c : Nat) : Nat :=
  (coreGroups s c).length + ((rs.filter (·.1 == c)).map fun r => r.2.units.length).sum
/-- The fitting core with the fewest resident groups, reservations counted; the lowest of several (R381). -/
def bestCore (s : State) (die : Nat) (w : Option Waiting) (n : Need) (more : List (Nat × Need)) : Option Nat :=
  let load := coreLoad s (reservedOn s die ++ more)
  ((List.range 64).map (64 * die + ·)).foldl (fun m c =>
    if room s w n more c then (match m with | some b => if load c < load b then some c else m | none => some c) else m) none
/-- Reserve cores for a cluster's blocks in order, all or none (R382). -/
def reserve (s : State) (die : Nat) (w : Option Waiting) : List Need → List (Nat × Need) → Option (List Nat)
  | [], _ => some []
  | n :: ns, rs =>
    match bestCore s die w n rs with
    | none => none
    | some c => (reserve s die w ns (rs ++ [(c, n)])).map (c :: ·)
/-- Free group slots of a partition's cores on a die, reservations counted (R380, R381). -/
def freeSlots (s : State) (p die : Nat) : Nat :=
  ((List.range 64).map fun i => let c := 64 * die + i; if ownsCore s p c then 64 - coreLoad s (reservedOn s die) c else 0).sum
/-- The die a launch's cluster goes to: of those where its partition has a core. -/
def launchDie (s : State) (p : Nat) : Nat :=
  match (List.range 8).filter (ownsDie s p) with
  | [] => 0
  | d :: ds => ds.foldl (fun d e => if freeSlots s p d < freeSlots s p e then e else d) d

/-! ## Making blocks resident (R10, R12, R30, R93, R292, R387) -/

/-- The lowest free group slots of a core. -/
def freeGroupSlots (s : State) (core n : Nat) : List Nat := ((List.range 64).filter fun i => (kfind s.groups (64 * core + i)).isNone).take n
/-- Put a block and its groups on a core. -/
def install (s : State) (core bid : Nat) (b : Block) (gs : List Group) : State :=
  let slots := freeGroupSlots s core gs.length
  let s := modCore s core fun c => { c with division := some (divisionOf b.pword.toNat) }
  let s := { s with blocks := kput s.blocks bid { b with core := core, lastIssue := s.clock, placed := s.clock } }
  (slots.zip gs).foldl (fun s (sl, g) => { s with groups := kput s.groups (64 * core + sl) { g with gid := s.fresh, block := bid }, fresh := s.fresh + 1 }) s
/-- A schedule entry keeps R284 and R373. -/
def schedEntryOk (e : List Byte) : Bool :=
  let w := leAt e 60 4
  leAt e 0 2 != 0 && bits w 15 4 == 0 && bits w 2 0 != 5 && bits w 2 0 != 6 && leAt e 4 4 / 4096 == 0 && leAt e 59 1 == 0
/-- A schedule read at the block's start (R284, R373): its entries, or none when it is faulty. -/
def readSched (s : State) (p : Nat) : Nat → Nat → Option (List (List Byte))
  | 0, _ => none
  | n + 1, a =>
    match deviceRead s p a 64 with
    | none => none
    | some e =>
      if !schedEntryOk e then none
      else if bitOf (leAt e 60 4) 3 then some [e]
      else (readSched s p n (a + 64)).map (e :: ·)
/-- Entries that reading it comes to, the one that ends it among them. -/
def schedSeen (s : State) (p : Nat) : Nat → Nat → Nat
  | 0, _ => 0
  | n + 1, a =>
    match deviceRead s p a 64 with
    | none => 1
    | some e => if !schedEntryOk e || bitOf (leAt e 60 4) 3 then 1 else 1 + schedSeen s p n (a + 64)
/-- An entry that reading it comes to lies on a migrating page. -/
def schedWaits (s : State) (p : Nat) : Nat → Nat → Bool
  | 0, _ => false
  | n + 1, a =>
    deviceWaits s p .read a 64 ||
    (match deviceRead s p a 64 with
      | some e => schedEntryOk e && !bitOf (leAt e 60 4) 3 && schedWaits s p n (a + 64)
      | none => false)
/-- Lanes of a group under R11: live, and helper. -/
def launchLanes (count g : Nat) : Mask × Mask :=
  let live := maskOf fun l => 32 * g + l < count
  (live, maskOf fun l => count ≤ 32 * g + l && 4 * ((32 * g + l) / 4) < count)
/-- Make one cluster of a launch resident on the chosen cores. -/
def installLaunch (s : State) (die id : Nat) (cores : List Nat) : State :=
  let l := kget ({} : Launch) s.launches id
  let r := l.bytes
  let (gx, gy, _) := lGrid r
  let cid := s.fresh
  let bids := (List.range cores.length).map (s.fresh + 1 + ·)
  let cl : Cluster := { launch := some id, x := l.next % gx, y := l.next / gx % gy, z := l.next / (gx * gy), linear := l.next, die := die, blocks := bids }
  let s := { s with fresh := s.fresh + 1 + cores.length, clusters := kput s.clusters cid cl
                    launches := kput s.launches id { l with next := l.next + 1 } }
  (bids.zip cores).zipIdx.foldl (fun s ((bid, core), i) =>
    let sched := if leAt r 64 8 = 0 then some [] else readSched s (lPart r) 16 (leAt r 64 8)
    let b : Block := {
      cluster := cid, part := lPart r, index := i, groups := lGroups r, lanes := lLanes r, pword := word (lPword r), spsize := lSp r
      sched := sched.getD [], roots := kfrom 0 ((List.range 8).map fun n => (n, BitVec.ofNat 128 (leAt r (128 + 16 * n) 16)))
      code := BitVec.ofNat 128 (leAt r 0 16), entry := word (leAt r 16 4), rwatch := bitOf (leAt r 36 4) 11, pri := lPri r
      alive := setMask (List.range (lGroups r)) }
    let gs := (List.range (lGroups r)).map fun g =>
      ({ index := g, units := lUnits r g, acch := pAcch (lPword r), role := lRole r g } : Group)
    let s := markRead (install s core bid b gs) (lPart r) (leAt r 64 8) (if leAt r 64 8 = 0 then 0 else 64 * schedSeen s (lPart r) 16 (leAt r 64 8))
    let g0 := ((s.groups.find? fun x => x.2.block == bid && x.2.index == 0).map (·.1)).getD 0
    let s := { s with blocks := kmod s.blocks bid fun b => { b with releasers := [(0, g0)] } }
    if sched.isNone then queueTrap s g0 { code := 0x13, kind := .copy 99 } else s) s
/-- A node's entry of the root-set table lies on a migrating page. -/
def rootWaits (s : State) (p : Nat) (d : List Byte) : Bool :=
  nRootset d < (preg s p 0x205).toNat && deviceWaits s p .read (preg2 s p 0x203 + 128 * nRootset d) 128
/-- The state after the walk that reads a node's entry of the root-set table (R292, R396). -/
def rootWalk (s : State) (p : Nat) (d : List Byte) : State :=
  if (preg s p 0x205).toNat ≤ nRootset d then s else markRead s p (preg2 s p 0x203 + 128 * nRootset d) 128
/-- A task group's block, from its records (R292). -/
def installTask (s : State) (core p node : Nat) (d : List Byte) (recs : List TaskRec) : State :=
  let cid := s.fresh
  let bid := s.fresh + 1
  let n := recs.length
  let roots := if (preg s p 0x205).toNat ≤ nRootset d then [] else
    match deviceRead s p (preg2 s p 0x203 + 128 * nRootset d) 128 with
    | some b => (List.range 8).map fun i => (i, BitVec.ofNat 128 (leAt b (16 * i) 16))
    | none => []
  let pri := 2 * recs.foldl (fun m r => min m r.pri) (nPri d)
  let b : Block := {
    cluster := cid, part := p, groups := 1, lanes := n, pword := word (nPword d), spsize := nSpneed d, roots := kfrom 0 roots
    code := BitVec.ofNat 128 (leAt d 0 16), entry := word (leAt d 16 4), rwatch := nRwatch d, task := some (node, nRootset d), pri := pri, alive := 1 }
  let regs := recs.zipIdx.flatMap fun (r, l) =>
    (r.args.zipIdx.map fun (a, i) => (32 * i + l, a)) ++
    [(32 * 12 + l, word (node + 65536 * recFlags r)), (32 * 13 + l, word r.join), (32 * 14 + l, word (r.join / 2 ^ 32))]
  let (live, helper) := launchLanes n 0
  let g : Group := {
    units := nUnits d, acch := pAcch (nPword d), role := nRole d, live := live, helper := helper, vregs := kfrom 0 (regs ++ (List.range 32).map fun l => (32 * 15 + l, word l))
    links := recs.zipIdx.filterMap fun (r, l) => if r.jn then some (l, r.join) else none
    task := some (n, node, (recs.head?.map (·.origin)).getD 0), nodeDesc := d, acqStamp := recs.foldl (fun m r => max m r.stamp) 0 }
  let s := rootWalk s p d
  install { s with fresh := s.fresh + 2, clusters := kput s.clusters cid { die := dieOf core, blocks := [bid] } } core bid b [g]
/-- A saved cluster's blocks, resident again (R387). -/
def installSaved (s : State) (c : Nat) (cores : List Nat) : State :=
  ((savedOf s c).zip cores).foldl (fun s ((bid, sb), core) =>
    install { s with saved := kdel s.saved bid } core bid { sb.block with resumeSlot := sb.block.slot, slot := none } (sb.groups.map (·.2))) s
/-- An item needs bytes of a page that migrates before it can become resident. -/
def workWaits (s : State) (die : Nat) : Waiting → Bool
  | .launch id _ => let r := (kget ({} : Launch) s.launches id).bytes; leAt r 64 8 != 0 && schedWaits s (lPart r) 16 (leAt r 64 8)
  | .bin p node _ => rootWaits s p (binAt s die p node).desc
  | .saved _ _ => false
/-- Make a reserved item resident. -/
def installWork (s : State) (die : Nat) (w : Waiting) (cores : List Nat) : State :=
  match w with
  | .launch id pri =>
    let s := installLaunch s die id cores
    let l := kget ({} : Launch) s.launches id
    if l.next < lClusters l.bytes then modDie s (launchDie s (lPart l.bytes)) fun d => { d with waiting := d.waiting ++ [.launch id pri] }
    else { s with queues := kmap (fun _ q => if q.holds = some id then { q with holds := none } else q) s.queues }
  | .bin p node _ =>
    let b := binAt s die p node
    let s := installTask s (cores.headD 0) p node b.desc (b.recs.take 32)
    let s := setBin s die p node { b with recs := b.recs.drop 32, ready := false, since := s.clock }
    let s := drainRing 32 s p node
    releaseHw (binReady s die p node) die p node
  | .saved c _ => installSaved s c cores

/-! ## Pre-emption (R357, R384 to R387) -/

/-- A victim's quarry without a frame in transit, wherever it stands by now: in the SRAM, or in the spill ring. -/
def takeFrame (s : State) (core : Nat) (f : Frame) : State :=
  if (kget ({} : Core) s.cores core).quarry.contains f then modCore s core fun c => { c with quarry := c.quarry.erase f }
  else
    let ring := spilled s core f.part
    if ring.contains f then (storeSpilled s core f.part (ring.erase f)).getD s else s
/-- Move a frame in transit back to the oldest end of its quarry (R298): of the spill ring while it holds frames and has room, else of the
SRAM. -/
def returnFrame (s : State) (t : Steal) : State :=
  let f := { t.frame with transit := false }
  let s := takeFrame s t.victim t.frame
  let ring := spilled s t.victim f.part
  let front := modCore s t.victim fun c => { c with quarry := f :: c.quarry }
  if ring = [] then front else (storeSpilled s t.victim f.part (f :: ring)).getD front
/-- Abort a core's steal. -/
def abortSteal (s : State) (core : Nat) : State :=
  match (kget ({} : Core) s.cores core).steal with
  | none => s
  | some t => returnFrame (modCore s core fun c => { c with steal := none }) t
/-- A free save slot, not among those taken. -/
def freeSlot (s : State) (p : Nat) (taken : List Nat) : Option Nat :=
  (List.range (preg s p 0x209).toNat).find? fun n => !(kget ({} : Partition) s.parts p).slots.contains n && !taken.contains n
def slotFits (s : State) (p bid : Nat) : Bool := blockSize s bid (kget {} s.blocks bid) ≤ 65536 * (preg s p 0x208).toNat
/-- Deliver the pre-emption trap to every group of a block, with its save slot; a slot it is being resumed from stays until its restore 1. -/
def preemptBlock (s : State) (bid cause slot : Nat) : State :=
  match kfind s.blocks bid with
  | none => s
  | some b =>
    let base := slot * (preg s b.part 0x208).toNat * 65536
    let s := modPart s b.part fun p => { p with slots := p.slots ++ [slot] }
    let s := abortSteal { s with blocks := kput s.blocks bid { b with preempting := true, slot := some slot } } b.core
    { s with groups := kmap (fun _ g => if g.block = bid then { g with preempt := some (cause, base, groupIndex s g base) } else g) s.groups }
/-- Pre-empt blocks when each has a slot; nothing otherwise. -/
def preemptAll (s : State) (p cause : Nat) (bids : List Nat) : Option State :=
  let rec slots : List Nat → List Nat → Option (List Nat)
    | [], _ => some []
    | b :: bs, taken =>
      if !slotFits s p b then none
      else match freeSlot s p taken with | some n => (slots bs (n :: taken)).map (n :: ·) | none => none
  (slots bids []).map fun ns => (bids.zip ns).foldl (fun s (b, n) => preemptBlock s b cause n) s
/-- Blocks of a cluster. -/
def clusterBlocks (s : State) (c : Nat) : List Nat := s.blocks.filterMap fun (i, b) => if b.cluster = c then some i else none
/-- Pre-empt each of some clusters whose blocks all have slots. -/
def preemptEach (s : State) (p cause : Nat) (cs : List Nat) : State := cs.foldl (fun s c => (preemptAll s p cause (clusterBlocks s c)).getD s) s
/-- Sub-lists of a list. -/
def subLists {α : Type} : List α → List (List α)
  | [] => [[]]
  | a :: as => let r := subLists as; r ++ r.map (a :: ·)
/-- Victims of a pre-emption request and the cores they make room on: fewest blocks, then the lowest priority among them, the most recently
placed and the lowest core number; each block has a save slot for its image (R384). -/
def victims (s : State) (die : Nat) (w : Waiting) : Option (List Nat × List Nat) :=
  let under := (s.blocks.filterMap fun (_, b) => if b.preempting then some b.cluster else none).eraseDups
  let needs := needsOf s die w
  if (reserve (without s under) die (some w) needs []).isSome then none
  else
    let cands := (s.blocks.filterMap fun (_, b) =>
      if dieOf b.core = die ∧ b.part = w.part s ∧ w.pri < b.pri ∧ !b.preempting then some b.cluster else none).eraseDups
    let ok := (subLists cands).filterMap fun v =>
      if v = [] ∨ (preemptAll s (w.part s) 0 (v.flatMap (clusterBlocks s))).isNone then none
      else (reserve (without s (under ++ v)) die (some w) needs []).map fun cores => (v, cores)
    let bl := fun (v : List Nat) => (v.flatMap (clusterBlocks s)).map fun i => kget ({} : Block) s.blocks i
    let key := fun (v : List Nat) =>
      let b := bl v
      (b.length, 7 - (b.map (·.pri)).foldl min 7, s.clock - (b.map (·.placed)).foldl max 0, (b.map (·.core)).foldl min 1023)
    let less := fun (a b : Nat × Nat × Nat × Nat) =>
      decide (a.1 < b.1 ∨ (a.1 = b.1 ∧ (a.2.1 < b.2.1 ∨ (a.2.1 = b.2.1 ∧ (a.2.2.1 < b.2.2.1 ∨ (a.2.2.1 = b.2.2.1 ∧ a.2.2.2 < b.2.2.2))))))
    match ok with
    | [] => none
    | v :: vs => some (vs.foldl (fun b u => if less (key u.1) (key b.1) then u else b) v)
/-- The first item of a list asks for pre-emption, and what its victims free is held for it (R384). -/
def askRoom (s : State) (die : Nat) (w : Waiting) : Option State :=
  (victims s die w).map fun (cs, cores) =>
    let s := (preemptAll s (w.part s) 0 (cs.flatMap (clusterBlocks s))).getD s
    modDie s die fun d => { d with claims := d.claims.filter (fun c => !c.work.same w) ++ [{ work := w, victims := cs, cores := cores }] }
/-- PLACEMENT_ATTEMPT (R382 to R384): the distributor reserves cores for the first item of its list, or asks for pre-emption; an item that
waits does not hold back those after it. -/
def execPlacementAttempt (die : Nat) (s : State) : Out :=
  .next (let d := kget ({} : Die) s.dies die
    let d := { d with claims := d.claims.filter fun c => d.waiting.any c.work.same }
    let s := if (kget ({} : Die) s.dies die).claims = d.claims then s else modDie s die fun _ => d
    let ws := inOrder d.waiting
    let start := fun (s : State) => ((ws.findSome? fun w => (reserve s die (some w) (needsOf s die w) []).map fun cores => (w, cores)).map fun (w, cores) =>
      modDie s die fun d => { d with waiting := d.waiting.erase w, claims := d.claims.filter fun c => !c.work.same w
                                     reservation := some { work := w, cores := cores, due := s.clock + 16 * cores.length + 8 } }).getD s
    match d.reservation, ws with
    | none, w :: _ =>
      if (reserve s die (some w) (needsOf s die w) []).isSome then start s
      else match askRoom s die w with
        | some s => s
        | none => start s
    | _, _ => s)
/-- A pair's slice has run out: another partition of the pair with work on its die takes the slice, and the holder's blocks are pre-empted;
with none the slice restarts (R386). -/
def sliceEnds (s : State) (pair : Nat) : State :=
  match holderOf s (2 * pair) with
  | none => s
  | some h =>
    let len := (preg s h 0x20A).toNat
    let mask := kget 0 s.mgmt.mcpair pair
    let d := kget ({} : Die) s.dies (dieOf (2 * pair))
    if len = 0 ∨ s.clock < kget 0 s.mgmt.sliceStart pair + 65536 * len ∨ popBits 64 mask < 2 then s
    else
      let wants := fun p => bitOf mask p && p != h && d.waiting.any fun w => w.part s == p
      let s := { s with mgmt := { s.mgmt with sliceStart := kput s.mgmt.sliceStart pair s.clock } }
      match ((List.range 64).map fun i => (h + 1 + i) % 64).find? wants with
      | none => s
      | some p =>
        let cs := s.blocks.filterMap fun (_, b) => if b.core / 2 = pair ∧ b.part = h ∧ !b.preempting then some b.cluster else none
        preemptEach { s with mgmt := { s.mgmt with holder := kput s.mgmt.holder pair p } } h 1 cs.eraseDups
/-- CLUSTER_COMMIT (R382): 8 clocks after the last reservation, all the blocks become resident together; the slices of the die's pairs that
ran out during the reservation phase end with it (R386). -/
def execClusterCommit (die : Nat) (s : State) : Out :=
  .next (match (kget ({} : Die) s.dies die).reservation with
    | none => s
    | some r =>
      if s.clock < r.due || workWaits s die r.work then s
      else
        let s := installWork (modDie s die fun d => { d with reservation := none }) die r.work r.cores
        (s.mgmt.mcpair.filter fun m => m.1 / 32 == die).foldl (fun s m => sliceEnds s m.1) s)
/-- TIME_SLICE_EXPIRY (R386): the slice ends; during a reservation phase on its die that takes effect at the commit. -/
def execTimeSliceExpiry (pair : Nat) (s : State) : Out :=
  .next (if (kget ({} : Die) s.dies (dieOf (2 * pair))).reservation.isSome then s else sliceEnds s pair)
/-- HOST_PREEMPTION_REQUEST (R441): a write to spreqh, of a partition whose window is reachable (R443); blocks of the launch that leave their
cores already count among those awaited. -/
def execHostPreemptionRequest (part : Nat) (v : Word) (s : State) : Out :=
  .next (if (kget ({} : Partition) s.parts part).state = .absent ∨ !s.mgmt.hostUp then s else
    let s := setPreg s part 0x221 v
    let id := preg2 s part 0x220
    let mine := s.blocks.filter fun (_, b) =>
      match (kget ({} : Cluster) s.clusters b.cluster).launch with
      | some l => b.part = part ∧ (kget ({} : Launch) s.launches l).identity = id
      | none => false
    if mine = [] then setPreg s part 0x222 2
    else match preemptAll s part 2 (mine.filterMap fun (i, b) => if b.preempting then none else some i) with
      | some s => modPart (setPreg s part 0x222 1) part fun p => { p with preReq := some id }
      | none => setPreg s part 0x222 4)
/-- A host request completes when its blocks have left their cores. -/
def hostRequests (s : State) : State :=
  { s with parts := kmap (fun n p =>
      match p.preReq with
      | some id =>
        if s.blocks.any fun x => x.2.part == n && x.2.preempting && (match (kget ({} : Cluster) s.clusters x.2.cluster).launch with
          | some l => (kget ({} : Launch) s.launches l).identity == id | none => false)
        then p else { p with preReq := none, regs := kput p.regs 0x222 0 }
      | none => p) s.parts }

/-! ## The start of groups (R12, R292, R387) -/

/-- Change a group that has not begun; `first` is what its start does to the caches. -/
def begin_ (s : State) (k : Nat) (ok : Group → Bool) (m : Group → Block → Group) (first : State → State := id) : Out :=
  .next (match kfind s.groups k with
    | none => s
    | some g => if g.started ∨ !ok g then s else { first s with groups := kput s.groups k { m g (kget {} s.blocks g.block) with started := true, rotClock := s.clock } })
/-- The first fragment of a group. -/
def firstFrag (b : Block) (live : Mask) (fmt : BitVec 11) : KMap Frag :=
  [(0, { members := live, exec := live, pc := b.entry, fmt := fmt, arrive := .header })]
/-- A register with an exact shadow. -/
def exactReg (g : Group) (r : Nat) (v : Nat) : Group :=
  { g with gregs := kput g.gregs r (word v), shadows := kput g.shadows (128 + r) ⟨sgn (word v), sgn (word v), false⟩ }
/-- GROUP_START (R12). -/
def execGroupStart (k : Nat) (s : State) : Out :=
  begin_ s k (fun g => g.task.isNone && !g.resumed) fun g b =>
    let cl := kget ({} : Cluster) s.clusters b.cluster
    let fmt := match cl.launch with | some l => BitVec.ofNat 11 (leAt (kget ({} : Launch) s.launches l).bytes 40 4) | none => 0
    let (live, helper) := launchLanes b.lanes g.index
    let g := { g with
      live := live, helper := helper, brecs := b.roots, table := firstFrag b live fmt, codeSeen := some (stampNow s, 0)
      vregs := kputAll [] (((List.range 32).map fun l => (l, word l)) ++ (List.range 32).map fun l => (32 + l, word (32 * g.index + l)))
      shadows := [(0, ⟨0, 31, false⟩), (1, ⟨32 * g.index, 32 * g.index + 31, false⟩)] }
    [(0, g.index), (1, b.index), (2, cl.x), (3, cl.y), (4, cl.z), (5, b.groups), (6, cl.blocks.length), (7, b.lanes)].foldl
      (fun g (r, v) => exactReg g r v) g
/-- TASK_GROUP_START (R292), under the descriptor its bin kept (R377); its start is an acquire (R138, R140). -/
def execTaskGroupStart (k : Nat) (s : State) : Out :=
  begin_ s k (fun g => g.task.isSome && !g.resumed) (first := fun s => l1Acquires s [k]) fun g b =>
    let (n, node, origin) := g.task.getD (0, 0, 0)
    let g := { g with
      brecs := b.roots, table := firstFrag b g.live (BitVec.ofNat 11 (nIfmt g.nodeDesc)), codeSeen := some (g.acqStamp, 0)
      shadows := ((List.range 15).map fun r => (r, (⟨minI, maxI, false⟩ : Shadow))) ++ [(15, ⟨0, 31, false⟩)] }
    [(0, n), (1, node), (2, origin)].foldl (fun g (r, v) => exactReg g r v) g
/-- RESUME_START (R387): at shvec, at supervisor level, with the pre-emption trap of cause 3. -/
def execResumeStart (k : Nat) (s : State) : Out :=
  begin_ s k (fun g => g.resumed) fun g b =>
    let base := match b.resumeSlot with | some n => n * (preg s b.part 0x208).toNat * 65536 | none => 0
    let g := bankIn s b.part g { preemptTrap 3 base with inWait := true } {}
    { g with table := [(0, handlerFrag {} (preg s b.part 0))] }

/-! ## The end of groups and launches (R32, R374) -/

/-- GROUP_END (R32, R279): no lane is live, and nothing of the group is outstanding. -/
def execGroupEnd (k : Nat) (s : State) : Out :=
  .next (match kfind s.groups k with
    | none => s
    | some g =>
      if !g.started ∨ g.live ≠ 0 ∨ g.level ≠ .user ∨ g.traps ≠ [] ∨ g.parked.isSome ∨ ownCopies s k g ∨ s.ops.any (fun o => o.gid == g.gid) then s
      else
        let b := kget ({} : Block) s.blocks g.block
        let s := { s with groups := kdel s.groups k, blocks := kput s.blocks g.block { b with alive := b.alive &&& ~~~(1#16 <<< g.index) } }
        let s := gangEnded s b.core g.block g.index
        if (blockGroups s g.block) = [] then blockEnd s g.block false
        else
          let s := (List.range 16).foldl (fun s n => barCheck s g.block n) s
          let s := cbarCheck s b.cluster
          if b.preempting then blockLeaves s g.block else s)
/-- What the device does with an eight-byte word as a release: writes it, or adds to it. -/
inductive Deed | set (v : Nat) | add (n : Nat)
  deriving DecidableEq, Repr
/-- A device write of eight aligned bytes as a release, or an addition as a read-modify-write; sfault bit 10 when the page does not take it,
nothing while it migrates. -/
def releaseWrite (s : State) (p va : Nat) (d : Deed) : Option State :=
  match deviceJudge s p .write va with
  | .park _ => none
  | .ok tier place frame _ =>
    let s := deviceWalk s p .write va 8
    let a := frame * 65536 + va % 65536
    let rmw := match d with | .set _ => false | .add _ => true
    let s := { s with marks := writeMarks s.marks ((List.range 8).map fun i => markKey tier place (a + i)) rmw [{ agentMark s with scope := 4 }] }
    some (match d with
      | .set v =>
        if tier = 2 then (putSector s { type := 1, dst := place, part := p, pa := a } (cellsAt a (leOut 8 v))).2
        else accepted (partWrite s p tier (cellsAt a (leOut 8 v))) tier ((List.range 8).map (a + ·)) false
      | .add n =>
        if tier = 2 then (putAtomic s { type := 3, dst := place, part := p, pa := a } 0 8 0 n 0).2
        else
          accepted (partWrite s p tier (cellsAt a (leOut 8 (leVal (physRead s tier a 8) + n)))) tier ((List.range 8).map (a + ·)) false)
  | .trap _ _ => some (setFault (deviceWalk s p .write va 8) p 10)
/-- Every cluster of a launch has begun and ended, or its partition drains and none is left; and every remote access of its partition has
been answered (R374, R443). -/
def launchOver (l : Launch) (s : State) (id : Nat) : Bool :=
  let p := lPart l.bytes
  (l.next == lClusters l.bytes || (kget ({} : Partition) s.parts p).state == .draining) && !(s.clusters.any fun x => x.2.launch == some id) &&
  !(s.dies.any fun x => match x.2.reservation with | some r => (match r.work with | .launch i _ => i == id | _ => false) | none => false) &&
  !(s.remotes.any fun r => r.2.part == p && 1 ≤ r.2.type && r.2.type ≤ 3)
/-- LAUNCH_END (R374): the status word, the counter, the vector. -/
def execLaunchEnd (l : Nat) (s : State) : Out :=
  .next (match kfind s.launches l with
    | none => s
    | some q =>
      if !launchOver q s l then s
      else
        let r := q.bytes
        let p := lPart r
        let one := if leAt r 88 8 = 0 then some s else releaseWrite s p (leAt r 88 8) (.set (1 + 2 * b2n q.killed))
        match one with
        | none => s
        | some s1 =>
          match (if leAt r 72 8 = 0 then some s1 else releaseWrite s1 p (leAt r 72 8) (.add (leAt r 80 8))) with
          | none => s
          | some s2 =>
            let s3 := if bitOf (leAt r 36 4) 5 then signal s2 p (bits (leAt r 36 4) 10 6) else s2
            { s3 with launches := kdel s3.launches l
                      queues := kmap (fun _ w => if w.holds = some l then { w with holds := none } else w) s3.queues
                      dies := kmap (fun _ d => { d with waiting := d.waiting.filter fun w => match w with | .launch i _ => i != l | _ => true }) s3.dies })

/-! ## Fragments (R19, R21) -/

/-- FRAGMENT_PROCEED (R19). -/
def execFragmentProceed (k e : Nat) (s : State) : Out :=
  .next (match kfind s.groups k with
    | none => s
    | some g =>
      let g := settle g
      match kfind g.table e with
      | some f => if g.level = .user ∧ mayProceed g e f then { s with groups := kput s.groups k { g with table := kput g.table e (proceed f) } } else s
      | none => s)
/-- FRAGMENT_ROTATION (R21): arrivals are settled first, so that a fragment at its reconvergence address is seen to wait. DESIGN CHOICE
(log 88): a group's 2,048-clock period begins with the group, and again at each rotation, not when its spill area becomes non-empty. -/
def execFragmentRotation (k : Nat) (s : State) : Out :=
  .next (match kfind s.groups k with
    | none => s
    | some g =>
      let g := settle g
      if g.level ≠ .user ∨ g.spill = [] ∨ (freeEntry g).isSome ∨ s.clock < g.rotClock + Config.rotationClocks ∨ s.ops.any (fun o => o.gid == g.gid && o.held) ∨ g.parked.isSome ∨ g.resuming.isSome
      then s else { s with groups := kput s.groups k (rotate g s.clock) })

/-! ## Bins and quarries (R289, R296 to R298) -/

/-- BIN_TIMER_EXPIRY (R289). -/
def execBinTimerExpiry (die part node : Nat) (s : State) : Out := .next (binReady s die part node)
/-- RING_DRAIN (R289). -/
def execRingDrain (part node : Nat) (s : State) : Out := .next (drainRing 32 s part node)
/-- Refill an empty SRAM from the newest end of a spill ring; frames in transit are passed over (R296, R298). -/
def refillQuarry (s : State) (core : Nat) : State :=
  let here := fun (f : Frame) => !f.transit
  if (kget ({} : Core) s.cores core).quarry.any here then s
  else match (List.range 64).find? fun p => (spilled s core p).any here with
    | none => s
    | some p =>
      let fs := spilled s core p
      match fs.reverse.find? here with
      | none => s
      | some f =>
        match storeSpilled s core p (fs.reverse.erase f).reverse with
        | some s => modCore s core fun c => { c with quarry := c.quarry ++ [f] }
        | none => s
/-- Resume the fragment parked in join at a counter, the one parked first if another has parked there since, with its acquire of the releases
its frame names (R139, R300). -/
def resumeJoin (s : State) (k tier a stamp : Nat) : State :=
  l1Acquires { s with groups := kmod s.groups k fun g =>
      let hit := fun (f : Frag) => f.wait == .join && (match f.watch with | some w => w.tier == tier && w.addr % 2 ^ 56 == a | none => false)
      match (groupFrags g).filter hit with
      | [] => g
      | fs =>
        let w := leastBy (·.reached) fs
        let up := fun (f : Frag) => if f = w then resume s.clock f else f
        { g with acqStamp := max g.acqStamp stamp, table := kmap (fun _ f => up f) g.table, spill := g.spill.map up } } [k]
/-- A frame's group fits a core, as the descriptor of its node stands, and nothing it reads is migrating. -/
def frameFits (s : State) (core : Nat) (f : Frame) : Option (List Byte) :=
  match f.recs with
  | [] => none
  | r :: _ => match readNode s f.part r.node with
    | some d => if room s none (taskNeed f.part d) [] core && !rootWaits s f.part d then some d else none
    | none => none
/-- QUARRY_TAKE (R296): the owner takes its newest frame, passing over those in transit. -/
def execQuarryTake (core : Nat) (s : State) : Out :=
  .next (let s := refillQuarry s core
    match (kget ({} : Core) s.cores core).quarry.reverse.find? fun f => !f.transit with
    | none => s
    | some f =>
      let gone := fun (s : State) => modCore s core fun c => { c with quarry := (c.quarry.reverse.erase f).reverse }
      if f.cont then resumeJoin (gone s) (64 * core + f.slot) (f.ctr / 2 ^ 56) (f.ctr % 2 ^ 56) f.stamp
      else match frameFits s core f with
        | some d =>
          let n := (f.recs.head?.map (·.node)).getD 0
          installTask (nodeRead (gone s) f.part n) core f.part n d f.recs
        | none => nodeRead s f.part ((f.recs.head?.map (·.node)).getD 0))
/-- A frame is stealable by a thief (R297). -/
def stealable (s : State) (thief victim : Nat) (f : Frame) : Bool :=
  !f.cont && !f.transit && ((match f.recs.head? with | some r => r.scope != 0 | none => false) || dieOf thief == dieOf victim) && (frameFits s thief f).isSome
/-- A core's frames, oldest first: its spill rings', then the SRAM's; each with whether it lies in a ring. -/
def framesOf (s : State) (core : Nat) : List (Frame × Bool) :=
  ((kget ({} : Core) s.cores core).ringTail.flatMap fun q => (spilled s core q.1).map fun f => (f, true)) ++ (kget ({} : Core) s.cores core).quarry.map fun f => (f, false)
/-- The victim a distributor names: its own die first, then the others in turn; the highest count, then the lowest core. -/
def victimOf (s : State) (thief : Nat) : Option Nat :=
  let count := fun c => ((framesOf s c).filter fun x => stealable s thief c x.1).length
  let best := fun d => ((List.range 64).map (64 * d + ·)).foldl (fun (m : Option Nat) c =>
    if c = thief ∨ count c = 0 then m else match m with | some b => if count b < count c then some c else m | none => some c) none
  ((List.range 8).map fun i => (dieOf thief + i) % 8).findSome? best
/-- STEAL_REQUEST (R297, R298): none begins when the frame's transit bit cannot be set, as its ring takes no writes. -/
def execStealRequest (core : Nat) (s : State) : Out :=
  .next (if (kget ({} : Core) s.cores core).steal.isSome ∨ framesOf s core ≠ [] then s
    else match victimOf s core with
      | none => s
      | some v =>
        match (framesOf s v).find? fun x => stealable s core v x.1 with
        | none => s
        | some (f, ring) =>
          let t := { f with transit := true }
          let swap := fun (l : List Frame) => match l.findIdx? (· == f) with | some i => l.set i t | none => l
          match (if ring then storeSpilled s v f.part (swap (spilled s v f.part)) else some (modCore s v fun c => { c with quarry := swap c.quarry })) with
          | none => s
          | some s => modCore s core fun c => { c with steal := some ⟨v, t⟩ })
/-- STEAL_ARRIVAL (R298): the frame's bytes have come; the victim frees it, and the thief places its group. -/
def execStealArrival (core : Nat) (s : State) : Out :=
  .next (match (kget ({} : Core) s.cores core).steal with
    | none => s
    | some t =>
      match frameFits s core t.frame with
      | none => s
      | some d =>
        let s := takeFrame s t.victim t.frame
        let n := (t.frame.recs.head?.map (·.node)).getD 0
        installTask (nodeRead (modCore s core fun c => { c with steal := none }) t.frame.part n) core t.frame.part n d t.frame.recs)

end Sys2Proof.Machine
end

