-- ==== Sys2Proof/Machine/Queues.lean ====
section
/-!
DEFINITION. Hardware work queues: their registers, the queue unit, entries consumed, refused, retried and resumed (R367 to R379).
-/
namespace Sys2Proof.Machine

/-! ## Registers (R367) -/

/-- Owner of a queue (R442). -/
def qOwner (s : State) (q : Nat) : Nat := kget 255 s.mgmt.qown q
def queueAt (s : State) (q : Nat) : Queue := kget {} s.queues q
def setQueue (s : State) (q : Nat) (u : Queue) : State := { s with queues := kput s.queues q u }
/-- Capacity in entries; 0 when the queue is disabled by its size. -/
def qCap (u : Queue) : Nat := let n := u.size % 16; if 4 ≤ n then 2 ^ n else 0
def halted (u : Queue) : Bool := bitOf u.err.toNat 31
/-- A register as a read returns it; sqtail is written only, and reads as zero. -/
def queueRead (s : State) (q off : Nat) : Word :=
  let u := queueAt s q
  match off with
  | 0x00 => word u.base
  | 0x04 => word (u.base / 2 ^ 32)
  | 0x08 => word u.size
  | 0x10 => u.head
  | 0x14 => u.ctl
  | 0x18 => u.err
  | 0x1C => u.vec
  | 0x20 => word (qOwner s q % 64)
  | _ => 0
/-- Halt a queue with a code, and signal its vector (R371). -/
def haltQueue (s : State) (q code : Nat) : State :=
  let u := queueAt s q
  let s := setQueue s q { u with err := word (2 ^ 31 + code * 65536 + u.head.toNat % 65536) }
  if bitOf u.vec.toNat 5 then signal s (qOwner s q) (u.vec.toNat % 32) else s
/-- More entries are exposed than the ring holds (R368). -/
def overrun (u : Queue) : Bool := qCap u < (u.tail - u.head).toNat
/-- The queue consumes: its owner is active, and it is enabled, of a good size and not halted. -/
def qRuns (s : State) (q : Nat) : Bool :=
  let u := queueAt s q
  bitOf u.ctl.toNat 0 && qCap u != 0 && !halted u && (kget ({} : Partition) s.parts (qOwner s q)).state == .active
/-- Write sqctl (R371): resume clears sqerr and passes over a refused entry unless retry is set. -/
def writeCtl (s : State) (q : Nat) (v : Word) : State :=
  let u := queueAt s q
  let u' := { u with ctl := v &&& 5 }
  if bitOf v.toNat 1 && halted u then
    let refusal := bits u.err.toNat 23 16 != 0x0A
    setQueue s q { u' with err := 0, head := if refusal && !bitOf v.toNat 2 then u.head + 1 else u.head, held := if refusal then [] else u.held }
  else setQueue s q u'
/-- A write to sqtail (R368). -/
def writeTail (s : State) (q : Nat) (v : Word) : State :=
  let s := setQueue s q { queueAt s q with tail := v }
  if qRuns s q && overrun (queueAt s q) then haltQueue s q 0x0A else s
/-- A write to a queue's register; those of an enabled queue's base and size, and the read-only ones, change nothing. DESIGN CHOICE (log 90):
the base's low 12 bits are not held, as it is aligned to 4 KiB; the other aligned base registers of a partition hold the bits written. -/
def queueWrite (s : State) (q off : Nat) (v : Word) : State :=
  let u := queueAt s q
  let open' := !bitOf u.ctl.toNat 0
  match off with
  | 0x00 => if open' then setQueue s q { u with base := u.base / 2 ^ 32 * 2 ^ 32 + v.toNat / 4096 * 4096 } else s
  | 0x04 => if open' then setQueue s q { u with base := u.base % 2 ^ 32 + 2 ^ 32 * v.toNat } else s
  | 0x08 => if open' then setQueue s q { u with size := v.toNat % 16 } else s
  | 0x0C => writeTail s q v
  | 0x14 => writeCtl s q v
  | 0x1C => setQueue s q { u with vec := v &&& 0x3F }
  | _ => s
/-- The window through which a queue is reached is open: a host can use it, and the owner is not absent (R439, R443). -/
def queueOpen (s : State) (q : Nat) : Bool := q < 4096 && s.mgmt.hostUp && (kget ({} : Partition) s.parts (qOwner s q)).state != .absent
/-- SQ_TAIL_WRITE (R368). -/
def execSqTailWrite (q : Nat) (v : Word) (s : State) : Out := .next (if queueOpen s q then writeTail s q v else s)
/-- SQ_RESUME (R371). -/
def execSqResume (q : Nat) (v : Word) (s : State) : Out := .next (if queueOpen s q then writeCtl s q v else s)

/-! ## The queue unit (R370) -/

/-- Where a queue's head entry lies. -/
def headPlace (s : State) (q : Nat) : Nat := let u := queueAt s q; u.base + 64 * (u.head.toNat % qCap u)
/-- The 64 bytes of a queue's head entry: as it was read, or as it stands in its owner's translation. -/
def headEntry (s : State) (q : Nat) : Option (List Byte) :=
  let u := queueAt s q
  if u.held != [] then some (u.held.take 64) else deviceRead s (qOwner s q) (headPlace s q) 64
def entryKind (e : List Byte) : Nat := leAt e 63 1
/-- The 256 bytes of a launch entry's record, in the same way. -/
def headRecord (s : State) (q : Nat) (e : List Byte) : Option (List Byte) :=
  let u := queueAt s q
  if 64 < u.held.length then some (u.held.drop 64) else deviceRead s (qOwner s q) (leAt e 0 8) 256
/-- Priority of a head entry: a launch's own, else 0. -/
def headPri (s : State) (q : Nat) : Nat :=
  match headEntry s q with
  | some e => if entryKind e = 1 then match headRecord s q e with | some r => lPri r | none => 0 else 0
  | none => 0
/-- The queue has an entry to consume now. -/
def qReady (s : State) (q : Nat) : Bool :=
  let u := queueAt s q
  qRuns s q && u.tail != u.head && u.holds.isNone && !u.taskRetry
/-- The queue the unit serves next: the best priority, and in turn from the last queue served. -/
def nextQueue (s : State) : Option Nat :=
  (s.queues.foldl (fun (m : Option (Nat × Nat × Nat)) (q, _) =>
    if !qReady s q then m
    else
      let p := headPri s q
      let t := (q + 4096 - (s.lastQueue + 1) % 4096) % 4096
      match m with
      | some (_, p', t') => if p < p' ∨ (p = p' ∧ t < t') then some (q, p, t) else m
      | none => some (q, p, t)) none).map (·.1)
/-- Bytes of an entry from one place to another are all zero. -/
def zeroBytes (e : List Byte) (lo n : Nat) : Bool := leAt e lo n == 0
/-- Bytes an entry's kind requires to be zero are zero, and the kind is not reserved (R369). -/
def entryOk (e : List Byte) : Bool :=
  match entryKind e with
  | 0 => zeroBytes e 0 63
  | 1 => zeroBytes e 16 47
  | 2 => zeroBytes e 60 3
  | 3 => zeroBytes e 52 11
  | 4 => zeroBytes e 4 36 && zeroBytes e 48 15
  | _ => false
/-- Consume the head entry: sqhead advances, and the queue is the last served. -/
def consume (s : State) (q : Nat) : State :=
  let u := queueAt s q
  { setQueue s q { u with head := u.head + 1, taskRetry := false, held := [] } with lastQueue := q }
/-- Refuse the head entry. -/
def refuse (s : State) (q code : Nat) : State :=
  { haltQueue (setQueue s q { queueAt s q with taskRetry := false, held := [] }) q code with lastQueue := q }
/-- What has been read of the head entry stays read (R368). -/
def holdEntry (s : State) (q : Nat) (bs : List Byte) : State := setQueue s q { queueAt s q with held := bs }
/-- One turn of the queue unit at a queue whose head entry is of the kinds an event names: overrun first, then the entry's own
bytes, read once, then what the kind does. -/
def entryTurn (s : State) (q : Nat) (mine : Option (List Byte) → Bool) (act : List Byte → State → State) : State :=
  let new := (queueAt s q).held == []
  if nextQueue s ≠ some q then s
  else if overrun (queueAt s q) then haltQueue s q 0x0A
  else if new && deviceWaits s (qOwner s q) .read (headPlace s q) 64 then s
  else
    let e := headEntry s q
    if !mine e then s
    else
      let s := if new then markRead s (qOwner s q) (headPlace s q) 64 else s
      match e with
      | none => refuse s q 2
      | some e => if entryOk e then act e (if new then holdEntry s q e else s) else refuse s q 1
def kindIs (k : Nat) (e : Option (List Byte)) : Bool := match e with | some e => entryKind e == k | none => false
/-- QUEUE_ENTRY_NOP (R369): also an entry of a reserved kind, or one that cannot be read, which is refused. -/
def execQueueEntryNop (q : Nat) (s : State) : Out :=
  .next (entryTurn s q (fun e => match e with | some e => entryKind e == 0 || 5 ≤ entryKind e | none => true) fun _ s => consume s q)

/-! ## Launches (R371 to R375) -/

/-- A launch record keeps R373. -/
def launchFieldsOk (r : List Byte) : Bool :=
  let w := leAt r 36 4
  let g := lGroups r
  zeroBytes r 96 32 && leAt r 88 8 < 2 ^ 57 && leAt r 72 8 < 2 ^ 57 && leAt r 64 8 < 2 ^ 57 && zeroBytes r 58 6 &&
  leAt r 48 4 < 2 ^ 22 && leAt r 40 4 < 2048 && w < 2 ^ 18 && bits w 4 3 == 0 && leAt r 32 4 < 2 ^ 20 && zeroBytes r 26 6 &&
  1 ≤ g && g ≤ 16 && 1 ≤ lBpc r && lBpc r ≤ 16 && leAt r 20 2 != 0 && leAt r 22 2 != 0 && leAt r 24 2 != 0 &&
  1 ≤ lLanes r && lLanes r ≤ 32 * g && (List.range g).all (fun i => 1 ≤ lUnits r i && lUnits r i ≤ 12) &&
  lSp r % 256 == 0 && lSp r ≤ 2 ^ 21 && leAt r 64 8 % 64 == 0 && leAt r 72 8 % 8 == 0 && leAt r 88 8 % 8 == 0
/-- The state in which a partition's cores are empty and all its own, to ask what could ever fit. -/
def emptied (s : State) (p : Nat) : State :=
  { s with groups := [], blocks := [], cores := kmap (fun _ c => { c with division := none }) s.cores
           dies := kmap (fun _ d => { d with reservation := none, claims := [] }) s.dies
           mgmt := { s.mgmt with mcpair := kmap (fun _ m => if bitOf m p then 2 ^ p else 0) s.mgmt.mcpair, holder := [] } }
/-- A block of the launch fits an empty core, and a cluster the partition's cores of some die (R52, R371). -/
def launchFits (s : State) (r : List Byte) : Bool :=
  let n := launchNeed r
  fitsDivision n.pword (n.units.map (· + 4)).sum n.sp (4 * n.units.length * pAcch n.pword) &&
  (List.range 8).any fun d => (reserve (emptied s n.part) d none (List.replicate (lBpc r) n) []).isSome
/-- What a launch record is refused with, in the order of R371. -/
def launchCode (s : State) (q : Nat) (r : List Byte) : Option Nat :=
  if !launchFieldsOk r then some 3
  else if lPart r ≠ qOwner s q then some 4
  else if !validPword (lPword r) then some 5
  else if !launchFits s r then some 6
  else none
/-- The status word of a refused launch, when its record names one; nothing while its page migrates. -/
def refusedStatus (s : State) (q code : Nat) (r : List Byte) : Option State :=
  let a := leAt r 88 8
  if a = 0 ∨ a % 8 ≠ 0 ∨ 2 ^ 57 ≤ a then some s else releaseWrite s (qOwner s q) a (.set (4 + 256 * code))
/-- Begin a launch: it holds its queue, and its first cluster joins a distributor's list. -/
def beginLaunch (s : State) (q : Nat) (r : List Byte) : State :=
  let id := s.fresh
  let l : Launch := { identity := q + 65536 * (queueAt s q).head.toNat, queue := q, bytes := r }
  let s := consume { s with fresh := s.fresh + 1, launches := kput s.launches id l } q
  let s := setQueue s q { queueAt s q with holds := some id }
  modDie s (launchDie s (lPart r)) fun d => { d with waiting := d.waiting ++ [.launch id (lPri r)] }
/-- QUEUE_ENTRY_LAUNCH (R370 to R375). The record is read once; the entry waits while its page, or that of a refusal's status word, migrates. -/
def execQueueEntryLaunch (q : Nat) (s : State) : Out :=
  .next (entryTurn s q (kindIs 1) fun e s =>
    let a := leAt e 0 8
    let new := (queueAt s q).held.length = 64
    if a % 256 ≠ 0 then refuse s q 3
    else if new ∧ deviceWaits s (qOwner s q) .read a 256 then s
    else
      let r := headRecord s q e
      let s := if new then markRead s (qOwner s q) a 256 else s
      match r with
      | none => refuse s q 2
      | some r =>
        let s := if new then holdEntry s q (e ++ r) else s
        match launchCode s q r with
        | some code => match refusedStatus s q code r with | some s => refuse s q code | none => s
        | none => beginLaunch s q r)

/-! ## Task entries (R371, R378) -/

/-- Place a host record; the queue waits while the node's ring is full, and while its descriptor's page migrates. -/
def taskEntry (s : State) (q : Nat) (e : List Byte) : State :=
  let p := qOwner s q
  let r := { recOf e with origin := 0, stamp := stampNow s }
  let die := homeDie s p r.node
  if nodeHeld s die p r.node then s
  else match nodeFor s die p r.node with
  | none => refuse (nodeWalk s p die r.node) q 7
  | some d =>
    match placeRec s p die d r with
    | some s => consume s q
    | none => setQueue s q { queueAt s q with taskRetry := true }
/-- QUEUE_ENTRY_TASK (R378). -/
def execQueueEntryTask (q : Nat) (s : State) : Out := .next (entryTurn s q (kindIs 2) fun e s => taskEntry s q e)
/-- TASK_ENTRY_RETRY (R371): the entry that waits, as it was read and found good; a tail overrun halts the queue before it is consumed. -/
def execTaskEntryRetry (q : Nat) (s : State) : Out :=
  .next (if qRuns s q && (queueAt s q).taskRetry then
      if overrun (queueAt s q) then haltQueue s q 0x0A
      else match headEntry s q with
        | some e => taskEntry s q e
        | none => s
    else s)

/-! ## Cairn entries (R379) -/

/-- A page as arming needs it: readable in the translation, with its write bit standing for pwrite (R379): a trap code, a wait, or its tier, its
address and its entry; and the state after its walk (R393, R396). -/
def armPage (s : State) (p va : Nat) : Sum (Option Nat) (Nat × Nat × Nat) × State :=
  (match deviceJudge s p .read va with
    | .trap c _ => .inl (some c)
    | .park _ => .inl none
    | .ok tier _ frame pte => if bitOf pte 2 then .inr (tier, frame * 65536 + va % 65536, pte) else .inl (some 6), deviceWalk s p .read va 1)
/-- The checks of R306 on an arming entry: a trap code, a wait for a migrating page, or the region's place and the record; and the state after
the walks they come to. -/
def entryChecks (s : State) (p : Nat) (e : List Byte) : Sum (Option Nat) (Nat × Option TaskRec) × State :=
  let base := leAt e 0 8
  let size := leAt e 8 4
  let (write, post) := (bitOf (leAt e 48 4) 0, bitOf (leAt e 48 4) 1)
  let va := leAt e 16 8
  let ra := leAt e 32 8
  let go := fun (a : Nat) => if 2 ^ 57 ≤ a then Xlate.trap 6 2 else deviceJudge s p .read a
  let stop := fun (x : Xlate) => match x with | .trap c _ => some (some c) | .park _ => some none | .ok _ _ _ _ => none
  if leAt e 48 4 ≥ 8 || leAt e 12 4 == 0 || !(write || post) || size == 0 || 65536 < size ||
     base / 65536 != (base + size - 1) / 65536 || (post && ra % 8 != 0) then (.inl (some 0x13), s)
  else
    let s := if post then markRead s p ra 64 else s
    let rs := if post then [go ra, go (ra + 63)] else []
    match rs.findSome? stop with
    | some c => (.inl c, s)
    | none =>
      match (if post then deviceRead s p ra 64 else some []) with
      | none => (.inl (some 7), s)
      | some bytes =>
        if 2 ^ 57 < base + size || (write && 2 ^ 57 < va + 8) then (.inl (some 6), s)
        else if write && va % 8 ≠ 0 then (.inl (some 9), s)
        else match armPage s p base with
          | (.inl c, s) => (.inl c, s)
          | (.inr (tier, pa, pte), s) =>
            if tier ≠ 0 ∨ bitOf pte 10 ∨ (homeSlice s pa).isNone then (.inl (some 6), s)
            else match (if write then armPage s p va else (.inr (0, 0, 0), s)) with
              | (.inl c, s) => (.inl c, s)
              | (.inr _, s) =>
                if !post then (.inr (pa, none), s)
                else
                  let r := { recOf bytes with origin := 4 }
                  let die := homeDie s p r.node
                  let s := nodeWalk s p die r.node
                  if nodeHeld s die p r.node then (.inl none, s)
                  else if (nodeFor s die p r.node).isNone then (.inl (some 0x12), s) else (.inr (pa, some r), s)
/-- The result word of a cairn entry, as a release at system scope; nothing while its page migrates. -/
def resultWrite (s : State) (p va v : Nat) : Option State :=
  if va % 8 ≠ 0 ∨ 2 ^ 57 ≤ va then some s
  else match deviceJudge s p .write va with
    | .trap _ _ => some (deviceWalk s p .write va 8)
    | _ => releaseWrite s p va (.set v)
/-- Consume a cairn entry after its result; it waits while the result's page migrates. -/
def cairnResult (s0 s : State) (q va v : Nat) : State :=
  match resultWrite s (qOwner s q) va v with | some s => consume s q | none => s0
/-- QUEUE_ENTRY_CAIRN_ARM (R379). -/
def execQueueEntryCairnArm (q : Nat) (s : State) : Out :=
  .next (entryTurn s q (kindIs 3) fun e s =>
    let p := qOwner s q
    let refused := fun (s : State) (c : Nat) => cairnResult s s q (leAt e 40 8) (65536 * c)
    match entryChecks s p e with
    | (.inl none, s1) => s1
    | (.inl (some c), s1) => refused s1 c
    | (.inr (pa, task), s1) =>
      let n := (homeSlice s1 pa).getD 0
      let dom := domSlices s1 pa
      match freeCairn s1 n with
      | none => refused s1 0x14
      | some i =>
        if dom.any fun k => 256 ≤ (kget ({} : Slice) s1.slices k).filters.length then refused s1 0x14
        else
          let h := 64 * n + i
          let c : Cairn := { part := p, base := pa, size := leAt e 8 4, total := leAt e 12 4, write := bitOf (leAt e 48 4) 0
                             post := bitOf (leAt e 48 4) 1, rearm := bitOf (leAt e 48 4) 2, wordVa := leAt e 16 8, value := leAt e 24 8, task := task }
          let s2 := dom.foldl (fun s k => modSlice s k fun sl => { sl with filters := sl.filters ++ [h] }) (setCairn s1 h c)
          cairnResult s1 s2 q (leAt e 40 8) (h + 2 ^ 31))
/-- QUEUE_ENTRY_CAIRN_DISARM (R379). -/
def execQueueEntryCairnDisarm (q : Nat) (s : State) : Out :=
  .next (entryTurn s q (kindIs 4) fun e s =>
    let h := leAt e 0 4
    match ownCairn s (qOwner s q) h with
    | some c => cairnResult s (freeEntryOf s h c) q (leAt e 40 8) 1
    | none => cairnResult s s q (leAt e 40 8) 0)

end Sys2Proof.Machine
end

