-- ==== Sys2Proof/Machine/Migration.lean ====
section
/-!
DEFINITION. The migration engine: its ring, the steps of a command, and how a transfer finishes or aborts (R406 to R412).
-/
namespace Sys2Proof.Machine

/-! ## Pages a command names -/

def pTier (pte : Nat) : Nat := bits pte 7 6
def pFrame (pte : Nat) : Nat := bits pte 51 16
def pPlace (pte : Nat) : Nat := bits pte 63 52
/-- Where byte `i` of a partition's page lies, as tier and address: a tier-3 page at the command's host-window address (R408), and it and a
tier-1 page behind the partition's port (R439). -/
def pageAt (s : State) (p pte host i : Nat) : Nat × Nat :=
  if pTier pte = 3 then (1, spaceBase s p + host + i) else (pTier pte, (if pTier pte = 1 then spaceBase s p else 0) + 65536 * pFrame pte + i)
/-- The die whose engine carries a command: beside the destination's stack, or die 0 (R407). -/
def engineDie (new : Nat) : Nat := let k := bits new 55 52; if pTier new = 0 ∧ k < 12 then 2 * (k / 3) else 0
/-- Step 1: the command's fields, the new PTE under R393, and ownership of the PTE and of both frames (R409). -/
def commandOk (s : State) (p : Nat) (e : List Byte) : Bool :=
  let kind := leAt e 48 1
  let (pte, old, new) := (leAt e 0 8, leAt e 8 8, leAt e 16 8)
  let owned := fun (q : Nat) => pTier q != 0 || frameOwner s (pFrame q) == p
  leAt e 49 15 == 0 && 1 ≤ kind && kind ≤ 3 && pte % 8 == 0 && leAt e 32 8 % 8 == 0 && leAt e 40 8 % 8 == 0 &&
  bitOf new 0 && bitOf new 1 && !bitOf new 15 && !badPage s.mgmt.config new false &&
  frameOwner s (pte / 65536) == p && owned old && owned new &&
  (kind != 3 || (pTier old == 0 && pTier new == 0 && pFrame old == pFrame new))
/-- Step 2: a frame holds a region of an armed cairn. -/
def cairnFrame (s : State) (f : Nat) : Bool := s.slices.any fun x => x.2.cairns.any fun c => c.2.base / 65536 == f && c.2.total != 0
/-- A write or an addition of the engine at device scope to a virtual address: skipped when the page does not take it, nothing while it
migrates, and unnamed at 0. -/
def engineWrite (s : State) (p va : Nat) (d : Deed) : Option State :=
  if va = 0 then some s
  else match deviceJudge s p .write va with
    | .trap _ _ => some (deviceWalk s p .write va 8)
    | _ => releaseWrite s p va d
/-- The engine's write of a PTE, as a release at device scope; accepted at the slice, it snoops the TLBs and may end parks. -/
def writePte (s : State) (a v : Nat) : State :=
  let s := physWrite { s with marks := writeMarks s.marks ((List.range 8).map fun i => tkey 0 (a + i)) false [agentMark s] } 0 (cellsAt a (leOut 8 v))
  accepted s 0 ((List.range 8).map (a + ·)) false

/-! ## Transfers (R409, R410, R412) -/

/-- Blocks of 64 bytes of a source page in error or poisoned, in device memory or the CXL pool, by place in the page. -/
def badIn (s : State) (p pte : Nat) : List Nat :=
  (List.range 1024).filter fun i => pTier pte ≤ 1 && badByte s (pTier pte) (pageAt s p pte 0 (64 * i)).2
/-- A transfer meets an error of its host window, or at a destination beyond the host port: it fails (R410). -/
def windowFails (s : State) (m : Migration) : Bool :=
  (pTier m.old == 3 && (List.range 1024).any fun i => hostFails s 1 (pageAt s m.part m.old m.host (64 * i)).2) ||
  ((pTier m.new == 1 || pTier m.new == 3) && (List.range 1024).any fun i => hostFails s 1 ((pageAt s m.part m.new m.host 0).2 + 64 * i))
/-- Sector `i` of a page asked of its peer. -/
def askPage (s : State) (m : Migration) : State :=
  (List.range 2048).foldl (fun s i =>
    (askSector s { type := 0, dst := pPlace m.old, part := m.part, mig := some m.id, pa := 65536 * pFrame m.old + 32 * i }).2) s
/-- The engine's write of moved bytes: translations through entries among them end (R398). -/
def engineBytes (s : State) (tier : Nat) (cells : List Host.Cell) : State :=
  let s := physWrite s tier cells
  if tier = 0 then snoopTlb s (cells.map (·.1)) else s
/-- A page's bytes, read where they lie, written to the destination's place. -/
def copyPage (s : State) (m : Migration) : State :=
  let (t, a) := pageAt s m.part m.old m.host 0
  let bytes := physRead s t a 65536
  let (u, d) := pageAt s m.part m.new m.host 0
  if u = 2 then
    (List.range 2048).foldl (fun s i =>
      let r : Remote := { type := 1, dst := pPlace m.new, part := m.part, mig := some m.id, pa := d + 32 * i }
      (if m.poisoned.contains (i / 2) then putPoison s r else putSector s r (cellsAt (d + 32 * i) ((bytes.drop (32 * i)).take 32))).2) s
  else engineBytes s u (cellsAt d bytes)
/-- Mark destination blocks whose source was poisoned, in device memory or the host's space; a peer has had its markers with the bytes. -/
def markBlocks (s : State) (m : Migration) : State :=
  let (u, d) := pageAt s m.part m.new m.host 0
  let ns := m.poisoned.map (d / 64 + ·)
  if u = 0 then { s with poison := (s.poison ++ ns).eraseDups }
  else if u = 1 then { s with hostPoison := (s.hostPoison ++ ns).eraseDups }
  else s
/-- The exact sums open in a frame close (R412, R424): their slices own its lines no longer. -/
def closeFrame (s : State) (f : Nat) : State :=
  (s.slices.flatMap fun (n, sl) => sl.sums.filterMap fun (k, x) => if k / 65536 = f then some (n, k, x) else none).foldl
    (fun s (n, k, x) => closeSum s 0 n k x) s
/-- Step 4 begins: the transfer of a copy, or the draining of the losing side of a bias flip. -/
def beginTransfer (s : State) (m : Migration) : Migration × State :=
  let m := { m with sent := true }
  if m.kind = 3 then
    let f := pFrame m.old
    let s := closeFrame s f
    (m, if bitOf m.new 10 then dropLines s fun line => line / 512 == f
      else (List.range 512).foldl (fun s i =>
        match homeSlice s (65536 * f + 128 * i) with
        | some n => conflictAt s (8 + n) (512 * f + i) 9 [8]
        | none => s) s)
  else if pTier m.old = 2 then (if windowFails s m then ({ m with bad := true }, s) else (m, askPage s m))
  else
    let m := { m with poisoned := badIn s m.part m.old, bad := windowFails s m }
    (m, copyPage s m)
/-- A command's page has moved (R281, R300): fragments that watch a word of it through the entry that changes watch its new place, a join's
waiter is recorded there, and the releases beside its bytes stand there too; one whose continuation frame has been pushed keeps the place
that the frame names. -/
def movePlaces (s : State) (m : Migration) : State :=
  let (t, a) := pageAt s m.part m.old m.host 0
  let (u, d) := pageAt s m.part m.new m.host 0
  let old := markKey t (pPlace m.old) a
  let new := markKey u (pPlace m.new) d
  let within := fun (b key : Nat) => b ≤ key && key < b + 65536
  let s := { s with marks := kputAll (s.marks.filter fun q => !within new q.1) (s.marks.filterMap fun q =>
    if within old q.1 then some (new + (q.1 - old), q.2) else none) }
  let framed := fun (k : Nat) (w : Watch) => ((kget ({} : Core) s.cores (k / 64)).quarry ++ spilled s (k / 64) m.part).any fun q =>
    q.cont && q.slot == k % 64 && q.ctr == w.tier * 2 ^ 56 + w.addr % 2 ^ 56
  let moves := fun (k : Nat) (g : Group) (f : Frag) => f.wait != .none && !(f.wait == .join && f.watch.any (framed k)) && (kget ({} : Block) s.blocks g.block).part == m.part && f.watch.any fun w =>
    !w.scratch && within old (tkey w.tier w.addr) && (walk s m.part w.va).path.headD 0 == m.pte
  let place := fun (w : Watch) => { w with tier := u, addr := new - u * 2 ^ 60 + (tkey w.tier w.addr - old) }
  let gone := s.groups.flatMap fun (k, g) => ((groupFrags g).filter (moves k g)).filterMap fun f => f.watch.map fun w => (k, g.gid, f.wait, w)
  let s := { s with groups := kmap (fun k g =>
    let up := fun (f : Frag) => if moves k g f then { f with watch := f.watch.map place } else f
    { g with table := kmap (fun _ f => up f) g.table, spill := g.spill.map up }) s.groups }
  gone.foldl (fun s (k, gid, kind, w) =>
    let s := { s with slices := kmap (fun _ sl => { sl with waiters := sl.waiters.filter fun q => !(kind == .join && q.1 == tkey w.tier w.addr && q.2.1 == k) }) s.slices }
    let v := place w
    if u = 2 then askAgain s gid m.part (pPlace m.new) (v.addr % 2 ^ 52) v.va
    else if kind = WaitKind.join then modSlice s (slotSlice s m.part u v.addr) fun sl => { sl with waiters := kput sl.waiters (tkey u v.addr) (k, gid) }
    else s) s
/-- Steps 5 and 6 (R409): the new PTE, counts, the status and the counter; nothing while either word's page migrates,
or the free list's where the old frame's count falls to 0. -/
def finishMigration (s : State) (m : Migration) : Option State :=
  if m.kind = 2 ∧ pTier m.old = 0 ∧ kget 0 s.mgmt.fcount (pFrame m.old) = 1 ∧ freeWaits s m.part then none else
  let s := if m.kind = 3 then s else markBlocks s m
  let bad := m.poisoned != []
  let s := { s with migrations := s.migrations.filter fun q => q.id != m.id }
  let s := if m.kind = 3 then
      let f := pFrame m.new
      { s with mgmt := { s.mgmt with fbias := if bitOf m.new 10 then f :: s.mgmt.fbias.filter (· != f) else s.mgmt.fbias.filter (· != f) } }
    else s
  let s := if m.kind = 2 ∧ pTier m.new = 0 then countUp s m.part (pFrame m.new) else s
  let s := if m.kind = 3 then s else movePlaces s m
  let s := writePte s m.pte (if bad && !bitOf m.new 12 then m.new + 4096 else m.new)
  let s := if m.kind = 2 ∧ pTier m.old = 0 then countDown s m.part (pFrame m.old) else s
  (engineWrite s m.part m.stat (.set ((if bad then 3 else 0) + 2 ^ 32 * m.poisoned.length))).bind fun s =>
    engineWrite s m.part m.ctr (.add 1)
/-- Requests of a migration still unanswered, the host's responses to back-invalidations among them (R412). -/
def migPending (s : State) (id : Nat) : Bool :=
  (s.remotes.any fun r => r.2.mig == some id) ||
  match s.migrations.find? fun m => m.id == id with
  | some m => m.kind == 3 && s.slices.any fun x => x.2.conflicts.any fun c => c.line / 512 == pFrame m.old && c.waiting.contains 8
  | none => false
/-- MIGRATION_COPY_DONE (R409): every byte has been moved, or the losing side drained. -/
def execMigrationCopyDone (n : Nat) (s : State) : Out :=
  .next (match s.migrations.find? fun m => m.id == n with
    | some m => if m.bad || !m.sent || migPending s n then s else (finishMigration s m).getD s
    | none => s)
/-- An entry with mig clear. -/
def withoutMig (pte : Nat) : Nat := if bitOf pte 15 then pte - 2 ^ 15 else pte
/-- MIGRATION_ABORT (R410): a write or read of the engine's transfer has failed; the source stays authoritative. -/
def execMigrationAbort (n : Nat) (s : State) : Out :=
  .next (match s.migrations.find? fun m => m.id == n with
    | some m =>
      let s1 := { s with migrations := s.migrations.filter fun q => q.id != n }
      (engineWrite (writePte s1 m.pte (withoutMig m.old)) m.part m.stat (.set 2)).getD s
    | none => s)

/-! ## The ring (R407) -/

/-- Base and capacity of a partition's ring; nothing when it is disabled. -/
def migRing (s : State) (p : Nat) : Option (Nat × Nat) :=
  let n := (preg s p 0x20F).toNat % 16
  if n < 4 ∨ 12 < n then none else some (preg2 s p 0x20D, 2 ^ n)
/-- Whether a command must wait: for an earlier one whose PTE shares its line, or for its die's engine. -/
def migWaits (s : State) (pte new : Nat) : Bool :=
  s.migrations.any (fun m => m.pte / 128 == pte / 128) || 8 ≤ (s.migrations.filter fun m => engineDie m.new == engineDie new).length
/-- Steps 1 to 3 for the ring's next command; `ahead` moves the head past it. -/
def takeCommand (s : State) (part : Nat) (e : List Byte) (ahead : State → State) : State :=
  let (pte, old, new, ctr, stat) := (leAt e 0 8, leAt e 8 8, leAt e 16 8, leAt e 32 8, leAt e 40 8)
  let answer := fun (code : Nat) => ((engineWrite s part stat (.set code)).map ahead).getD s
  if leAt e 48 1 = 0 then ahead s
  else if !commandOk s part e then answer 4
  else if migWaits s pte new || pteHeld s [pte / 128] then s
  else if pTier old = 0 && cairnFrame s (pFrame old) then answer 5
  else if read8 s pte ≠ old then answer 1
  else match engineWrite s part ctr (.add 1) with
    | none => s
    | some s =>
      let m : Migration := { id := s.fresh, part := part, pte := pte, old := old, new := new, host := leAt e 24 8, ctr := ctr, stat := stat, kind := leAt e 48 1 }
      let s := writePte { s with fresh := s.fresh + 1 } pte (if bitOf old 15 then old else old + 2 ^ 15)
      let (m, s) := beginTransfer s m
      ahead { s with migrations := s.migrations ++ [m] }
/-- MIGRATION_DOORBELL (R407 to R409): the next command of the ring is consumed, through step 3. The doorbell stands while the ring's own
page migrates; a ring that is disabled, or whose head or entry cannot be read, consumes nothing until the next doorbell. -/
def execMigrationDoorbell (part : Nat) (s : State) : Out :=
  .next (if !(kget ({} : Partition) s.parts part).doorbell then s
    else
      let quiet := fun (s : State) => modPart s part fun p => { p with doorbell := false }
      match migRing s part with
      | none => quiet s
      | some (base, cap) =>
        if deviceWaits s part .read base 8 then s
        else match deviceRead s part base 8 with
        | none => quiet (markRead s part base 8)
        | some b =>
          let s := markRead s part base 8
          let (head, tail) := (leAt b 0 4, leAt b 4 4)
          let at' := base + 64 + 64 * (head % cap)
          if head = tail then quiet s
          else if deviceWaits s part .read at' 64 then s
          else match deviceRead s part at' 64 with
          | none => quiet (markRead s part at' 64)
          | some e => takeCommand (markRead s part at' 64) part e fun s => (devicePut s part base (leOut 4 ((head + 1) % 2 ^ 32))).getD s)

end Sys2Proof.Machine
end

