-- ==== Sys2Proof/Machine/MemSys.lean ====
section
/-!
DEFINITION. Directory messages, refresh and activation alerts, and the draining and re-division of interleave domains
(R421, R425, R427 to R436).
-/
namespace Sys2Proof.Machine

/-! ## Directories (R427 to R431) -/

/-- DIRECTORY_WRITE_CONFLICT (R429): the line's entry splits, and every other holder is sent an invalidation. -/
def execDirectoryWriteConflict (dir line writer : Nat) (s : State) : Out :=
  .next (match (dirOf s dir).1.find? fun e => e.covers line with
    | none => s
    | some e =>
      let others := (allHolders dir e).filter (· != writer)
      if others = [] ∨ (dirOf s dir).2.any (fun c => c.line == line) then s else conflictAt s dir line writer others)
/-- The groups whose outstanding writes to a line are now granted carry the clock's stamp from here on (R432). -/
def stampGranted (s : State) (dir line writer : Nat) : State :=
  let wrote := fun (k : Nat) (g : Group) =>
    (if dir < 8 then k / 64 == 64 * dir + writer % 64 else writer == 9 || dieOf (k / 64) == writer) &&
    s.ops.any fun o => o.gid == g.gid && o.lines.contains line
  { s with groups := kmap (fun k g => if wrote k g then { g with wrStamp := max g.wrStamp (stampNow s) } else g) s.groups }
/-- INVALIDATION_ANSWER (R429): with the last answer to the line's first conflict the write is granted, and the line's entry names the
writer, and whoever has read the line since. -/
def execInvalidationAnswer (dir line holder : Nat) (s : State) : Out :=
  .next (match (dirOf s dir).2.find? fun c => c.line == line with
    | none => s
    | some c =>
      if !c.waiting.contains holder then s
      else
        let s := holderDrops s dir line holder
        let (d, cs) := dirOf s dir
        let left := c.waiting.filter (· != holder)
        if left = [] then stampGranted (setDir s dir (dirOwn d (dirGroup dir) line c.writer c.late) (cs.erase c)) dir line c.writer
        else setDir s dir d (cs.replace c { c with waiting := left }))
/-- EVICTION_NOTICE (R429): the dropped line's holder leaves a pointer entry; a coarse one stays. -/
def execEvictionNotice (dir line holder : Nat) (s : State) : Out :=
  .next (let s := holderDrops s dir line holder
    let (d, cs) := dirOf s dir
    setDir s dir (dirLeave d line holder) cs)
/-- REGION_MERGE (R430); a region with a write that waits for its grant is in use. -/
def execRegionMerge (dir base size : Nat) (s : State) : Out :=
  .next (let (d, cs) := dirOf s dir
    if cs.any fun c => base ≤ c.line && c.line < base + 2 ^ (size + 1) then s else setDir s dir (dirMerge d (dirGroup dir) base size) cs)
/-- The clock of a die's L2, in MHz: its island's (R7). -/
def l2Clock (s : State) (die : Nat) : Nat := match kfind s.mgmt.islands (256 + die) with | some i => i.clock | none => s.mgmt.config.fmax
/-- Every quiet field rises with each 1,024 L2 clocks, to 127 (R427): a die's by its own L2's clock. DESIGN CHOICE (log 91): the spec does not
say which die's L2 clock an LLC slice counts by, and the slices count by fmax. -/
def ageDirs (s : State) : State :=
  let older := fun (d : List DirEntry) => d.map fun e => { e with quiet := min 127 (e.quiet + 1) }
  let unit := 1024 * s.mgmt.config.fmax
  { s with
    dies := kmap (fun n d =>
      let r := d.l2run + l2Clock s n
      if unit ≤ r then { d with l2run := r - unit, dir := older d.dir } else { d with l2run := r }) s.dies
    slices := if s.clock % 1024 = 0 then kmap (fun _ d => { d with dir := older d.dir }) s.slices else s.slices }

/-! ## Refresh (R421) -/

def setBank (s : State) (b : Nat) (f : Bank2 → Bank2) : State := { s with banks := kput s.banks b (f (kget {} s.banks b)) }
/-- PER_BANK_REFRESH: postponed, eight at most, or issued with every postponed one. -/
def execPerBankRefresh (bank : Nat) (s : State) : Out :=
  .next (let (wait, s) := draw s
    setBank s bank fun b => if wait && b.owed < 8 then { b with owed := b.owed + 1 } else { b with refreshes := b.refreshes + b.owed + 1, owed := 0 })
/-- ACTIVATION_ALERT: eight owed refreshes are issued first, then one refresh-management command. -/
def execActivationAlert (bank : Nat) (s : State) : Out :=
  .next (setBank s bank fun b =>
    let b := if b.owed = 8 then { b with refreshes := b.refreshes + 8, owed := 0 } else b
    { b with alerts := b.alerts + 1, managed := b.managed + 1 })

/-! ## Interleave domains (R425, R434 to R436) -/

/-- Owner of a descriptor, and the descriptors of a partition. -/
def dOwner (s : State) (d : Nat) : Nat := kget 255 s.mgmt.down d
def ownDescs (s : State) (p : Nat) : List Nat := (List.range 32).filter fun d => dOwner s d == p
def sdctl (s : State) (d : Nat) : Nat := domStagedWord s d 5
def setSdctl (s : State) (d v : Nat) : State := { s with mgmt := { s.mgmt with domStaged := kput s.mgmt.domStaged (16 * d + 5) (word v) } }
/-- A busy bit of the partition is set. -/
def domBusy (s : State) (p : Nat) : Bool := (ownDescs s p).any fun d => bitOf (sdctl s d) 8
/-- DOMAIN_DRAIN (R434). -/
def execDomainDrain (part d : Nat) (s : State) : Out :=
  .next (if 32 ≤ d ∨ dOwner s d ≠ part ∨ domBusy s part then s else setSdctl s d 0x101)
/-- DOMAIN_DRAIN_DONE (R434): the domain's lines are written back and held nowhere. -/
def execDomainDrainDone (part d : Nat) (s : State) : Out :=
  .next (if dOwner s d = part ∧ sdctl s d = 0x101 then
      setSdctl (dropLines s fun line => domHolds (domWord s d) (128 * line)) d 0
    else s)
/-- Intervals joined where they touch, in order. -/
def mergeRanges : List (Nat × Nat) → List (Nat × Nat)
  | [] => []
  | (a, b) :: t =>
    match mergeRanges t with
    | (c, d) :: u => if c = b + 1 then (a, d) :: u else (a, b) :: (c, d) :: u
    | [] => [(a, b)]
def insertRange (r : Nat × Nat) : List (Nat × Nat) → List (Nat × Nat)
  | [] => [r]
  | q :: t => if r.1 ≤ q.1 then r :: q :: t else q :: insertRange r t
/-- First and last frames of the valid descriptors among those named, in order. -/
def rangesOf (w : Nat → Nat → Nat) (ds : List Nat) : List (Nat × Nat) :=
  ((ds.filter fun d => domValid (w d) && domBase (w d) ≤ domLimit (w d)).map fun d => (domBase (w d), domLimit (w d))).foldr insertRange []
def disjointRanges : List (Nat × Nat) → Bool
  | (_, b) :: (c, d) :: t => b < c && disjointRanges ((c, d) :: t)
  | _ => true
/-- Slices of a descriptor's words. -/
def slicesOf (w : Nat → Nat) : List Nat := (List.range (2 ^ domN w)).map (domFirst w + ·)
/-- XORs of the nonempty sub-lists of masks: none is zero when the masks are independent over PA[51:7]. -/
def dependent (w : Nat → Nat) : Bool :=
  (subLists ((List.range (domN w)).map (domMask w))).any fun l => l != [] && l.foldl (· ^^^ ·) 0 == 0
/-- The home slice an address would have after a partition's commit. -/
def stagedHome (s : State) (p pa : Nat) : Option Nat :=
  let w := fun d => if dOwner s d = p then domStagedWord s d else domWord s d
  ((List.range 32).find? fun d => domHolds (w d) pa).map fun d => domHome (w d) pa
/-- What a commit's check finds, in the order of R435; 0 when it passes. -/
def commitCode (s : State) (p : Nat) : Nat :=
  let ds := ownDescs s p
  let rs := rangesOf (domStagedWord s) ds
  let vs := ds.filter fun d => domValid (domStagedWord s d)
  let sl := vs.flatMap fun d => slicesOf (domStagedWord s d)
  if !disjointRanges rs || mergeRanges rs != mergeRanges (rangesOf (domWord s) ds) then 1
  else if sl.any (fun n => 256 ≤ n || kget 255 s.mgmt.sown n != p) || sl.eraseDups.length != sl.length then 2
  else if vs.any fun d => 4 < domN (domStagedWord s d) || dependent (domStagedWord s d) then 3
  else if s.slices.any fun x => x.2.cairns.any fun c => c.2.total != 0 &&
      (List.range (c.2.size / 128 + 2)).any fun i =>
        let a := (c.2.base / 128 + i) * 128
        a < c.2.base + c.2.size && homeSlice s a != stagedHome s p a then 4
  else 0
/-- DOMAIN_COMMIT (R435). -/
def execDomainCommit (part d : Nat) (s : State) : Out :=
  .next (if 32 ≤ d ∨ dOwner s d ≠ part ∨ domBusy s part then s
    else
      let code := commitCode s part
      if code = 0 then setSdctl s d 0x102 else setSdctl s d (65536 * code))
/-- Exact sums of moving lines leave their old home: to the area where their set has room, under the new home either way. -/
def moveSums (s : State) (p : Nat) : State :=
  let moving := s.slices.flatMap fun (n, sl) => sl.sums.filterMap fun (k, x) =>
    if k / 2 ^ 60 = 0 then match stagedHome s p k with | some m => if m ≠ n then some (n, m, k, x) else none | none => none else none
  moving.foldl (fun s (n, m, k, x) =>
    let room := if sumSets s x.part = 0 || !areaOpen s x k then none else (List.range 8).find? fun w => !(setWays s x.part (sumSet s x.part k)).contains w
    let y := if !x.inSlice then x else match room with | some w => { x with inSlice := false, way := w } | none => x
    let s := modSlice s n fun sl => { sl with sums := kdel sl.sums k }
    storeArea (modSlice s m fun sl => { sl with sums := kput sl.sums k y }) y k (areaBytes y k)) s
/-- Waiters of join at counters of moving lines are recorded at the new home (R300, R436). -/
def moveWaiters (s : State) (p : Nat) : State :=
  let moving := s.slices.flatMap fun (n, sl) => sl.waiters.filterMap fun (k, w) =>
    if k / 2 ^ 60 = 0 then match stagedHome s p k with | some m => if m ≠ n then some (n, m, k, w) else none | none => none else none
  moving.foldl (fun s (n, m, k, w) =>
    modSlice (modSlice s n fun sl => { sl with waiters := kdel sl.waiters k }) m fun sl => { sl with waiters := kput sl.waiters k w }) s
/-- DOMAIN_COMMIT_DONE (R436): moving lines are held nowhere, and the staged copies become active. -/
def execDomainCommitDone (part d : Nat) (s : State) : Out :=
  .next (if dOwner s d = part ∧ sdctl s d = 0x102 then
      let s := moveWaiters (moveSums (dropLines s fun line => homeSlice s (128 * line) != stagedHome s part (128 * line)) part) part
      let act := (ownDescs s part).foldl (fun m d => (List.range 16).foldl (fun m i => if i = 5 then m else kput m (16 * d + i) (word (domStagedWord s d i))) m) s.mgmt.domActive
      setSdctl { s with mgmt := { s.mgmt with domActive := act } } d 0
    else s)
/-- The bits a domain register has: its reserved bits read as zero and ignore writes (R6, R425). -/
def domKeep (i : Nat) : Word :=
  match i with | 1 => 0xF | 3 => 0xF | 4 => 0x800007FF | 5 => 0x70100 | 7 => 0x1FFF | 9 => 0x1FFF | 11 => 0x1FFF | 13 => 0x1FFF | 14 => 0 | 15 => 0 | _ => 0xFFFFFFFF
/-- A write to a staged register (R425). -/
def writeDomain (s : State) (p n : Nat) (v : Word) : State :=
  let d := (n - 0x300) / 16
  let i := n % 16
  if dOwner s d ≠ p ∨ domBusy s p ∨ 14 ≤ i then s
  else if i = 5 then
    (match (if bitOf v.toNat 1 then execDomainCommit p d s else if bitOf v.toNat 0 then execDomainDrain p d s else .next s) with | .next s => s | _ => s)
  else { s with mgmt := { s.mgmt with domStaged := kput s.mgmt.domStaged (16 * d + i) (v &&& domKeep i) } }
/-- A read of one: the staged copy; busy and status of sdctl. -/
def readDomain (s : State) (p n : Nat) : Word :=
  let d := (n - 0x300) / 16
  if dOwner s d ≠ p then 0 else kget 0 s.mgmt.domStaged (n - 0x300) &&& domKeep (n % 16)

end Sys2Proof.Machine
end

