-- ==== Sys2Proof/Machine/Links.lean ====
section
/-!
DEFINITION. Packets as they arrive: remote accesses and beacons served or forwarded, and answers taken; the link ports with their
flits, retries and training; routes (R303, R402, R444 to R450).
-/
namespace Sys2Proof.Machine

/-! ## The queue of arrived packets -/

/-- The virtual channel of a packet type (R447). -/
def channelOf (t : Nat) : Nat := match t with | 4 => 2 | 5 => 3 | 6 => 1 | 7 => 1 | 8 => 1 | _ => 0
/-- The packet an event takes: of its types, with none of its channel and path before it. -/
def takePacket (s : State) (n : Nat) (mine : Nat → Bool) : Option (Nat × Packet) :=
  match s.inbox[n]? with
  | some (p, k) =>
    if mine k.type && !((s.inbox.take n).any fun q => channelOf q.2.type == channelOf k.type && q.2.src == k.src && q.2.dst == k.dst) then some (p, k) else none
  | none => none
/-- Serve the `n`-th packet, or send it on when its destination is another device (R448); nothing while it must wait. -/
def onPacket (s : State) (n : Nat) (mine : Nat → Bool) (serve : State → Packet → Option State) (wait : State → Packet → State := fun s _ => s) : Out :=
  .next (match takePacket s n mine with
    | none => s
    | some (_, k) =>
      let rest := { s with inbox := s.inbox.eraseIdx n }
      if k.dst ≠ devNum s then (if k.type ≤ 4 then sendPacket rest k else sendAnswer (noteAnswer rest k) k)
      else (serve rest k).getD (wait s k))

/-! ## Requests served (R447 to R450) -/

/-- The active partition that holds a key. -/
def keyPart (s : State) (key : Word) : Option Nat :=
  (s.parts.find? fun p => p.2.state == .active && p.2.key == key).map (·.1)
/-- The first address a packet names, and a check of `len` bytes: the partition, or the status of the refusal. -/
def target (s : State) (k : Packet) (low len : Nat) : Sum Nat (Nat × Nat) :=
  match keyPart s k.key with
  | none => .inl 3
  | some p =>
    let a := 16 * k.field + low
    if frameOwner s (a / 65536) ≠ p ∨ frameOwner s ((a + len - 1) / 65536) ≠ p then .inl 5 else .inr (p, a)
def serve (s : State) (k : Packet) (low len : Nat) (act : Nat → Nat → Option State) : Option State :=
  match target s k low len with
  | .inl st => some (sendAnswer s (errorTo k st))
  | .inr (p, a) => act p a
/-- REMOTE_READ. -/
def execRemoteRead (n : Nat) (s : State) : Out :=
  onPacket s n (· == 0) fun s k => serve s k 0 32 fun _ a =>
    let a := a / 32 * 32
    if poisoned s a then some (sendAnswer s (errorTo k 6)) else some (sendAnswer (homeRead s (a / 128)) (answerTo k 6 0 (physRead s 0 a 32)))
/-- REMOTE_WRITE (R449): the enabled bytes are written at the home slice, and the write is acknowledged; one with status 6 marks its block
(log 121). -/
def execRemoteWrite (n : Nat) (s : State) : Out :=
  onPacket s n (· == 1) fun s k => serve s k 0 32 fun _ a =>
    let a := a / 32 * 32
    let en := leAt k.body 32 4
    let cells := (List.range 32).filterMap fun i => if bitOf en i then some (a + i, k.body.getD i 0) else none
    if pteHeld s [a / 128] then none else
    let s := physWrite { s with marks := endMarks s.marks (cells.map fun c => tkey 0 c.1) } 0 cells
    let s := if k.status = 6 then { s with poison := (a / 64 :: s.poison).eraseDups } else s
    some (sendAnswer (accepted s 0 (cells.map (·.1)) true) (answerTo k 7 0 (leOut 4 0)))
/-- A remote operation's op, size, deterministic flag, low address bits and operands. -/
def opOf (b : List Byte) : Nat × Nat × Nat × Nat × Nat × Nat := (leAt b 0 1, leAt b 1 1, leAt b 2 1, leAt b 3 1 % 16, leAt b 4 8, leAt b 12 8)
/-- More packets of one request follow: the operands of the later lanes of an instruction at one location (R227, log 97). -/
def moreFollows (k : Packet) : Bool := 2 ≤ k.type && k.type ≤ 3 && bitOf (leAt k.body 2 1) 1
/-- The packets of one request, from the `n`-th on, by their places in the queue: with the last of them missing it must wait. -/
def requestRun : Nat → State → Nat → Option (List Nat)
  | 0, _, _ => none
  | m + 1, s, n =>
    match s.inbox[n]? with
    | none => none
    | some (_, k) =>
      if !moreFollows k then some [n]
      else match (s.inbox.drop (n + 1)).findIdx? fun q => channelOf q.2.type == 0 && q.2.src == k.src && q.2.dst == k.dst with
        | some i => (requestRun m s (n + 1 + i)).map (n :: ·)
        | none => none
/-- Serve the packets of one request together, in order: no other party's operation falls between them (R227). -/
def onRun (s : State) (n type : Nat) (serve : State → Packet → Option State) (wait : State → Packet → State := fun s _ => s) : Out :=
  match takePacket s n (· == type), requestRun 64 s n with
  | some (_, k), some (_ :: later) =>
    if k.dst ≠ devNum s then onPacket s n (· == type) serve
    else
      let rest := (n :: later).reverse.foldl (fun s i => { s with inbox := s.inbox.eraseIdx i }) s
      .next (((k :: later.filterMap fun i => (s.inbox[i]?).map (·.2)).foldl (fun (t : Option State) q => t.bind (serve · q)) (some rest)).getD (wait s k))
  | some (_, k), _ => if k.dst ≠ devNum s then onPacket s n (· == type) serve else .next s
  | none, _ => .next s
/-- REMOTE_ATOMIC: the operation at the home slice, and the old value back. -/
def execRemoteAtomic (n : Nat) (s : State) : Out :=
  onRun s n 2 fun s k =>
    let (op, e, _, low, v, c) := opOf k.body
    serve s k low (max 1 e) fun _ a =>
      if pteHeld s [a / 128] then none
      else if poisoned s a then some (sendAnswer s (errorTo k 6))
      else
        let old := leVal (physRead s 0 a e)
        let s := physWrite s 0 (cellsAt a (leOut e (atomicVal op e old (v % 2 ^ (8 * e)) (c % 2 ^ (8 * e)))))
        some (sendAnswer (accepted s 0 ((List.range e).map (a + ·)) false) (answerTo k 8 0 (leOut 8 old)))
/-- REMOTE_REDUCTION: red, or red.det with its exact sum, which may have to wait for an entry (R433). -/
def execRemoteReduction (n : Nat) (s : State) : Out :=
  onRun s n 3 (wait := fun s k =>
    let (op, e, det, low, _, _) := opOf k.body
    match target s k low (max 1 e) with
    | .inr (p, a) => if det % 2 = 1 ∧ 10 ≤ op ∧ op ≤ 12 ∧ !pteHeld s [a / 128] then setPreg s p 0x21E (preg s p 0x21E ||| 1) else s
    | .inl _ => s) fun s k =>
    let (op, e, det, low, v, c) := opOf k.body
    serve s k low (max 1 e) fun p a =>
      let done := fun (s : State) => some (sendAnswer (accepted s 0 ((List.range e).map (a + ·)) false) (answerTo k 7 0 (leOut 4 0)))
      if pteHeld s [a / 128] then none
      else if det % 2 = 1 ∧ 10 ≤ op ∧ op ≤ 12 then (detAdd s p 0 a (op - 10) (v % 2 ^ (8 * e))).bind done
      else
        let old := leVal (physRead s 0 a e)
        done (physWrite s 0 (cellsAt a (leOut e (atomicVal op e old (v % 2 ^ (8 * e)) (c % 2 ^ (8 * e))))))
/-- The stamp of the release that a beacon's record carries (R140): from this device, that of the instruction that sent it. DESIGN CHOICE
(log 92): a packet has no stamp, so one from another device carries the clock's value on arrival at system scope, and none below it. -/
def beaconStamp (s : State) (k : Packet) (r : TaskRec) : Nat :=
  if k.src = devNum s then ((kfind s.remotes k.tag).map (·.release)).getD 0 else if r.scope = 2 then stampNow s else 0
/-- BEACON (R303): each record enters a bin or ring of the node's home die, or is refused; the answers name both by mask.
The packet waits while the page of a node it must read migrates. -/
def execBeacon (n : Nat) (s : State) : Out :=
  onPacket s n (· == 4) fun s k =>
    let c := min 4 (beaconCount k)
    match keyPart s k.key with
    | none => some (sendAnswer s (answerTo k 5 3 (leOut 4 (2 ^ c - 1))))
    | some p =>
      let recs := (List.range c).map fun i => beaconOf ((k.body.drop (52 * i)).take 52)
      if recs.any fun r => nodeHeld s (homeDie s p r.node) p r.node then none else
      let (ok, st, s) := (recs.zipIdx).foldl (fun (ok, st, s) (r, i) =>
        let r := { r with stamp := beaconStamp s k r }
        let die := homeDie s p r.node
        match nodeFor s die p r.node with
        | none => (ok, 2, nodeWalk s p die r.node)
        | some d => match placeRec s p die d r with | some s => (ok + 2 ^ i, st, s) | none => (ok, if st = 0 then 1 else st, s)) (0, 0, s)
      let s := if ok = 0 then s else sendAnswer s (answerTo k 7 0 (leOut 4 ok))
      let no := 2 ^ c - 1 - ok
      some (if no = 0 then s else sendAnswer s (answerTo k 5 st (leOut 4 no)))

/-! ## Routes (R448) -/

/-- Refusals held back go out, in their order, once every answer they must follow has come (R304, R448). -/
def releaseBack (s : State) : State :=
  let live := fun (w : Nat × Nat) => if w.1 = devNum s then (kfind s.remotes w.2).isSome else s.mgmt.forwarded.any fun q => q.1 == w.1 && q.2.2.1 == w.2
  let held := s.mgmt.heldBack.map fun q => (q.1, q.2.filter live)
  if held = s.mgmt.heldBack ∧ !held.any (·.2.isEmpty) then s
  else
    let s := { s with mgmt := { s.mgmt with heldBack := held.filter fun q => !q.2.isEmpty } }
    (held.filter (·.2.isEmpty)).foldl (fun s q => sendAnswer s q.1) s
/-- Route writes take effect once every packet sent earlier toward their device, those of other devices sent on here among them, has been
answered. DESIGN CHOICE (log 123): an answer that returns by another way is not seen here, and the write waits on. -/
def settleRoutes (s : State) : State :=
  let s := releaseBack s
  let busy := fun (j : Nat) => s.remotes.any (fun r => r.2.dst == j) || s.mgmt.forwarded.any fun q => q.2.1 == j
  let due := s.mgmt.mrouteLate.filter fun r => !busy r.1
  if due = [] then s
  else { s with mgmt := { s.mgmt with mroute := kputAll s.mgmt.mroute due, mrouteLate := s.mgmt.mrouteLate.filter fun r => busy r.1 } }
/-- MROUTE_WRITE. -/
def execMrouteWrite (j : Nat) (v : Word) (s : State) : Out :=
  .next (if 4096 ≤ j then s
    else settleRoutes { s with mgmt := { s.mgmt with mrouteLate := s.mgmt.mrouteLate.filter (fun r => r.1 != j) ++ [(j, v &&& 0x8F)] } })

/-! ## Answers taken (R402, R447, R449) -/

/-- Change an operation. -/
def modOp (s : State) (id : Nat) (f : Op → Op) : State := { s with ops := s.ops.map fun o => if o.id = id then f o else o }
/-- One byte of a register value. -/
def patchByte (m : KMap Word) (key i : Nat) (b : Byte) : KMap Word :=
  let w := (kget 0 m key).toNat
  kput m key (word (w - w / 256 ^ i % 256 * 256 ^ i + b.toNat * 256 ^ i))
/-- The lanes of a failed read take the data-error trap, cause 0, at the completion point (R402). -/
def failLanes (r : Remote) (o : Op) : Op :=
  let m := maskOf fun l => r.lanes.contains l
  let t : Trap := match o.trap with
    | none => { code := 7, addr := r.va }
    | some t => if t.code = 7 ∧ t.cause = 0 then { t with addr := min t.addr r.va } else t
  { o with failed := o.failed ||| m, ws := o.ws &&& ~~~m, trap := some t }
/-- Whether a returning answer belongs to an operation that reads. -/
def readsBack (o : Op) : Bool := match o.kind with | .atomic ret => ret | .load _ _ => true | .peerWord _ _ => true | _ => false
/-- The answer to a control word's request has come: its instruction finds the value, or takes the data-error trap (R402). -/
def settleWord (s : State) (id : Nat) : State :=
  match s.ops.find? fun o => o.id == id with
  | none => s
  | some o =>
    match o.kind with
    | .peerWord key expect =>
      if o.tags ≠ [] then s
      else
        let s := { s with ops := s.ops.filter fun q => q.id != id }
        match o.trap, envAt s o.group o.entry with
        | _, none => s
        | some t, some _ => raiseAt s o { t with mask := o.lanes, next := o.next }
        | none, some x =>
          let v := (kget 0 o.vwrites 0).toNat + 2 ^ 32 * (kget 0 o.vwrites 1).toNat
          if x.g.gid ≠ o.gid then s else { x with f := { x.f with peer := some ⟨key, v, expect == some v⟩ } }.commit
    | _ => s
/-- An answer reaches the operation that asked. -/
def answerOp (s : State) (id tag : Nat) (r : Remote) (k : Packet) : State :=
  let bad := k.status ≠ 0
  let lost := match s.ops.find? fun o => o.id == id with | some o => bad && !(r.type == 0 || (r.type == 2 && readsBack o)) | none => bad && r.type != 0
  let s := if lost then setFault s r.part 3 else s
  modOp s id fun o =>
    let o := { o with tags := o.tags.filter (· != tag) }
    if lost then o
    else if bad then failLanes r o
    else
      let vw := r.patches.foldl (fun m (off, key, i) => patchByte m key i (k.body.getD off 0)) o.vwrites
      let old := leVal (k.body.take r.fold.2)
      { o with vwrites := r.prior.foldl (fun m (keys, v) =>
          kputAll m (keys.zipIdx.map fun (key, i) => (key, word (atomicVal r.fold.1 r.fold.2 old v 0 / 2 ^ (32 * i))))) vw }
/-- An answer reaches a copy: bytes returned, or its write acknowledged. -/
def answerCopy (s : State) (bid n tag : Nat) (r : Remote) (k : Packet) : State :=
  let bad := k.status ≠ 0
  let s := if bad && r.type != 0 then setFault s r.part 3 else s
  { s with blocks := kmod s.blocks bid fun b => { b with copies := kmod b.copies n fun c =>
      let c := { c with tags := c.tags.filter (· != tag) }
      if r.type ≠ 0 then c
      else if bad then { c with lost := (c.lost ++ r.patches.map fun (p : Nat × Nat × Nat) => p.2.1 / 16).eraseDups }
      else { c with got := r.patches.foldl (fun m (off, key, _) => kput m key (k.body.getD off 0)) c.got } } }
/-- The sector that fragments of a group watch on a peer has come: those whose condition holds go on, and for the others it is asked for again
(R213, R281); a waiter of join gets its continuation frame (R300). After an error they execute their instructions again, whose own read then
meets it (R402). -/
def answerWatch (s : State) (gid : Nat) (r : Remote) (k : Packet) : State :=
  match s.groups.find? fun q => q.2.gid == gid with
  | none => s
  | some (gk, g) =>
    let base := r.dst * 2 ^ 52 + r.pa
    let part := (kget ({} : Block) s.blocks g.block).part
    let mine := fun (f : Frag) => f.wait != .none && f.watch.any fun w => w.tier == 2 && base ≤ w.addr && w.addr < base + 32
    let value := fun (w : Watch) => leAt k.body (w.addr - base) 8
    let hit := fun (f : Frag) => mine f && f.watch.any fun w => match f.wait with
      | .mbar => value w / 2 ^ 63 != w.want
      | .cwait => w.want ≤ value w
      | _ => false
    let joined := (groupFrags g).filter fun f => mine f && f.wait == .join && f.watch.any fun w => value w == 0
    let marks := fun (w : Watch) => marksAt s.marks ((List.range 8).map fun i => tkey 2 (w.addr + i))
    let change := fun (f : Frag → Frag) (g : Group) => { g with table := kmap (fun _ q => f q) g.table, spill := g.spill.map f }
    if k.status ≠ 0 then { s with groups := kput s.groups gk (change (fun f => if mine f then { f with wait := .none, watch := none } else f) g) }
    else
      let g1 := ((groupFrags g).filter hit).foldl (fun (g : Group) f => match f.watch with
        | some w => acquireAll gk 3 (marks w) (noteMet f.exec (marks w) g)
        | none => g) g
      let s1 := l1Acquires { s with groups := kput s.groups gk (change (fun f => if hit f then resume s.clock f else f) g1) } [gk]
      let s2 := joined.foldl (fun s f => match f.watch with | some w => contFrame s gk 2 w.addr part (joinStamp (marks w)) | none => s) s1
      match ((groupFrags g).filter fun f => mine f && !hit f && !joined.contains f).filterMap (·.watch) with
      | w :: _ => askAgain s2 gid part r.dst (w.addr % 2 ^ 52) w.va
      | [] => s2
/-- An answer reaches a migration: a sector of its source goes to the destination; poison marks its block, and any other
error fails the transfer (R410). -/
def answerMig (s : State) (id : Nat) (r : Remote) (k : Packet) : State :=
  let upd := fun (s : State) (f : Migration → Migration) => { s with migrations := s.migrations.map fun m => if m.id = id then f m else m }
  match s.migrations.find? fun m => m.id == id with
  | none => s
  | some m =>
    if k.status ≠ 0 ∧ ¬(r.type = 0 ∧ k.status = 6) then upd s fun m => { m with bad := true }
    else if r.type ≠ 0 then s
    else
      let off := r.pa % 65536
      let s := if k.status = 6 then upd s fun m => { m with poisoned := (m.poisoned ++ [off / 64]).eraseDups } else s
      let bytes := (k.body ++ List.replicate 32 0).take 32
      let (u, d) := pageAt s m.part m.new m.host off
      if u = 2 then (if k.status = 6 then putPoison s { type := 1, dst := pPlace m.new, part := m.part, mig := some id, pa := d }
        else putSector s { type := 1, dst := pPlace m.new, part := m.part, mig := some id, pa := d } (cellsAt d bytes)).2
      else engineBytes s u (cellsAt d bytes)
/-- A fetch block reaches the group that asked for it, and its core's instruction cache; an error leaves no bytes (R146, R231). -/
def answerCode (s : State) (g key : Nat) (r : Remote) (k : Packet) : State :=
  match kfind s.groups g with
  | none => s
  | some x =>
    if (kget ({} : Block) s.blocks x.block).part ≠ r.part then s
    else if k.status = 0 then holdBlock s g r.part key ((k.body ++ List.replicate 32 0).take 32)
    else { s with groups := kput s.groups g { x with fetched := kput x.fetched key [] } }
/-- Take an answer with its tag: the request is over, and its asker hears. -/
def takeAnswer (s : State) (k : Packet) : State :=
  match kfind s.remotes k.tag with
  | none => s
  | some r =>
    if r.type = 4 then
      let m := leAt k.body 0 4 % 16
      let seen := r.answered ||| m
      let left := 2 ^ r.lanes.length - 1 - seen % 2 ^ r.lanes.length
      let ls := maskOf fun l => r.lanes.zipIdx.any fun (x, i) => x == l && bitOf m i
      let s := { s with remotes := if left = 0 then kdel s.remotes k.tag else kput s.remotes k.tag { r with answered := seen } }
      match r.op with
      | some id => settleRoutes (modOp s id fun o =>
          let o := { o with sent := o.sent &&& ~~~ls, tags := if left = 0 then o.tags.filter (· != k.tag) else o.tags }
          if k.type = 7 then { o with accepted := o.accepted ||| ls } else { o with refused := o.refused ||| ls })
      | none => settleRoutes s
    else if k.type ≠ (if r.type = 0 then 6 else if r.type = 2 then 8 else 7) then s
    else
      let s := { s with remotes := kdel s.remotes k.tag }
      settleRoutes (match r.watch with | some gid => answerWatch s gid r k | none => match r.op, r.copy, r.mig, r.code with
        | some id, _, _, _ => settleWord (answerOp s id k.tag r k) id
        | _, some (b, n), _, _ => answerCopy s b n k.tag r k
        | _, _, some id, _ => answerMig s id r k
        | _, _, _, some (g, key) => answerCode s g key r k
        | _, _, _, _ => if k.status ≠ 0 ∧ r.type ≠ 0 then setFault s r.part 3 else s)
/-- REFUSAL: the beacons its mask names were refused. -/
def execRefusal (n : Nat) (s : State) : Out := onPacket s n (· == 5) fun s k => some (takeAnswer s k)
/-- READ_RESPONSE. -/
def execReadResponse (n : Nat) (s : State) : Out := onPacket s n (· == 6) fun s k => some (takeAnswer s k)
/-- ACKNOWLEDGEMENT (R449). -/
def execAcknowledgement (n : Nat) (s : State) : Out := onPacket s n (· == 7) fun s k => some (takeAnswer s k)
/-- ATOMIC_RESPONSE. -/
def execAtomicResponse (n : Nat) (s : State) : Out := onPacket s n (· == 8) fun s k => some (takeAnswer s k)
def modPort (s : State) (p : Nat) (f : Port → Port) : State := { s with ports := kput s.ports p (f (kget {} s.ports p)) }
/-- RESERVED_PACKET: dropped, and counted in the error counter of the port it came by. -/
def execReservedPacket (n : Nat) (s : State) : Out :=
  .next (match takePacket s n fun t => 9 ≤ t with
    | none => s
    | some (p, _) =>
      let s := { s with inbox := s.inbox.eraseIdx n }
      if p < 16 then modPort s p fun q => { q with dropped := min 255 (q.dropped + 1) } else s)

/-! ## Packets and flits as bytes (R444, R447) -/

/-- Bytes of a packet's body, from its type and field. -/
def bodyLen (t field : Nat) : Nat :=
  match t with | 1 => 36 | 2 => 20 | 3 => 20 | 4 => 52 * min 4 (field % 256) | 5 => 4 | 6 => 32 | 7 => 4 | 8 => 8 | _ => 0
def packetBytes (k : Packet) : List Byte :=
  leOut 4 (k.type + 16 * k.src + 65536 * k.dst + 2 ^ 28 * k.status) ++ leOut 4 k.key.toNat ++ leOut 2 k.tag ++ leOut 6 k.field ++
  (k.body ++ List.replicate (bodyLen k.type k.field) 0).take (bodyLen k.type k.field)
def headerOf (b : List Byte) : Packet :=
  let w := leAt b 0 4
  { type := bits w 3 0, src := bits w 15 4, dst := bits w 27 16, status := bits w 31 28, key := word (leAt b 4 4), tag := leAt b 8 2, field := leAt b 10 6 }
/-- Whole packets at the front of a channel's bytes, and what is left. A rest of zeros is padding. -/
def parsePackets : Nat → List Byte → List Packet × List Byte
  | 0, b => ([], b)
  | n + 1, b =>
    if b.all (· == 0) then ([], [])
    else if b.length < 16 then ([], b)
    else
      let h := headerOf b
      let l := 16 + bodyLen h.type h.field
      if b.length < l then ([], b)
      else
        let (ks, rest) := parsePackets n (b.drop l)
        ({ h with body := (b.drop 16).take (l - 16) } :: ks, rest)
/-- CRC-32C over bytes (R444): reflected, polynomial 0x82F63B78. -/
def crcBit : Nat → Nat → Nat
  | 0, c => c
  | n + 1, c => crcBit n (if c % 2 = 1 then (c / 2) ^^^ 0x82F63B78 else c / 2)
def crc32c (b : List Byte) : Nat := b.foldl (fun c x => crcBit 8 (c ^^^ x.toNat)) 0xFFFFFFFF ^^^ 0xFFFFFFFF
/-- A flit of a port: packet bytes of one channel, credits returned, its sequence and the acknowledgement. -/
def flitBytes (vc seq : Nat) (idle nak : Bool) (ack : Nat) (credit data : List Byte) : List Byte :=
  let b := (data ++ List.replicate 116 0).take 116 ++ (credit ++ List.replicate 4 0).take 4 ++
    leOut 2 (seq % 4096 + 4096 * (vc % 4) + 32768 * b2n idle) ++ leOut 2 (ack % 4096 + 32768 * b2n nak)
  b ++ leOut 4 (crc32c b)

/-! ## Sending (R445) -/

/-- A flit without packet bytes, which returns a nak or credits that no packet carries; it stands in the sequence (log 58). -/
def idleFlit (q : Port) : Port :=
  if 256 ≤ q.unacked.length || !(q.nakOwed || q.owedCredits.any (0 < ·.2)) then q
  else
    let credit := (List.range 4).map fun c => BitVec.ofNat 8 (min 255 (kget 0 q.owedCredits c))
    { q with
      txSeq := (q.txSeq + 1) % 4096, unacked := q.unacked ++ [(q.txSeq, flitBytes 0 q.txSeq true q.nakOwed q.rxSeq credit [])]
      nakOwed := false, owedCredits := kmap (fun _ c => c - min 255 c) q.owedCredits }
/-- A port that is closing sends no further flit (R446). -/
def Port.mute (q : Port) : Bool := q.state != .up || q.closing
/-- Packets queued at a port leave as flits while their channel has credits and fewer than 256 flits await acknowledgement; what it
still owes after them leaves in a flit of its own. -/
def sendFlits : Nat → State → Nat → State
  | 0, s, _ => s
  | n + 1, s, p =>
    let q := kget ({} : Port) s.ports p
    if q.mute then s
    else match q.outq.findIdx? fun k =>
        let need := (16 + bodyLen k.type k.field + 115) / 116
        need ≤ kget 0 q.credits (channelOf k.type) && q.unacked.length + need ≤ 256 &&
        !((q.outq.takeWhile (· != k)).any fun j => channelOf j.type == channelOf k.type) with
      | none => { s with ports := kput s.ports p (idleFlit q) }
      | some i =>
        let k := q.outq.getD i { type := 15, src := 0, dst := 0 }
        let bytes := packetBytes k
        let need := (bytes.length + 115) / 116
        let vc := channelOf k.type
        let credit := (List.range 4).map fun c => BitVec.ofNat 8 (min 255 (kget 0 q.owedCredits c))
        let fl := (List.range need).map fun j =>
          ((q.txSeq + j) % 4096, flitBytes vc (q.txSeq + j) false (q.nakOwed && j == 0) q.rxSeq (if j = 0 then credit else []) (bytes.drop (116 * j)))
        sendFlits n { s with ports := kput s.ports p { q with
          outq := q.outq.eraseIdx i, txSeq := (q.txSeq + need) % 4096, unacked := q.unacked ++ fl, nakOwed := false
          credits := kput q.credits vc (kget 0 q.credits vc - need), owedCredits := kmap (fun _ c => c - min 255 c) q.owedCredits } } p
/-- Every port sends what it can. -/
def transmit (s : State) : State := (List.range 16).foldl (fun s p => sendFlits 64 s p) s
/-- Flits acknowledged up to a sequence number leave the replay store. -/
def ackTo (q : Port) (ack : Nat) : Port :=
  match q.unacked.findIdx? fun f => f.1 == ack with
  | some i => { q with unacked := q.unacked.drop (i + 1), replays := 0 }
  | none => q
/-- Take a port down: requests still queued are answered here (R448). -/
def portDown (s : State) (p : Nat) : State :=
  let q := kget ({} : Port) s.ports p
  let s := modPort s p fun q => { q with state := .down, closing := false, outq := [] }
  q.outq.foldl (fun s k => if k.type ≤ 4 then refusePacket s k else s) s
/-- A port that is closing goes down with its last acknowledgement (R446); its sequences begin again. -/
def closeIfDone (s : State) (p : Nat) : State :=
  let q := kget ({} : Port) s.ports p
  if q.closing && q.unacked == [] then
    modPort (portDown s p) p fun q => { q with txSeq := 0, rxSeq := 4095, replays := 0, nakOwed := false, credits := [], owedCredits := [], rxBytes := [], peer := 0 }
  else s
/-- A nak (R445): flits from the one after `ack` are replayed, or after eight replays of one flit the port retrains. -/
def nakReplay (s : State) (p ack : Nat) : State :=
  let s := modPort s p fun q => ackTo q ack
  let q := kget ({} : Port) s.ports p
  if q.unacked = [] then s
  else if q.replays = 8 then
    modPort s p fun q => { q with state := .training, replays := 0, retrains := min 255 (q.retrains + 1) }
  else modPort s p fun q => { q with replays := q.replays + 1, replayed := min 65535 (q.replayed + q.unacked.length) }
/-- LINK_NAK_REPLAY. -/
def execLinkNakReplay (port ack : Nat) (s : State) : Out :=
  .next (if (kget ({} : Port) s.ports port).state = .up then closeIfDone (nakReplay s port ack) port else s)

/-! ## Receiving (R445) -/

/-- FLIT: a flit with a good CRC and in sequence is accepted with its acknowledgement or nak, its credits and packets; any other is discarded
whole, with a nak owed. -/
def execFlit (port : Nat) (bytes : List (BitVec 8)) (s : State) : Out :=
  .next (let q := kget ({} : Port) s.ports port
    if 16 ≤ port ∨ q.state ≠ .up ∨ bytes.length ≠ 128 then s
    else if crc32c (bytes.take 124) ≠ leAt bytes 124 4 then modPort s port fun q => { q with nakOwed := true }
    else
      let w := leAt bytes 120 2
      let a := leAt bytes 122 2
      if w % 4096 ≠ (q.rxSeq + 1) % 4096 then modPort s port fun q => { q with nakOwed := true }
      else
        let s := if bitOf a 15 then nakReplay s port (a % 4096) else modPort s port fun q => ackTo q (a % 4096)
        let s :=
          let vc := bits w 13 12
          let idle := bitOf w 15
          let (ks, rest) := if idle then ([], kget ([] : List Byte) q.rxBytes vc) else parsePackets 8 (kget [] q.rxBytes vc ++ bytes.take 116)
          let s := modPort s port fun q => { q with
            rxSeq := w % 4096, rxBytes := kput q.rxBytes vc rest
            credits := (List.range 4).foldl (fun m c => kput m c (kget 0 m c + leAt bytes (116 + c) 1)) q.credits
            owedCredits := if idle then q.owedCredits else kput q.owedCredits vc (kget 0 q.owedCredits vc + 1) }
          { s with inbox := s.inbox ++ ks.map fun k => (port, k) }
        closeIfDone s port)

/-! ## Ports (R446) -/

/-- The configuration record disables a port. -/
def portOff (s : State) (p : Nat) : Bool := 16 ≤ p || bitOf s.mgmt.config.ports p
/-- PORT_ENABLE. -/
def execPortEnable (port : Nat) (s : State) : Out :=
  .next (if portOff s port || (kget ({} : Port) s.ports port).enable then s else modPort s port fun q => { q with enable := true, closing := false, state := if q.state = .up then .up else .training })
/-- PORT_RETRAIN: a port that is down with enable set trains again. -/
def execPortRetrain (port : Nat) (s : State) : Out :=
  .next (let q := kget ({} : Port) s.ports port
    if portOff s port || !q.enable || q.state != .down then s else modPort s port fun q => { q with state := .training })
/-- PORT_DISABLE: down once every flit sent has been acknowledged; packets that have not left are then answered as unreachable (R448). -/
def execPortDisable (port : Nat) (s : State) : Out :=
  .next (let q := kget ({} : Port) s.ports port
    if portOff s port || !q.enable then s else closeIfDone (modPort s port fun q => { q with enable := false, closing := true }) port)
/-- LINK_TRAINING_DONE: the port is up, with its peer's number; unacknowledged flits are replayed, and a fresh link begins with
its first credits. -/
def execLinkTrainingDone (port peer : Nat) (s : State) : Out :=
  .next (if (kget ({} : Port) s.ports port).state ≠ .training then s
    else modPort s port fun q => { q with
      state := .up, peer := peer % 4096, replayed := min 65535 (q.replayed + q.unacked.length)
      credits := if q.credits = [] then (List.range 4).foldl (fun m c => kput m c Config.linkCredits) [] else q.credits })
/-- LINK_TRAINING_FAIL: the port is down, with enable still set. -/
def execLinkTrainingFail (port : Nat) (s : State) : Out :=
  .next (if (kget ({} : Port) s.ports port).state ≠ .training then s else portDown s port)
/-- mport as a read returns it. -/
def mport (s : State) (p : Nat) : Word :=
  let q := kget ({} : Port) s.ports p
  word (b2n q.enable + 4 * (match q.state with | .down => 0 | .training => 1 | .up => 2) + 16 * b2n (portOff s p) +
    (if q.state = .up then 65536 * q.peer else 0))
/-- A write to mport. -/
def writeMport (s : State) (p : Nat) (v : Word) : State :=
  let out := fun (o : Out) => match o with | .next t => t | _ => s
  if !bitOf v.toNat 0 then out (execPortDisable p s)
  else if (kget ({} : Port) s.ports p).enable then (if bitOf v.toNat 1 then out (execPortRetrain p s) else s)
  else out (execPortEnable p s)
/-- mperr, and a write of ones to it. -/
def mperr (s : State) (p : Nat) : Word := let q := kget ({} : Port) s.ports p; word (q.replayed + 65536 * q.retrains + 2 ^ 24 * q.dropped)
def clearMperr (s : State) (p : Nat) (v : Word) : State :=
  let w := mperr s p &&& ~~~v
  modPort s p fun q => { q with replayed := wbits w 15 0, retrains := wbits w 23 16, dropped := wbits w 31 24 }

end Sys2Proof.Machine
end

