-- ==== Sys2Proof/Machine/Partitions.lean ====
section
/-!
DEFINITION. Partition states and the ownership of queues, slices, descriptors, core pairs and frames (R442, R443).
-/
namespace Sys2Proof.Machine

/-! ## States (R443) -/

def partAt (s : State) (p : Nat) : Partition := kget {} s.parts p
/-- Active or draining. -/
def partBusy (s : State) (p : Nat) : Bool := let t := (partAt s p).state; t == .active || t == .draining
/-- A write to mpstate that the table does not allow: result 1. -/
def refuseState (s : State) (p : Nat) : State := modPart s p fun q => { q with result := 1 }
/-- Reset values of a partition's interleave descriptors: both copies as the configuration record gives them (R425). -/
def resetDomains (s : State) (p : Nat) : State :=
  let ds := ownDescs s p
  let keep := fun (m : KMap Word) => m.filter (fun x => !ds.contains (x.1 / 16))
  let back := s.mgmt.config.domains.filter fun x => ds.contains (x.1 / 16)
  { s with mgmt := { s.mgmt with domStaged := kputAll (keep s.mgmt.domStaged) back, domActive := kputAll (keep s.mgmt.domActive) back } }
/-- PARTITION_CONFIGURE. -/
def execPartitionConfigure (p : Nat) (s : State) : Out :=
  .next (if 64 ≤ p then s
    else if (partAt s p).state = .absent then
      resetDomains (modPart s p fun q => { state := .configuring, key := q.key, port := q.port }) p
    else refuseState s p)
/-- PARTITION_ABANDON. -/
def execPartitionAbandon (p : Nat) (s : State) : Out :=
  .next (if 64 ≤ p then s
    else if (partAt s p).state = .configuring then modPart s p fun q => { q with state := .absent, result := 0 } else refuseState s p)
/-- A partition holds a core pair. -/
def holdsPair (s : State) (p : Nat) : Bool := (List.range 256).any fun i => bitOf (kget 0 s.mgmt.mcpair i) p
/-- PARTITION_ACTIVATE. -/
def execPartitionActivate (p : Nat) (s : State) : Out :=
  .next (if 64 ≤ p then s
    else
      let q := partAt s p
      let unique := s.parts.all fun x => x.1 == p || !(x.2.state == .configuring || x.2.state == .active) || x.2.key != q.key
      if q.state = .configuring ∧ q.key ≠ 0 ∧ unique ∧ holdsPair s p then modPart s p fun q => { q with state := .active, result := 0 }
      else refuseState s p)
/-- Saved blocks of a partition are gone with their save slots, then their clusters end. -/
def discardSaved (s : State) (p : Nat) : State :=
  let gone := s.saved.filterMap fun x => if x.2.block.part = p then some x.2.block else none
  let s := freeSaveSlots { s with saved := s.saved.filter fun x => x.2.block.part != p } p (gone.flatMap fun b => b.slot.toList ++ b.resumeSlot.toList)
  (gone.map (·.cluster)).eraseDups.foldl clusterEnd s
/-- Discard what a partition holds outside its blocks (R290, R443): waiting work, saved blocks, bins, rings, frames, cairns, TLB entries.
The hardware bins it leaves free go to the nodes that have waited longest. -/
def discardWork (s : State) (p : Nat) : State :=
  let s := { s with launches := kmap (fun _ l => if lPart l.bytes = p then { l with killed := true } else l) s.launches }
  let s := { s with
    dies := kmap (fun _ d => { d with
      waiting := d.waiting.filter fun w => w.part s != p
      reservation := d.reservation.bind fun r => if r.work.part s = p then none else some r
      claims := d.claims.filter fun c => c.work.part s != p
      bins := d.bins.filter fun b => b.1 / 65536 != p }) s.dies }
  let s := (List.range 8).foldl (fun s d => assignBins 512 s d) (discardSaved s p)
  let s := { s with
    cores := kmap (fun _ c => { c with
      quarry := c.quarry.filter fun f => f.part != p
      ringHead := kdel c.ringHead p, ringTail := kdel c.ringTail p, ringStamps := kdel c.ringStamps p, ringKept := kdel c.ringKept p
      steal := c.steal.bind fun t => if t.frame.part = p then none else some t }) s.cores
    queues := kmap (fun i q => if qOwner s i = p then { q with taskRetry := false, held := [] } else q) s.queues }
  let hs := s.slices.flatMap fun x => x.2.cairns.filterMap fun c => if c.2.part = p then some (64 * x.1 + c.1) else none
  let s := hs.foldl (fun s h => match cairnAt s h with | some c => freeEntryOf s h c | none => s) s
  dropTlb s p
/-- PARTITION_DRAIN: every block ends as by kill, and its work is discarded. -/
def execPartitionDrain (p : Nat) (s : State) : Out :=
  .next (if 64 ≤ p then s
    else if (partAt s p).state = .active then
      let s := modPart s p fun q => { q with state := .draining, result := 2 }
      let bs := s.blocks.filterMap fun x => if x.2.part = p then some x.1 else none
      discardWork (bs.foldl (fun s b => killBlock s b 0 0) s) p
    else refuseState s p)
/-- PARTITION_DRAINED: every block has ended, every launch has been reported and every outgoing packet answered. -/
def execPartitionDrained (p : Nat) (s : State) : Out :=
  .next (if (partAt s p).state = .draining ∧ !(s.blocks.any fun x => x.2.part == p) ∧ !(s.launches.any fun x => lPart x.2.bytes == p) ∧
      !(s.remotes.any fun r => r.2.part == p) then modPart s p fun q => { q with state := .absent, result := 0 }
    else s)

/-! ## Ownership (R442) -/

/-- An ownership write was ignored. -/
def ignored (s : State) : State := { s with mgmt := { s.mgmt with pf := kput s.mgmt.pf 0x14 (kget 0 s.mgmt.pf 0x14 ||| 1) } }
/-- One owner byte changes, unless the old or the new owner is active or draining. -/
def ownerWrite (s : State) (old new : Nat) (put : Module → Module) : State :=
  if old = new then s else if partBusy s old || partBusy s new then ignored s else { s with mgmt := put s.mgmt }
def writeQueueOwner (s : State) (q v : Nat) : State := ownerWrite s (qOwner s q) v fun m => { m with qown := kput m.qown q v }
/-- A slice that the configuration record disables has no owner, and so is no home (R459). -/
def writeSliceOwner (s : State) (n v : Nat) : State := if bitOf s.mgmt.config.slices n then s else ownerWrite s (kget 255 s.mgmt.sown n) v fun m => { m with sown := kput m.sown n v }
def writeDescOwner (s : State) (d v : Nat) : State := ownerWrite s (dOwner s d) v fun m => { m with down := kput m.down d v }
/-- One word of a core pair's mask; a pair that the part does not have ignores writes. -/
def writePair (s : State) (i half : Nat) (v : Word) : State :=
  if pairsOn s.mgmt.config (i / 32) ≤ i % 32 then s
  else
    let old := kget 0 s.mgmt.mcpair i
    let new := if half = 0 then old / 2 ^ 32 * 2 ^ 32 + v.toNat else old % 2 ^ 32 + 2 ^ 32 * v.toNat
    if old = new then s
    else if (List.range 64).any fun p => bitOf old p != bitOf new p && partBusy s p then ignored s
    else { s with mgmt := { s.mgmt with mcpair := kput s.mgmt.mcpair i new } }
/-- The frames named by mfbase and mfcount. -/
def namedFrames (s : State) : Nat × Nat :=
  ((kget 0 s.mgmt.pf 0x18).toNat + 2 ^ 32 * wbits (kget 0 s.mgmt.pf 0x1C) 3 0, (kget 0 s.mgmt.pf 0x20).toNat)
/-- Give frames of the package's HBM to an owner. -/
def giveFrames : Nat → State → Nat → Nat → State
  | 0, s, _, _ => s
  | n + 1, s, f, v =>
    giveFrames n (if f < hbmFrames s.mgmt.config then { s with mgmt := { s.mgmt with fowner := kput s.mgmt.fowner f v } } else s) (f + 1) v
/-- FRAME_OWNERSHIP_GO. -/
def execFrameOwnershipGo (v : Word) (s : State) : Out :=
  .next (if s.mgmt.scrub.isSome ∨ !bitOf v.toNat 9 then s
    else
      let (f, n) := namedFrames s
      let w := wbits v 7 0
      let ctl := fun (s : State) (x : Word) => { s with mgmt := { s.mgmt with pf := kput s.mgmt.pf 0x24 ((v &&& 0x1FF) ||| x) } }
      if (s.parts.any fun x => partBusy s x.1 && s.mgmt.fowner.any fun o => f ≤ o.1 && o.1 < f + n && o.2 == x.1) then ignored (ctl s 0x20000)
      else if partBusy s w then ignored (ctl s 0)
      else if bitOf v.toNat 8 then let s := ctl s 0; { s with mgmt := { s.mgmt with scrub := some (f, n, w) } }
      else giveFrames n (ctl s 0) f w)
/-- FRAME_SCRUB_DONE: every byte of the frames is zero, and the new owner stands. -/
def execFrameScrubDone (s : State) : Out :=
  .next (match s.mgmt.scrub with
    | none => s
    | some (f, n, w) =>
      let hit := fun (a : Nat) => 65536 * f ≤ a && a < 65536 * (f + n)
      let s := { s with
        mem := s.mem.filter (fun c => !hit c.1), poison := s.poison.filter (fun b => !hit (64 * b)), badBlocks := s.badBlocks.filter (fun b => !hit (64 * b))
        marks := s.marks.filter (fun m => !hit m.1), past := s.past.filter (fun m => !hit m.1), slices := kmap (fun _ sl => { sl with sums := sl.sums.filter fun x => !hit x.1 }) s.slices
        mgmt := { s.mgmt with scrub := none } }
      giveFrames n s f w)

end Sys2Proof.Machine
end

