-- ==== Sys2Proof/Machine/Boot.lean ====
section
/-!
DEFINITION. Module reset, firmware images and configuration records, recovery, attestation, the power governor and thermal limits
(R452 to R463).
-/
namespace Sys2Proof.Machine

/-! ## Images and records (R453, R454, R459) -/

/-- Bytes of a list from one place, `n` of them. -/
def slice (b : List Byte) (lo n : Nat) : List Byte := (b.drop lo).take n
/-- A stretch of bytes is zero. -/
def zerosAt (b : List Byte) (lo n : Nat) : Bool := (slice b lo n).all (· == 0)
def imgSvn (b : List Byte) : Nat := leAt b 8 4
/-- The boot ROM accepts an image (R454). -/
def imageOk (m : Module) (b : List Byte) : Bool :=
  let len := leAt b 4 4
  8192 ≤ b.length && len ≤ 2 ^ 24 - 8192 && b.length == 8192 + len && m.storageOk &&
  Config.sha256 (slice b 48 32) == Config.fusedKeyHash && Config.slhDsaVerify (slice b 48 32) (slice b 0 336) (slice b 336 7856) &&
  Config.sha256 (b.drop 8192) == slice b 16 32 && zerosAt b 80 256 && m.minsvn ≤ imgSvn b
def recSvn (b : List Byte) : Nat := leAt b 4 4
/-- The core masks of a record: bits 66 to 71 zero, whole pairs, and 1 to 32 of them enabled on each die. -/
def coresOk (b : List Byte) : Bool :=
  (List.range 8).all fun d =>
    let v := leAt b (32 + 9 * d) 9
    v < 2 ^ 66 && (List.range 33).all (fun i => bitOf v (2 * i) == bitOf v (2 * i + 1)) && 1 ≤ pairsIn 33 v && pairsIn 33 v ≤ 32
/-- The boot ROM accepts a configuration record (R459). -/
def recordOk (m : Module) (b : List Byte) : Bool :=
  b.length == 10496 && m.storageOk && leAt b 0 4 == 1 && Config.slhDsaVerify Config.signingKey (slice b 0 2640) (slice b 2640 7856) &&
  m.minsvn ≤ recSvn b && slice b 24 8 == Config.fusedSerial && coresOk b && leAt b 186 1 < 2 && leAt b 187 1 == 0 &&
  leAt b 190 2 ≤ 3000 && zerosAt b 194 6 && zerosAt b 2296 344 && Config.unitsGood b
/-- The fields of a record; reserved bits of its domain registers, and sdctl, which resets to 0, are not taken from it (R6, R425, R459). -/
def recordOf (b : List Byte) : Record :=
  { version := leAt b 0 4, svn := recSvn b, ordering := slice b 8 16, cores := (List.range 8).map fun d => leAt b (32 + 9 * d) 9, slices := leAt b 104 32
    channels := (List.range 12).map fun k => leAt b (136 + 4 * k) 4, ports := leAt b 184 2, host1 := leAt b 186 1 == 1
    devnum := leAt b 188 2 % 4096, fmax := leAt b 190 2, plimit := leAt b 192 2, locals := (List.range 12).map fun k => leAt b (200 + 4 * k) 4
    domains := (List.range 512).filterMap fun i => let w := word (leAt b (248 + 4 * i) 4) &&& (if i % 16 = 5 then 0 else domKeep (i % 16)); if w = 0 then none else some (i, w) }
/-- The better of two slots: the larger security version among those accepted, A on a tie. -/
def better (okA okB : Bool) (svnA svnB : Nat) (a b : List Byte) : Option (List Byte) :=
  match okA, okB with
  | true, true => some (if svnA < svnB then b else a)
  | true, false => some a
  | false, true => some b
  | false, false => none
/-- The image the boot ROM boots. -/
def bootImage (m : Module) : Option (List Byte) := better (imageOk m m.imageA) (imageOk m m.imageB) (imgSvn m.imageA) (imgSvn m.imageB) m.imageA m.imageB
/-- The record it applies (R457). -/
def bootRecord (m : Module) : Option (List Byte) := better (recordOk m m.configA) (recordOk m m.configB) (recSvn m.configA) (recSvn m.configB) m.configA m.configB

/-! ## Module reset (R452) -/

/-- What survives a reset: flash, with its replay-protected storage. -/
def flashOf (m : Module) : Module :=
  { imageA := m.imageA, imageB := m.imageB, configA := m.configA, configB := m.configB, minsvn := m.minsvn, storageOk := m.storageOk, certificate := m.certificate }
/-- The machine with nothing in it but the management state given; the host's space, the draws, the turns that are
named and the record of interrupts stay. -/
def emptied_ (s : State) (m : Module) : State := { State.fresh_ m with turns := s.turns, hostMem := s.hostMem, hostPoison := s.hostPoison, free := s.free, fresh := s.fresh, signals := s.signals }
/-- Recovery: host port 0 trains and shows the PF alone (R455); with storage that fails, locked, with a fresh nonce (R456). The islands stay
as their ramp has left them. -/
def recover (s : State) (badOnes : Nat) : State :=
  let m := { flashOf s.mgmt with bootedImage := s.mgmt.bootedImage, islands := s.mgmt.islands, hostUp := true }
  if m.storageOk then emptied_ s { m with boot := .recovery, badStacks := badOnes }
  else emptied_ { s with free := s.free + 1 } { m with boot := .locked, recState := 4, rnonce := leOut 16 (Config.random s.free).toNat }
/-- A reset begins at step 1; `stay` sends the module to recovery whatever it finds (R455). Until step 7 has ended the host ports answer
nothing but Retry Status. -/
def resetModule (s : State) (stay : Bool) : State := emptied_ s { flashOf s.mgmt with boot := .booting 1, entering := stay }
/-- One step of a module reset. -/
def bootStep (s : State) (n : Nat) : State :=
  let m := s.mgmt
  let on := fun (s : State) (m : Module) => { s with mgmt := { m with boot := .booting (n + 1) } }
  match n with
  | 1 =>
    let t := { s with free := s.free + 1 }
    if Config.powerGood s.free then on t { m with islands := resetIslands fullRecord } else emptied_ t { flashOf m with boot := .held, faultPin := true }
  | 2 =>
    let t := { s with free := s.free + 1 }
    if Config.powerGood s.free then on t m else emptied_ t { flashOf m with boot := .held, faultPin := true }
  | 3 => on s m
  | 4 =>
    if m.entering then recover s 0
    else match bootImage m with
      | none => recover s 0
      | some img => on s { m with bootedImage := img }
  | 5 =>
    match bootRecord m with
    | none => recover s 0
    | some rb => on s { m with bootedRecord := rb, config := recordOf rb }
  | 6 =>
    let t := { s with free := s.free + 1 }
    let bad := ((List.range 12).map fun k => if channels m.config k != 0 && !Config.stackTrains s.free k then 2 ^ k else 0).sum
    if bad ≠ 0 then recover t bad else on t m
  | _ =>
    let r := Module.afterReset m m.config
    emptied_ s { r with minsvn := max r.minsvn (leAt m.bootedImage 12 4) }
/-- Steps of a module reset, as many as there are to come up to a count. -/
def bootSteps : Nat → State → State
  | 0, s => s
  | n + 1, s => match s.mgmt.boot with | .booting k => bootSteps n (bootStep s k) | _ => s
/-- MODULE_RESET. -/
def execModuleReset (s : State) : Out := .next (resetModule s false)

/-! ## Recovery (R455 to R457) -/

/-- The kind of the buffer's contents. -/
def mrecKind (m : Module) : Nat := wbits (kget 0 m.pf 0x7000) 17 16
/-- mrec as a read returns it. -/
def mrec (m : Module) : Word := word (2 * m.recState + 16 * m.badStacks + 65536 * mrecKind m)
def inRecovery (m : Module) : Bool := m.boot == .recovery || m.boot == .locked
/-- Bytes of the BAR2 buffer. -/
def buffer (m : Module) (n : Nat) : List Byte := mreads m.bar2 0 n
/-- The buffer's verification ends in a state of mrec: 2 refused, or 3 accepted, with a reset to come. -/
def setRec (s : State) (v : Nat) : State := { s with mgmt := { s.mgmt with recState := v, verifying := none, resetDue := v == 3 } }
/-- The slot a verified unit is written to: one not accepted now, A first; else the smaller security version, B on a tie. True
for A. -/
def slotA (okA okB : Bool) (svnA svnB : Nat) : Bool := if !okA then true else if !okB then false else svnA < svnB
/-- RECOVERY_GO_IMAGE: an accepted image is written to its slot, mrec reads accepted, and the module resets (R455). -/
def execRecoveryGoImage (s : State) : Out :=
  .next (let m := s.mgmt
    if !inRecovery m || m.resetDue || m.boot == .locked then s
    else
      let b := buffer m (8192 + leAt (buffer m 8) 4 4)
      if leAt (buffer m 8) 4 4 ≤ 2 ^ 24 - 8192 ∧ imageOk m b then
        let m := if slotA (imageOk m m.imageA) (imageOk m m.imageB) (imgSvn m.imageA) (imgSvn m.imageB) then { m with imageA := b } else { m with imageB := b }
        setRec { s with mgmt := m } 3
      else setRec s 2)
/-- RECOVERY_GO_RECORD. -/
def execRecoveryGoRecord (s : State) : Out :=
  .next (let m := s.mgmt
    if !inRecovery m || m.resetDue || m.boot == .locked then s
    else
      let b := buffer m 10496
      if recordOk m b then
        let m := if slotA (recordOk m m.configA) (recordOk m m.configB) (recSvn m.configA) (recSvn m.configB) then { m with configA := b } else { m with configB := b }
        setRec { s with mgmt := m } 3
      else setRec s 2)
/-- RECOVERY_GO_TOKEN (R456). -/
def execRecoveryGoToken (s : State) : Out :=
  .next (let m := s.mgmt
    if !inRecovery m || m.resetDue then s
    else
      let b := buffer m 8192
      if Config.sha256 (slice b 32 32) == Config.fusedKeyHash && Config.slhDsaVerify (slice b 32 32) (slice b 0 336) (slice b 336 7856) &&
         slice b 4 8 == Config.fusedSerial && slice b 12 16 == m.rnonce && zerosAt b 64 272 then
        setRec { s with mgmt := { m with minsvn := leAt b 28 4, storageOk := true } } 3
      else setRec { s with free := s.free + 1, mgmt := { m with rnonce := leOut 16 (Config.random s.free).toNat } } 2)
/-- RECOVERY_ENTER: outside recovery, with every partition absent. -/
def execRecoveryEnter (s : State) : Out :=
  .next (if inRecovery s.mgmt || s.parts.any (fun p => p.2.state != .absent) then s else resetModule s true)

/-- What the module does by itself while no clock of its cores runs: the next step of a reset; in recovery, the reset that an accepted buffer
brings, or the verification that a go asks for (R452, R455). -/
def offTurn (s : State) : State :=
  let out := fun (o : Out) => match o with | .next t => t | _ => s
  match s.mgmt.boot with
  | .booting n => bootStep s n
  | _ =>
    if !inRecovery s.mgmt then s
    else if s.mgmt.resetDue then resetModule s false
    else match s.mgmt.verifying with
      | some 0 => out (execRecoveryGoImage s)
      | some 1 => out (execRecoveryGoRecord s)
      | some _ => out (execRecoveryGoToken s)
      | none => s

/-! ## Attestation (R458) -/

/-- Answer a request, which stands in the mailbox: the response, made from the exchange so far, the request and what else it reports; and the
session as the request leaves it. -/
def spdm (s : State) (req : List Byte) (upd : Session → Session) (more : List Byte := []) : Out :=
  .next (if !s.mgmt.hostUp then s
    else
      let q := s.mgmt.spdm
      let r := Config.spdmResponse s.mgmt.identity s.mgmt.certificate q.transcript (req ++ more)
      let q := upd q
      { s with mgmt := { s.mgmt with mailbox := req, spdm := { q with transcript := q.transcript ++ (req ++ more) ++ r, response := r } } })
/-- GET_VERSION begins a new exchange. -/
def execGetVersion (req : List (BitVec 8)) (s : State) : Out := spdm s req fun q => { version := true, transcript := [], response := q.response }
/-- GET_CAPABILITIES. -/
def execGetCapabilities (req : List (BitVec 8)) (s : State) : Out := spdm s req fun q => { q with capabilities := q.version }
/-- NEGOTIATE_ALGORITHMS. -/
def execNegotiateAlgorithms (req : List (BitVec 8)) (s : State) : Out := spdm s req fun q => { q with negotiated := q.capabilities }
/-- GET_DIGESTS. -/
def execGetDigests (req : List (BitVec 8)) (s : State) : Out := spdm s req fun q => q
/-- GET_CERTIFICATE. -/
def execGetCertificate (req : List (BitVec 8)) (s : State) : Out := spdm s req id
/-- CHALLENGE. -/
def execChallenge (req : List (BitVec 8)) (s : State) : Out := spdm s req fun q => { q with response := [] }
/-- The four measurements (R458): boot ROM, the image's header and digest, the configuration record applied, the
stored minimum. -/
def measurements (m : Module) : List (List Byte) :=
  [Config.bootRom, Config.sha256 (m.bootedImage.take 8192), Config.sha256 m.bootedRecord, leOut 4 m.minsvn]
/-- GET_MEASUREMENTS: the measurements are part of what the response is made from. -/
def execGetMeasurements (req : List (BitVec 8)) (s : State) : Out :=
  spdm s req (fun q => q) (measurements s.mgmt).flatten
/-- KEY_EXCHANGE opens a session once algorithms are negotiated. -/
def execKeyExchange (req : List (BitVec 8)) (s : State) : Out :=
  spdm s req fun q => if q.negotiated && q.session.isNone then { q with session := some (leAt req 4 2), finished := false } else q
/-- FINISH. -/
def execFinish (req : List (BitVec 8)) (s : State) : Out :=
  spdm s req fun q => if q.session.isSome && Config.spdmFinishOk q.transcript req then { q with finished := true } else q
/-- END_SESSION. -/
def execEndSession (req : List (BitVec 8)) (s : State) : Out := spdm s req fun q => { q with session := none, finished := false }
/-- IDE_KM: a stream's keys, within a finished session. -/
def execIdeKm (stream : Nat) (data : List (BitVec 8)) (s : State) : Out :=
  .next (if s.mgmt.hostUp && s.mgmt.spdm.session.isSome && s.mgmt.spdm.finished then
      { s with mgmt := { s.mgmt with linkKeys := kput s.mgmt.linkKeys stream data } }
    else s)

/-! ## Power and heat (R460 to R462) -/

def modIsland (s : State) (i : Nat) (f : Island → Island) : State := { s with mgmt := { s.mgmt with islands := kmod s.mgmt.islands i f } }
/-- The samples of the last 1 ms, with a new one: one is taken each 10 µs. -/
def powerWindow (m : Module) (w : Nat) : List Nat := (w :: m.power).take 100
/-- Their average is above plimit. -/
def overPower (m : Module) (ws : List Nat) : Bool := m.config.plimit * ws.length < ws.sum
/-- A clock that the governor may choose for an island, in steps of 25 MHz: never above fmax and never stopped; while the power is over its
limit, or heat holds the island, it is not raised, and over the limit it falls while it can (R7, R461, R462). -/
def clockOk (m : Module) (i : Island) (mhz : Nat) (hot : Bool) : Bool :=
  i.on && mhz ≤ m.config.fmax && (mhz == i.clock || (25 ≤ mhz && (mhz == i.clock + 25 || i.clock == mhz + 25))) &&
  (!hot || mhz < i.clock || (mhz == i.clock && i.clock ≤ 25)) && !(i.cause == 2 && 100 < i.hottest && i.clock < mhz)
/-- GOVERNOR_SAMPLE: the module's power is measured, and a core pair's or an L2's island takes a step (R461). -/
def execGovernorSample (island mhz : Nat) (cause : BitVec 3) (s : State) : Out :=
  .next (match kfind s.mgmt.islands island with
    | some i =>
      let ws := powerWindow s.mgmt (Config.modulePower s.free)
      let t := { s with free := s.free + 1, mgmt := { s.mgmt with power := ws } }
      if island < 264 ∧ clockOk s.mgmt i mhz (overPower s.mgmt ws) then
        modIsland t island fun i => { i with clock := mhz, voltage := Config.voltage mhz % 4096, cause := if i.cause = 2 ∧ 100 < i.hottest then 2 else cause.toNat }
      else t
    | none => s)
/-- A sensor at 115 °C stops every clock: the fault pin is asserted, the links go down and every memory is lost (R462). -/
def shutDown (s : State) : State := emptied_ s { flashOf s.mgmt with boot := .shutdown, faultPin := true }
/-- THERMAL_THROTTLE: at 105 °C the clock falls a step, and goes on falling until the sensor reads 100 °C; it is never stopped. -/
def execThermalThrottle (island temp : Nat) (s : State) : Out :=
  .next (if 115 ≤ temp ∧ (kfind s.mgmt.islands island).isSome then shutDown s
    else modIsland s island fun i =>
      if !i.on then i
      else if 105 ≤ temp ∨ (i.cause = 2 ∧ 100 < temp) then
        let c := if 50 ≤ i.clock then i.clock - 25 else i.clock
        { i with hottest := temp % 256, cause := 2, clock := c, voltage := Config.voltage c % 4096 }
      else { i with hottest := temp, cause := if i.cause = 2 then 0 else i.cause })
/-- THERMAL_SHUTDOWN: at 115 °C. -/
def execThermalShutdown (island temp : Nat) (s : State) : Out :=
  .next (if temp < 115 ∨ (kfind s.mgmt.islands island).isNone then s else shutDown s)

end Sys2Proof.Machine
end

