-- ==== Sys2Proof/Machine/HostPort.lean ====
section
/-!
DEFINITION. What hosts do through their ports: partition windows, the PF window, reads and writes of memory and snoops
(R142, R340, R377, R406, R411, R424, R425, R433, R438 to R442, R446, R455, R460). Addresses of host accesses: below 2⁵² device
memory; to 2⁵⁶ the host's own space; then one window of 8 MiB for each partition and the PF; from 2⁵⁷ the PF's BAR2.
-/
namespace Sys2Proof.Machine

/-! ## A partition's window (R440) -/

/-- Lowest core clock among a partition's core pairs (R460). -/
def sclkmin (s : State) (p : Nat) : Nat :=
  (((List.range 256).filter fun i => bitOf (kget 0 s.mgmt.mcpair i) p).map fun i => (kget ({} : Island) s.mgmt.islands i).clock).foldl
    (fun (m : Option Nat) c => match m with | some b => some (min b c) | none => some c) none |>.getD 0
/-- Writable bits of a window register (R6). -/
def winMask (n : Nat) : Word :=
  match n with
  | 0x20F => 0xF
  | 0x212 => 0x1F
  | 0x215 => 0xF1F
  | 0x21D => 0x1F
  | _ => if n < 0x100 then sysMask n else 0xFFFFFFFF
/-- Registers that hold what is written to them. -/
def plainReg (n : Nat) : Bool := sysReg n || (0x200 ≤ n && n ≤ 0x220 && n != 0x21A && n != 0x21E && n != 0x21F)
/-- A system register through the window. -/
def regRead (s : State) (p n : Nat) : Word :=
  if sysReg n then sysValue s p n
  else if 0x200 ≤ n ∧ n ≤ 0x222 ∧ n ≠ 0x21F then preg s p n
  else if n = 0x223 then (partAt s p).key
  else if n = 0x224 then word (sclkmin s p)
  else if 0x300 ≤ n ∧ n < 0x500 then readDomain s p n
  else 0
/-- The state a step answers, for a meaning that never stops. -/
def outState (s : State) (o : Out) : State := match o with | .next t => t | _ => s
/-- A write to one, in effect at once: it overtakes earlier writes by swrite; stroot's drops the partition's translations. -/
def regWrite (s : State) (p n : Nat) (v : Word) : State :=
  if plainReg n then
    let s := setPreg (modPart s p fun q => { q with late := q.late.filter fun l => l.2.1 != n }) p n (v &&& winMask n)
    if n = 0x20B ∨ n = 0x20C then dropTlb s p else s
  else if n = 0x21A then setPreg s p n (preg s p n &&& ~~~v)
  else if n = 0x21E then setPreg s p n (preg s p n &&& ~~~v)
  else if n = 0x221 then outState s (execHostPreemptionRequest p v s)
  else if 0x300 ≤ n ∧ n < 0x500 then writeDomain s p n v
  else s
/-- A word of the MSI-X table: clearing a vector's mask signals it when it is pending (R438). -/
def writeMsix (s : State) (p i : Nat) (v : Word) : State :=
  let s := modPart s p fun q => { q with msixTable := kput q.msixTable i v }
  let n := i / 4
  if i % 4 = 3 ∧ !v.getLsbD 0 ∧ kget 0 (partAt s p).msixPending n ≠ 0 then
    signal (modPart s p fun q => { q with msixPending := kdel q.msixPending n }) p n
  else s
/-- A word of partition `p`'s window. -/
def windowRead (s : State) (p off : Nat) : Word :=
  if (partAt s p).state = .absent ∨ off % 4 ≠ 0 then 0
  else if off < 0x2000 then regRead s p (off / 4)
  else if 0x100000 ≤ off ∧ off < 0x140000 then let q := (off - 0x100000) / 64; if qOwner s q = p then queueRead s q (off % 64) else 0
  else if 0x200000 ≤ off ∧ off < 0x200200 then let i := (off - 0x200000) / 4; kget (if i % 4 = 3 then 1 else 0) (partAt s p).msixTable i
  else if off = 0x201000 then word ((List.range 32).map fun v => if kget 0 (partAt s p).msixPending v = 0 then 0 else 2 ^ v).sum
  else 0
def windowWrite (s : State) (p off : Nat) (v : Word) : State :=
  if (partAt s p).state = .absent ∨ off % 4 ≠ 0 then s
  else if off < 0x2000 then regWrite s p (off / 4) v
  else if 0x100000 ≤ off ∧ off < 0x140000 then let q := (off - 0x100000) / 64; if qOwner s q = p then queueWrite s q (off % 64) v else s
  else if 0x200000 ≤ off ∧ off < 0x200200 then writeMsix s p ((off - 0x200000) / 4) v
  else s

/-! ## The PF window (R442, R446, R448, R455, R460) -/

def pfSel (s : State) : Nat := wbits (kget 0 s.mgmt.pf 4) 5 0
/-- Four owner bytes as a word, and written. -/
def ownerWord (get : Nat → Nat) (i : Nat) : Word := word (leVal ((List.range 4).map fun j => BitVec.ofNat 8 (get (i + j))))
/-- An offset of the PF window at which a register of one byte stands: mqown, mslice or mdesc (R442). -/
def isOwnerByte (off : Nat) : Bool := 0x2000 ≤ off && off < 0x3120
/-- A write of one owner byte. -/
def writeOwnerByte (s : State) (off v : Nat) : State :=
  if inRecovery s.mgmt then s
  else if off < 0x3000 then writeQueueOwner s (off - 0x2000) v
  else if off < 0x3100 then writeSliceOwner s (off - 0x3000) v
  else writeDescOwner s (off - 0x3100) v
def stateNum (t : PartState) : Nat := match t with | .absent => 0 | .configuring => 1 | .active => 2 | .draining => 3
/-- An island's status words. -/
def islandWord (i : Island) (half : Nat) : Word :=
  if half = 0 then word (i.clock % 4096 + 4096 * (i.voltage % 4096) + 2 ^ 31 * b2n i.on) else word (i.hottest % 256 + 256 * i.cause)
/-- A word of the PF's window. In recovery mrec and rnonce read their values. DESIGN CHOICE (log 89): the spec gives the window's other
registers no value there, the islands' status among them, though the islands have ramped before; the model reads them as 0. DESIGN CHOICE
(log 124): mstat, mfbase, mfcount and mfctl are one register each, whatever partition mpsel selects (R442). -/
def pfRead (s : State) (off : Nat) : Word :=
  let reg := kget 0 s.mgmt.pf off
  let q := partAt s (pfSel s)
  if off % 4 ≠ 0 then 0
  else if off = 0x7000 then mrec s.mgmt
  else if 0x7010 ≤ off ∧ off < 0x7020 then word (leAt s.mgmt.rnonce (off - 0x7010) 4)
  else if inRecovery s.mgmt then 0
  else if off = 8 then word (stateNum q.state + 256 * q.result)
  else if off = 0xC then q.key
  else if off = 0x10 then word q.port
  else if off = 0x24 then reg ||| word (65536 * b2n s.mgmt.scrub.isSome)
  else if off < 0x28 then reg
  else if 0x1000 ≤ off ∧ off < 0x1800 then word (kget 0 s.mgmt.mcpair ((off - 0x1000) / 8) / (if off % 8 = 0 then 1 else 2 ^ 32))
  else if 0x2000 ≤ off ∧ off < 0x3000 then ownerWord (qOwner s) (off - 0x2000)
  else if 0x3000 ≤ off ∧ off < 0x3100 then ownerWord (kget 255 s.mgmt.sown) (off - 0x3000)
  else if 0x3100 ≤ off ∧ off < 0x3120 then ownerWord (dOwner s) (off - 0x3100)
  else if 0x5000 ≤ off ∧ off < 0x5080 then (if off % 8 = 0 then mport s ((off - 0x5000) / 8) else mperr s ((off - 0x5000) / 8))
  else if 0x6000 ≤ off ∧ off < 0x6900 then islandWord (kget {} s.mgmt.islands ((off - 0x6000) / 8)) (off % 8)
  else if 0x8000 ≤ off ∧ off < 0xC000 then
    let j := (off - 0x8000) / 4
    match s.mgmt.mrouteLate.find? fun r => r.1 == j with | some r => r.2 | none => kget 0 s.mgmt.mroute j
  else 0
/-- A write to mpstate for the selected partition (R443). -/
def writeState (s : State) (v : Nat) : State :=
  let p := pfSel s
  outState s (match v % 4 with
    | 0 => execPartitionAbandon p s
    | 1 => execPartitionConfigure p s
    | 2 => execPartitionActivate p s
    | _ => execPartitionDrain p s)
/-- A write to mrec (R455): outside recovery it may enter it; within, a go starts the verification of the buffer, whose kind 3 is refused, and
in locked recovery kinds 0 and 1 are (R456). -/
def writeMrec (s : State) (v : Word) : State :=
  let s := { s with mgmt := { s.mgmt with pf := kput s.mgmt.pf 0x7000 (v &&& 0x30000) } }
  if !inRecovery s.mgmt then (if bitOf v.toNat 31 then outState s (execRecoveryEnter s) else s)
  else if !bitOf v.toNat 0 || s.mgmt.verifying.isSome || s.mgmt.resetDue || (s.mgmt.boot == .locked && wbits v 17 16 != 2) then s
  else if wbits v 17 16 = 3 then setRec s 2
  else { s with mgmt := { s.mgmt with recState := 1, verifying := some (wbits v 17 16) } }
def setPf (s : State) (off : Nat) (v : Word) : State := { s with mgmt := { s.mgmt with pf := kput s.mgmt.pf off v } }
/-- A write of a word of the PF's window (R442). DESIGN CHOICE (log 124): mstat, mfbase, mfcount and mfctl are one register each. -/
def pfWrite (s : State) (off : Nat) (v : Word) : State :=
  let p := pfSel s
  if isOwnerByte off then writeOwnerByte s off (v.toNat % 256)
  else if off % 4 ≠ 0 then s
  else if off = 0x7000 then writeMrec s v
  else if inRecovery s.mgmt then s
  else if off = 0 then (if s.ports.any fun q => q.2.state != .down then s else setPf s 0 (v &&& 0xFFF))
  else if off = 4 then setPf s 4 (v &&& 0x3F)
  else if off = 8 then writeState s (v.toNat % 4)
  else if off = 0xC then modPart s p fun q => { q with key := v }
  else if off = 0x10 then modPart s p fun q => { q with port := v.toNat % 2 }
  else if off = 0x14 then setPf s 0x14 (kget 0 s.mgmt.pf 0x14 &&& ~~~v)
  else if off = 0x1C then setPf s 0x1C (v &&& 0xF)
  else if off = 0x18 ∨ off = 0x20 then setPf s off v
  else if off = 0x24 then (if bitOf v.toNat 9 then outState s (execFrameOwnershipGo v s) else if s.mgmt.scrub.isSome then s else setPf s 0x24 ((kget 0 s.mgmt.pf 0x24 &&& 0x20000) ||| (v &&& 0x1FF)))
  else if 0x1000 ≤ off ∧ off < 0x1800 then writePair s ((off - 0x1000) / 8) (off / 4 % 2) v
  else if 0x5000 ≤ off ∧ off < 0x5080 then (if off % 8 = 0 then writeMport s ((off - 0x5000) / 8) v else clearMperr s ((off - 0x5000) / 8) v)
  else if 0x8000 ≤ off ∧ off < 0xC000 then outState s (execMrouteWrite ((off - 0x8000) / 4) v s)
  else s
/-- REGISTER_WRITE: a word of a partition's window, or of the PF's, which is window 64. -/
def execRegisterWrite (window offset : Nat) (v : Word) (s : State) : Out :=
  .next (if !s.mgmt.hostUp then s
    else if window < 64 then windowWrite s window offset v
    else if window = 64 then pfWrite s offset v
    else s)

/-! ## Host accesses (R142, R411, R424) -/

/-- A port that hosts can use now. -/
def portUsable (s : State) (port : Nat) : Bool := s.mgmt.hostUp && (port == 0 || (port == 1 && s.mgmt.config.host1 && !inRecovery s.mgmt))
/-- The partition of a window is reached through its own port alone (R439). -/
def windowPort (s : State) (port window : Nat) : Bool := window == 64 || (window < 64 && (partAt s window).port == port)
/-- Bytes of device memory a host may reach. -/
def inHbm (s : State) (a : Nat) : Bool := a / 65536 < hbmFrames s.mgmt.config
/-- Registers of a window written from bytes: words, and the owner registers byte by byte. -/
def writeWords : Nat → State → Nat → Nat → List Byte → State
  | 0, s, _, _, _ => s
  | n + 1, s, w, off, b =>
    if w = 64 ∧ isOwnerByte off then
      match b with
      | [] => s
      | c :: t => writeWords n (writeOwnerByte s off c.toNat) w (off + 1) t
    else if b.length < 4 then s
    else
      let v := word (leAt b 0 4)
      writeWords n (if w = 64 then pfWrite s off v else windowWrite s w off v) w (off + 4) (b.drop 4)
/-- HOST_WRITE (R142): visible at device scope as it is accepted; its bytes count toward cairns. -/
def execHostWrite (port addr : Nat) (data : List (BitVec 8)) (s : State) : Out :=
  .next (if !portUsable s port then s
    else if addr < 2 ^ 52 then
      if inRecovery s.mgmt then s
      else
        let cells := (cellsAt addr data).filter fun c => inHbm s c.1
        let s := physWrite { s with marks := endMarks s.marks (cells.map fun c => tkey 0 c.1) } 0 cells 8
        accepted s 0 (cells.map (·.1)) true
    else if addr < 2 ^ 56 then
      let cells := ((cellsAt (addr - 2 ^ 52) data).filter fun c => c.1 < 2 ^ 52).map fun c => (c.1 + port * 2 ^ 52, c.2)
      accepted (physWrite s 1 cells) 1 (cells.map (·.1)) false
    else if addr < 2 ^ 57 then
      let w := (addr - 2 ^ 56) / 2 ^ 23
      if windowPort s port w then writeWords data.length s w ((addr - 2 ^ 56) % 2 ^ 23) data else s
    else if inRecovery s.mgmt && addr + data.length ≤ 2 ^ 57 + 2 ^ 24 then { s with mgmt := { s.mgmt with bar2 := mwrites s.mgmt.bar2 (addr - 2 ^ 57) data } }
    else s)
/-- HOST_READ: bytes of device memory, none when a block is poisoned, with the host among the holders of a device-bias line;
or bytes of the host's space, of a window or of BAR2. -/
def execHostRead (port addr len : Nat) (s : State) : Out :=
  .next (if !portUsable s port then s
    else if addr < 2 ^ 52 then
      if inRecovery s.mgmt then s
      else
        let as := (List.range len).map (addr + ·)
        let lines := ((as.filter fun a => inHbm s a && !s.mgmt.fbias.contains (a / 65536)).map (· / 128)).eraseDups
        let s := lines.foldl (fun s l => match homeSlice s (128 * l) with
          | some n => readDir (homeRead s l) (8 + n) l 8
          | none => s) s
        { s with hostData := if as.any (poisoned s) then [] else as.map fun a => if inHbm s a then physByte s 0 a else 0 }
    else if addr < 2 ^ 56 then { s with hostData := physRead s 1 (addr - 2 ^ 52 + port * 2 ^ 52) len }
    else if addr < 2 ^ 57 then
      let w := (addr - 2 ^ 56) / 2 ^ 23
      let off := (addr - 2 ^ 56) % 2 ^ 23
      let rd := fun (o : Nat) => if w = 64 then pfRead s o else windowRead s w o
      if windowPort s port w then { s with hostData := (List.range len).map fun i => BitVec.ofNat 8 ((rd ((off + i) / 4 * 4)).toNat / 256 ^ ((off + i) % 4)) }
      else { s with hostData := List.replicate len 0 }
    else { s with hostData := mreads s.mgmt.bar2 (addr - 2 ^ 57) len })
/-- HOST_SNOOP (R424): a line of the host's space, or of a host-bias page, is answered with its bytes; an open exact sum in it
closes with the rounded value, and the caches give up a line of the host's space. Lines are numbered as port 0's host addresses are, by 128
bytes, and those of port 1's host follow (log 120). -/
def execHostSnoop (line : Nat) (s : State) : Out :=
  .next (let a := 128 * line
    let (tier, a) := if a < 2 ^ 52 then (0, a) else (1, a - 2 ^ 52)
    if !s.mgmt.hostUp || (tier == 0 && !s.mgmt.fbias.contains (a / 65536)) || 3 * 2 ^ 52 ≤ 128 * line then s
    else
      let s := if tier = 1 then dropLines s fun l => 2 ^ 53 ≤ l && l % 2 ^ 46 == a / 128 else s
      let s := closeSums s tier ((List.range 128).map fun i => (a + i, 0))
      { s with hostData := physRead s tier a 128 })

end Sys2Proof.Machine
end

