-- ==== Sys2Proof/Machine/Fetch.lean ====
section
/-!
DEFINITION. What stands before an instruction's meaning: whether a fragment may issue, fetching its bytes, the checks of arrivals
and clause bodies; and the order of issue (R18, R24 to R27, R146 to R160, R342).
-/
namespace Sys2Proof.Machine

/-! ## Whether a fragment may issue -/

/-- The group issues nothing: it has not begun or has left; an access is parked; a trap waits to be taken first; or an instruction
whose trap would come at its completion point is on its way (R161, R342, R354, R401, R402). -/
def groupHeld (s : State) (g : Group) : Bool :=
  !g.started || g.left || g.parked.isSome || (g.level == .user && (g.live == 0 || g.traps.any fun t => !isCopyTrap t)) ||
  s.ops.any fun o => o.gid == g.gid && (o.held || (match o.kind with
    | .spawn _ _ => true
    | .post _ _ => true
    | .arm _ _ _ _ _ _ _ _ => true
    | .beacon _ t => t
    | _ => false))
/-- A fragment may issue as far as its group and its own waits go: only the handler's runs at supervisor level (R341), and a parked access
goes before every other instruction (R401). -/
def mayIssue (s : State) (g : Group) (e : Nat) (f : Frag) : Bool :=
  !groupHeld s g && f.wait == .none && g.resuming.all (·.entry == e) && (match g.level, g.bank with
    | .supervisor, some k => k.trap.entry == e
    | .supervisor, none => false
    | .user, _ => true)

/-! ## Arrivals and clause bodies (R155 to R158) -/

/-- The bytes begin with a clause header (R155). -/
def beginsHeader (bytes : List Byte) : Bool := leVal bytes % 256 == 0xFF && 4 ≤ bytes.length
/-- What an instruction of these bytes meets before its meaning: the trap of an arrival that is no header, or of a body that ends
before the instruction does. -/
def bodyTrap (f : Frag) (bytes : List Byte) : Option Trap :=
  let here : Trap := { code := 1, pc := f.pc, mask := f.exec, next := f.pc + word (min 4 bytes.length) }
  let start := f.header + (if bitOf f.hword.toNat 29 then 8 else 4)
  let off := (f.pc - start).toNat
  if beginsHeader bytes then none
  else match f.arrive with
    | .header => some { here with kind := .arrival .header }
    | .calli => some { here with kind := .arrival .calli }
    | .none => if 128 < off + min 4 bytes.length then some here else none
/-- A parked instruction is done with or issues again: its increment and pending bits are given back (R40, R45, R401). -/
def reissue (e : Nat) (g : Group) : Group :=
  match g.resuming with
  | some p => if p.entry = e then { lowerFlag g p.flag with pending := g.pending.filter (fun c => !p.pend.contains c), resuming := none } else g
  | none => g
def Env.reissue (x : Env) : Env := { x with g := Sys2Proof.Machine.reissue x.e x.g }
/-- A clause that would begin at these bytes waits: the group has executed icinv, and the fence.acq that ends its sequence is on its way, which
every fetch for a clause begun after it must follow (R147). -/
def codeAwaits (s : State) (g : Group) (f : Frag) (bytes : List Byte) : Bool :=
  g.icinv && (f.arrive != .none || beginsHeader bytes) && s.ops.any fun o => o.gid == g.gid && (match o.kind with | .fence k _ => k != 2 | _ => false)
/-- Everything before the meaning: the end of a block whose group's state holds an uncorrectable error (R54); an odd address, where no
instruction begins (R158, R204, R347); the fetch; an arrival; and the wait mask of a clause to be met again (R44, R159). The state in which
the fragment's next instruction executes, with its bytes; or the state when none does, because the fragment waits or fetching raises a trap. -/
def prepare (s : State) (k e : Nat) : Sum State (List Byte × State) :=
  let rests := fun (s : State) => (Sum.inl { s with stalled := true } : Sum State (List Byte × State))
  match kfind s.groups k with
  | none => rests s
  | some g =>
    if g.stateError then .inl (supervisorFault { s with stalled := false } g.block { code := 7, cause := 4 })
    else if groupHeld s g then rests s
    else
      let s := { s with groups := kput s.groups k (settle g) }
      match envAt s k e with
      | none => rests s
      | some x =>
        let f := x.f
        if !mayIssue s x.g e f then rests s
        else
          let s := { s with cur := (k, e), stalled := false }
          if codeAwaits s x.g f [] then rests s
          else if f.pc.toNat % 2 = 1 then
            match envAt s k e with
            | some y => .inl (takeTrap (y.reissue) { code := 1, pc := f.pc, mask := f.exec, next := f.pc + 4, kind := .arrival f.arrive })
            | none => rests s
          else match fetchInstr s k x.b.part x.g.level (codeRec s x.b x.g.level) f.pc.toNat with
          | (.inl .waits, s) => rests s
          | (.inl (.park a), s) => rests { s with groups := kmod s.groups k fun g => { g with parked := some ⟨e, a, 15, []⟩ } }
          | (.inl (.trap c u a), s) =>
            match envAt s k e with
            | some y => .inl (takeTrap (y.reissue) { code := c, cause := u, pc := f.pc, mask := f.exec, addr := a, next := f.pc + 4 })
            | none => rests s
          | (.inr bytes, s) =>
            if codeAwaits s x.g f bytes then rests s
            else match bodyTrap f bytes with
            | some t => (match envAt s k e with | some y => .inl (takeTrap (y.reissue) t) | none => rests s)
            | none => if f.rewait && !beginsHeader bytes && !flagsZero x.g (wbits f.hword 19 8) then rests s else .inr (bytes, s)
/-- A fragment as its instruction executes: its spin mark as it leaves a loop (R25), its clause's wait mask met (R159). -/
def opened (g : Group) (f : Frag) : Frag := { spinClear g f with rewait := false }
/-- Change one fragment of a group. -/
def modFrag (s : State) (k e : Nat) (c : Group → Frag → Frag) : State :=
  { s with groups := kmod s.groups k fun g => { g with table := kmod g.table e (c g) } }
/-- The state in which the instruction executes. -/
def opening (t : State) (k e : Nat) : State :=
  let u := modFrag t k e opened
  { u with groups := kmod u.groups k (reissue e) }
/-- An instruction that waits at issue leaves its fragment, and what it keeps of a park, as it found them. -/
def reclosed (t u : State) (k e : Nat) : State :=
  match envAt t k e with
  | none => u
  | some x =>
    let u := modFrag u k e fun _ f => { f with spin := x.f.spin, loop := x.f.loop, rewait := x.f.rewait }
    if x.g.resuming.isNone then u
    else { u with groups := kmod u.groups k fun g => { g with resuming := x.g.resuming, flags := x.g.flags, pending := x.g.pending } }
/-- A fragment after its instruction has issued at a level, with the level now: its ageing starts again (R24), but for a user fragment that
rte has just brought back with its own count (R33). At user level a fragment of other lanes has taken the entry of one that ended. -/
def issuedFrag (now : Nat) (before after : Level) (members : Mask) (f : Frag) : Frag :=
  if before = .user ∧ f.members &&& members = 0 then f
  else { f with age := if before = .supervisor ∧ after = .user then f.age else 0, lastIssue := now, rotated := false, reached := now }
/-- After an instruction of a group's fragment has issued: its ageing starts again, that of a fragment it has trapped too, and with it the
watchdog's period (R24, R26, R364); spin marks follow the registers (R25), and single-bit errors of the group's state, which every issue
reads, are counted (R54). `g0` is the group before. -/
def issued (k e : Nat) (g0 : Group) (t : State) : State :=
  if t.stalled then t
  else match kfind t.groups k with
    | none => t
    | some g =>
      if g.gid ≠ g0.gid then t
      else
        let bank := if g0.level = .user then g.bank.map fun q => { q with frag := { q.frag with age := 0 } } else g.bank
        let frag := issuedFrag t.clock g0.level g.level (kget {} g0.table e).members
        { corrected t (k / 64) g.stateSingles with
          groups := kput t.groups k (spinSettle { g with bank := bank, stateSingles := 0, table := kmod g.table e frag })
          blocks := kmod t.blocks g.block fun b => { b with lastIssue := t.clock } }

/-! ## The order of issue (R24) -/

/-- A fragment that may issue, with what R24 compares. -/
structure Cand where
  k : Nat
  e : Nat
  age : Nat
  cls : Nat
  deriving DecidableEq, Repr
def Cand.before (a b : Cand) : Bool :=
  let old := fun (c : Cand) => 1024 ≤ c.age
  if old a != old b then old a
  else if !old a && a.cls != b.cls then b.cls < a.cls
  else if a.age != b.age then b.age < a.age
  else if a.k != b.k then a.k < b.k
  else a.e < b.e
def insertCand (c : Cand) : List Cand → List Cand
  | [] => [c]
  | d :: t => if c.before d then c :: d :: t else d :: insertCand c t
/-- The candidates of a quadrant, numbered core × 4 + slot mod 4, in the order of R24. -/
def candidates (s : State) (q : Nat) : List Cand :=
  (s.groups.flatMap fun (k, g) =>
    if k / 64 = q / 4 ∧ k % 4 = q % 4 then
      g.table.filterMap fun (e, f) =>
        if mayIssue s g e f then some ⟨k, e, f.age, if f.spin then 0 else min 3 (g.role + f.age / 64)⟩ else none
    else []).foldr insertCand []
/-- The quadrant may still issue in this clock: its core has not passed it (R10, R27). -/
def quadrantOpen (s : State) (q : Nat) : Bool := kget 0 s.cursor (q / 4) ≤ q % 4
/-- A quadrant has had its turn in this clock. -/
def passQuadrant (s : State) (q : Nat) : State := { s with cursor := kput s.cursor (q / 4) (q % 4 + 1) }
/-- The next quadrant that may still issue and has a fragment that may. -/
def nextQuadrant (s : State) : Option Nat :=
  (s.groups.filterMap fun (k, g) =>
    let q := 4 * (k / 64) + k % 4
    if quadrantOpen s q && g.table.any (fun x => mayIssue s g x.1 x.2) then some q else none).foldl
      (fun m q => match m with | some r => some (min r q) | none => some q) none
/-- Every group's arrivals settled (R18). -/
def settleAll (s : State) : State := { s with groups := kmap (fun _ g => settle g) s.groups }

end Sys2Proof.Machine
end

