-- ==== Sys2Proof/Machine/Dispatch.lean ====
section
/-!
DEFINITION. One arm per instruction and event of the opcode table: each calls its own meaning.
-/
namespace Sys2Proof.Machine

/-- The meaning of every instruction and event. -/
def exec (i : Instr) (s : State) : Host.Outcome State Fault Refusal :=
  match i with
  | .add b a d g => Sys2Proof.Machine.execAdd b a d g s
  | .addG b a d g => Sys2Proof.Machine.execAddG b a d g s
  | .sub b a d g => Sys2Proof.Machine.execSub b a d g s
  | .subG b a d g => Sys2Proof.Machine.execSubG b a d g s
  | .mul b a d g => Sys2Proof.Machine.execMul b a d g s
  | .mulG b a d g => Sys2Proof.Machine.execMulG b a d g s
  | .mulhiN b a d g => Sys2Proof.Machine.execMulhiN b a d g s
  | .mulhiNG b a d g => Sys2Proof.Machine.execMulhiNG b a d g s
  | .mulhiI b a d g => Sys2Proof.Machine.execMulhiI b a d g s
  | .mulhiIG b a d g => Sys2Proof.Machine.execMulhiIG b a d g s
  | .mad b a d g => Sys2Proof.Machine.execMad b a d g s
  | .madG b a d g => Sys2Proof.Machine.execMadG b a d g s
  | .minI b a d g => Sys2Proof.Machine.execMinI b a d g s
  | .minIG b a d g => Sys2Proof.Machine.execMinIG b a d g s
  | .maxI b a d g => Sys2Proof.Machine.execMaxI b a d g s
  | .maxIG b a d g => Sys2Proof.Machine.execMaxIG b a d g s
  | .minN b a d g => Sys2Proof.Machine.execMinN b a d g s
  | .minNG b a d g => Sys2Proof.Machine.execMinNG b a d g s
  | .maxN b a d g => Sys2Proof.Machine.execMaxN b a d g s
  | .maxNG b a d g => Sys2Proof.Machine.execMaxNG b a d g s
  | .and b a d g => Sys2Proof.Machine.execAnd b a d g s
  | .andG b a d g => Sys2Proof.Machine.execAndG b a d g s
  | .or b a d g => Sys2Proof.Machine.execOr b a d g s
  | .orG b a d g => Sys2Proof.Machine.execOrG b a d g s
  | .xor b a d g => Sys2Proof.Machine.execXor b a d g s
  | .xorG b a d g => Sys2Proof.Machine.execXorG b a d g s
  | .andn b a d g => Sys2Proof.Machine.execAndn b a d g s
  | .andnG b a d g => Sys2Proof.Machine.execAndnG b a d g s
  | .shl b a d g => Sys2Proof.Machine.execShl b a d g s
  | .shlG b a d g => Sys2Proof.Machine.execShlG b a d g s
  | .shr b a d g => Sys2Proof.Machine.execShr b a d g s
  | .shrG b a d g => Sys2Proof.Machine.execShrG b a d g s
  | .sar b a d g => Sys2Proof.Machine.execSar b a d g s
  | .sarG b a d g => Sys2Proof.Machine.execSarG b a d g s
  | .bfeN b a d g => Sys2Proof.Machine.execBfeN b a d g s
  | .bfeNG b a d g => Sys2Proof.Machine.execBfeNG b a d g s
  | .bfeI b a d g => Sys2Proof.Machine.execBfeI b a d g s
  | .bfeIG b a d g => Sys2Proof.Machine.execBfeIG b a d g s
  | .bfi b a d g => Sys2Proof.Machine.execBfi b a d g s
  | .bfiG b a d g => Sys2Proof.Machine.execBfiG b a d g s
  | .bytemix b a d g => Sys2Proof.Machine.execBytemix b a d g s
  | .bytemixG b a d g => Sys2Proof.Machine.execBytemixG b a d g s
  | .sel b a d p => Sys2Proof.Machine.execSel b a d p s
  | .selG b a d p => Sys2Proof.Machine.execSelG b a d p s
  | .divN b a d g => Sys2Proof.Machine.execDivN b a d g s
  | .divNG b a d g => Sys2Proof.Machine.execDivNG b a d g s
  | .remN b a d g => Sys2Proof.Machine.execRemN b a d g s
  | .remNG b a d g => Sys2Proof.Machine.execRemNG b a d g s
  | .divI b a d g => Sys2Proof.Machine.execDivI b a d g s
  | .divIG b a d g => Sys2Proof.Machine.execDivIG b a d g s
  | .remI b a d g => Sys2Proof.Machine.execRemI b a d g s
  | .remIG b a d g => Sys2Proof.Machine.execRemIG b a d g s
  | .add64 b a d g => Sys2Proof.Machine.execAdd64 b a d g s
  | .add64G b a d g => Sys2Proof.Machine.execAdd64G b a d g s
  | .sub64 b a d g => Sys2Proof.Machine.execSub64 b a d g s
  | .sub64G b a d g => Sys2Proof.Machine.execSub64G b a d g s
  | .cmp b a c p g => Sys2Proof.Machine.execCmp b a c p g s
  | .cmpG b a c p g => Sys2Proof.Machine.execCmpG b a c p g s
  | .cmpi n a c p g => Sys2Proof.Machine.execCmpi n a c p g s
  | .cmpiG n a c p g => Sys2Proof.Machine.execCmpiG n a c p g s
  | .mov a d g => Sys2Proof.Machine.execMov a d g s
  | .movG a d g => Sys2Proof.Machine.execMovG a d g s
  | .not a d g => Sys2Proof.Machine.execNot a d g s
  | .notG a d g => Sys2Proof.Machine.execNotG a d g s
  | .neg a d g => Sys2Proof.Machine.execNeg a d g s
  | .negG a d g => Sys2Proof.Machine.execNegG a d g s
  | .abs a d g => Sys2Proof.Machine.execAbs a d g s
  | .absG a d g => Sys2Proof.Machine.execAbsG a d g s
  | .popc a d g => Sys2Proof.Machine.execPopc a d g s
  | .popcG a d g => Sys2Proof.Machine.execPopcG a d g s
  | .clz a d g => Sys2Proof.Machine.execClz a d g s
  | .clzG a d g => Sys2Proof.Machine.execClzG a d g s
  | .brev a d g => Sys2Proof.Machine.execBrev a d g s
  | .brevG a d g => Sys2Proof.Machine.execBrevG a d g s
  | .cvtI8I32 a d g => Sys2Proof.Machine.execCvtI8I32 a d g s
  | .cvtI8I32G a d g => Sys2Proof.Machine.execCvtI8I32G a d g s
  | .cvtN8I32 a d g => Sys2Proof.Machine.execCvtN8I32 a d g s
  | .cvtN8I32G a d g => Sys2Proof.Machine.execCvtN8I32G a d g s
  | .cvtI16I32 a d g => Sys2Proof.Machine.execCvtI16I32 a d g s
  | .cvtI16I32G a d g => Sys2Proof.Machine.execCvtI16I32G a d g s
  | .cvtN16I32 a d g => Sys2Proof.Machine.execCvtN16I32 a d g s
  | .cvtN16I32G a d g => Sys2Proof.Machine.execCvtN16I32G a d g s
  | .cvtN32I32 a d g => Sys2Proof.Machine.execCvtN32I32 a d g s
  | .cvtN32I32G a d g => Sys2Proof.Machine.execCvtN32I32G a d g s
  | .cvtI32N32 a d g => Sys2Proof.Machine.execCvtI32N32 a d g s
  | .cvtI32N32G a d g => Sys2Proof.Machine.execCvtI32N32G a d g s
  | .cvtN8N32 a d g => Sys2Proof.Machine.execCvtN8N32 a d g s
  | .cvtN8N32G a d g => Sys2Proof.Machine.execCvtN8N32G a d g s
  | .cvtN16N32 a d g => Sys2Proof.Machine.execCvtN16N32 a d g s
  | .cvtN16N32G a d g => Sys2Proof.Machine.execCvtN16N32G a d g s
  | .pand a d b => Sys2Proof.Machine.execPand a d b s
  | .pandG a d b => Sys2Proof.Machine.execPandG a d b s
  | .por a d b => Sys2Proof.Machine.execPor a d b s
  | .porG a d b => Sys2Proof.Machine.execPorG a d b s
  | .pxor a d b => Sys2Proof.Machine.execPxor a d b s
  | .pxorG a d b => Sys2Proof.Machine.execPxorG a d b s
  | .pandn a d b => Sys2Proof.Machine.execPandn a d b s
  | .pandnG a d b => Sys2Proof.Machine.execPandnG a d b s
  | .pnot a d g => Sys2Proof.Machine.execPnot a d g s
  | .pnotG a d g => Sys2Proof.Machine.execPnotG a d g s
  | .pmov a d g => Sys2Proof.Machine.execPmov a d g s
  | .pmovG a d g => Sys2Proof.Machine.execPmovG a d g s
  | .pset a d g => Sys2Proof.Machine.execPset a d g s
  | .psetG a d g => Sys2Proof.Machine.execPsetG a d g s
  | .addi iv a d g => Sys2Proof.Machine.execAddi iv a d g s
  | .addiG iv a d g => Sys2Proof.Machine.execAddiG iv a d g s
  | .muli iv a d g => Sys2Proof.Machine.execMuli iv a d g s
  | .muliG iv a d g => Sys2Proof.Machine.execMuliG iv a d g s
  | .andi iv a d g => Sys2Proof.Machine.execAndi iv a d g s
  | .andiG iv a d g => Sys2Proof.Machine.execAndiG iv a d g s
  | .ori iv a d g => Sys2Proof.Machine.execOri iv a d g s
  | .oriG iv a d g => Sys2Proof.Machine.execOriG iv a d g s
  | .xori iv a d g => Sys2Proof.Machine.execXori iv a d g s
  | .xoriG iv a d g => Sys2Proof.Machine.execXoriG iv a d g s
  | .shli iv a d g => Sys2Proof.Machine.execShli iv a d g s
  | .shliG iv a d g => Sys2Proof.Machine.execShliG iv a d g s
  | .shri iv a d g => Sys2Proof.Machine.execShri iv a d g s
  | .shriG iv a d g => Sys2Proof.Machine.execShriG iv a d g s
  | .sari iv a d g => Sys2Proof.Machine.execSari iv a d g s
  | .sariG iv a d g => Sys2Proof.Machine.execSariG iv a d g s
  | .fadd b a d g => Sys2Proof.Machine.execFadd b a d g s
  | .fsub b a d g => Sys2Proof.Machine.execFsub b a d g s
  | .fmul b a d g => Sys2Proof.Machine.execFmul b a d g s
  | .ffma b a d g => Sys2Proof.Machine.execFfma b a d g s
  | .fmin b a d g => Sys2Proof.Machine.execFmin b a d g s
  | .fmax b a d g => Sys2Proof.Machine.execFmax b a d g s
  | .pkaddF16 b a d g => Sys2Proof.Machine.execPkaddF16 b a d g s
  | .pkmulF16 b a d g => Sys2Proof.Machine.execPkmulF16 b a d g s
  | .pkfmaF16 b a d g => Sys2Proof.Machine.execPkfmaF16 b a d g s
  | .pkaddBf16 b a d g => Sys2Proof.Machine.execPkaddBf16 b a d g s
  | .pkmulBf16 b a d g => Sys2Proof.Machine.execPkmulBf16 b a d g s
  | .pkfmaBf16 b a d g => Sys2Proof.Machine.execPkfmaBf16 b a d g s
  | .fcmp b a c p g => Sys2Proof.Machine.execFcmp b a c p g s
  | .fneg a d g => Sys2Proof.Machine.execFneg a d g s
  | .fabs a d g => Sys2Proof.Machine.execFabs a d g s
  | .frcp a d g => Sys2Proof.Machine.execFrcp a d g s
  | .fsqrt a d g => Sys2Proof.Machine.execFsqrt a d g s
  | .frsq a d g => Sys2Proof.Machine.execFrsq a d g s
  | .fexp2 a d g => Sys2Proof.Machine.execFexp2 a d g s
  | .flog2 a d g => Sys2Proof.Machine.execFlog2 a d g s
  | .frint a d g => Sys2Proof.Machine.execFrint a d g s
  | .cvtF32I32 a d g => Sys2Proof.Machine.execCvtF32I32 a d g s
  | .cvtF32N32 a d g => Sys2Proof.Machine.execCvtF32N32 a d g s
  | .cvtI32F32 a d g => Sys2Proof.Machine.execCvtI32F32 a d g s
  | .cvtN32F32 a d g => Sys2Proof.Machine.execCvtN32F32 a d g s
  | .cvtF16F32 a d g => Sys2Proof.Machine.execCvtF16F32 a d g s
  | .cvtBf16F32 a d g => Sys2Proof.Machine.execCvtBf16F32 a d g s
  | .cvtF32F16 a d g => Sys2Proof.Machine.execCvtF32F16 a d g s
  | .cvtF32Bf16 a d g => Sys2Proof.Machine.execCvtF32Bf16 a d g s
  | .cvtE4m3F32 a d g => Sys2Proof.Machine.execCvtE4m3F32 a d g s
  | .cvtE5m2F32 a d g => Sys2Proof.Machine.execCvtE5m2F32 a d g s
  | .cvtF32E4m3 a d g => Sys2Proof.Machine.execCvtF32E4m3 a d g s
  | .cvtF32E5m2 a d g => Sys2Proof.Machine.execCvtF32E5m2 a d g s
  | .cvtBf16F16 a d g => Sys2Proof.Machine.execCvtBf16F16 a d g s
  | .cvtF16Bf16 a d g => Sys2Proof.Machine.execCvtF16Bf16 a d g s
  | .cvtI8F32 a d g => Sys2Proof.Machine.execCvtI8F32 a d g s
  | .cvtN8F32 a d g => Sys2Proof.Machine.execCvtN8F32 a d g s
  | .xpick b a d g => Sys2Proof.Machine.execXpick b a d g s
  | .xrise b a d g => Sys2Proof.Machine.execXrise b a d g s
  | .xfall b a d g => Sys2Proof.Machine.execXfall b a d g s
  | .xflip b a d g => Sys2Proof.Machine.execXflip b a d g s
  | .qswapH a d g => Sys2Proof.Machine.execQswapH a d g s
  | .qswapV a d g => Sys2Proof.Machine.execQswapV a d g s
  | .qswapD a d g => Sys2Proof.Machine.execQswapD a d g s
  | .qbcast0 a d g => Sys2Proof.Machine.execQbcast0 a d g s
  | .qbcast1 a d g => Sys2Proof.Machine.execQbcast1 a d g s
  | .qbcast2 a d g => Sys2Proof.Machine.execQbcast2 a d g s
  | .qbcast3 a d g => Sys2Proof.Machine.execQbcast3 a d g s
  | .xall a d g => Sys2Proof.Machine.execXall a d g s
  | .xany a d g => Sys2Proof.Machine.execXany a d g s
  | .xsame a d g => Sys2Proof.Machine.execXsame a d g s
  | .xmask a d g => Sys2Proof.Machine.execXmask a d g s
  | .xeq a d g => Sys2Proof.Machine.execXeq a d g s
  | .xeqall a d g => Sys2Proof.Machine.execXeqall a d g s
  | .xcount a d g => Sys2Proof.Machine.execXcount a d g s
  | .rdxAdd a d g => Sys2Proof.Machine.execRdxAdd a d g s
  | .rdxMinI a d g => Sys2Proof.Machine.execRdxMinI a d g s
  | .rdxMaxI a d g => Sys2Proof.Machine.execRdxMaxI a d g s
  | .rdxMinN a d g => Sys2Proof.Machine.execRdxMinN a d g s
  | .rdxMaxN a d g => Sys2Proof.Machine.execRdxMaxN a d g s
  | .rdxAnd a d g => Sys2Proof.Machine.execRdxAnd a d g s
  | .rdxOr a d g => Sys2Proof.Machine.execRdxOr a d g s
  | .rdxXor a d g => Sys2Proof.Machine.execRdxXor a d g s
  | .rdxFadd a d g => Sys2Proof.Machine.execRdxFadd a d g s
  | .rdxFmin a d g => Sys2Proof.Machine.execRdxFmin a d g s
  | .rdxFmax a d g => Sys2Proof.Machine.execRdxFmax a d g s
  | .readlane n a d g => Sys2Proof.Machine.execReadlane n a d g s
  | .writelane n a d g => Sys2Proof.Machine.execWritelane n a d g s
  | .readfirst a d g => Sys2Proof.Machine.execReadfirst a d g s
  | .ldX1 sx o iv d b => Sys2Proof.Machine.execLdX1 sx o iv d b s
  | .ldX2 sx o iv d b => Sys2Proof.Machine.execLdX2 sx o iv d b s
  | .ldX4 sx o iv d b => Sys2Proof.Machine.execLdX4 sx o iv d b s
  | .stX1 sx o iv d b => Sys2Proof.Machine.execStX1 sx o iv d b s
  | .stX2 sx o iv d b => Sys2Proof.Machine.execStX2 sx o iv d b s
  | .stX4 sx o iv d b => Sys2Proof.Machine.execStX4 sx o iv d b s
  | .atom sx c r p iv d b => Sys2Proof.Machine.execAtom sx c r p iv d b s
  | .red sx c p iv d b => Sys2Proof.Machine.execRed sx c p iv d b s
  | .redDet sx c p iv d b => Sys2Proof.Machine.execRedDet sx c p iv d b s
  | .ldg sx o iv d b => Sys2Proof.Machine.execLdg sx o iv d b s
  | .stg sx o iv d b => Sys2Proof.Machine.execStg sx o iv d b s
  | .atomg sx c r p iv d b => Sys2Proof.Machine.execAtomg sx c r p iv d b s
  | .ldAcq sx c iv d b => Sys2Proof.Machine.execLdAcq sx c iv d b s
  | .stRel sx c iv d b => Sys2Proof.Machine.execStRel sx c iv d b s
  | .fenceAcq sx c => Sys2Proof.Machine.execFenceAcq sx c s
  | .fenceRel sx c => Sys2Proof.Machine.execFenceRel sx c s
  | .fenceAr sx c => Sys2Proof.Machine.execFenceAr sx c s
  | .icinv sx => Sys2Proof.Machine.execIcinv sx s
  | .cinv sx c b => Sys2Proof.Machine.execCinv sx c b s
  | .prefetch sx c iv b => Sys2Proof.Machine.execPrefetch sx c iv b s
  | .stSpill sx iv d b => Sys2Proof.Machine.execStSpill sx iv d b s
  | .ldSpill sx iv d b => Sys2Proof.Machine.execLdSpill sx iv d b s
  | .ldrec n d => Sys2Proof.Machine.execLdrec n d s
  | .rsub n sx d => Sys2Proof.Machine.execRsub n sx d s
  | .rdrec sx d => Sys2Proof.Machine.execRdrec sx d s
  | .iwiden n x sx => Sys2Proof.Machine.execIwiden n x sx s
  | .iunpin x sx => Sys2Proof.Machine.execIunpin x sx s
  | .ishadow x d sx => Sys2Proof.Machine.execIshadow x d sx s
  | .itop x sx => Sys2Proof.Machine.execItop x sx s
  | .ichk x b sx => Sys2Proof.Machine.execIchk x b sx s
  | .brcV d t p => Sys2Proof.Machine.execBrcV d t p s
  | .brcG t p => Sys2Proof.Machine.execBrcG t p s
  | .bra o => Sys2Proof.Machine.execBra o s
  | .call o => Sys2Proof.Machine.execCall o s
  | .ret => Sys2Proof.Machine.execRet s
  | .calli a => Sys2Proof.Machine.execCalli a s
  | .exit g => Sys2Proof.Machine.execExit g s
  | .yield => Sys2Proof.Machine.execYield s
  | .brk c => Sys2Proof.Machine.execBrk c s
  | .trap c g => Sys2Proof.Machine.execTrap c g s
  | .setfmt a => Sys2Proof.Machine.execSetfmt a s
  | .getfmt d => Sys2Proof.Machine.execGetfmt d s
  | .setexec a => Sys2Proof.Machine.execSetexec a s
  | .getexec d => Sys2Proof.Machine.execGetexec d s
  | .barSync iv n => Sys2Proof.Machine.execBarSync iv n s
  | .barArrive iv n => Sys2Proof.Machine.execBarArrive iv n s
  | .cbarSync => Sys2Proof.Machine.execCbarSync s
  | .kget k d => Sys2Proof.Machine.execKget k d s
  | .kset k sx => Sys2Proof.Machine.execKset k sx s
  | .kadd k d => Sys2Proof.Machine.execKadd k d s
  | .kcas k d => Sys2Proof.Machine.execKcas k d s
  | .mbarInit sx iv d b => Sys2Proof.Machine.execMbarInit sx iv d b s
  | .mbarArrive sx iv d b => Sys2Proof.Machine.execMbarArrive sx iv d b s
  | .mbarWait sx iv d b => Sys2Proof.Machine.execMbarWait sx iv d b s
  | .mbarTest sx iv d b => Sys2Proof.Machine.execMbarTest sx iv d b s
  | .gang a => Sys2Proof.Machine.execGang a s
  | .mma sx m b c v => Sys2Proof.Machine.execMma sx m b c v s
  | .tmma sx m b c v => Sys2Proof.Machine.execTmma sx m b c v s
  | .mzero sx m => Sys2Proof.Machine.execMzero sx m s
  | .mld sx m b c t => Sys2Proof.Machine.execMld sx m b c t s
  | .mst sx m b c a iv => Sys2Proof.Machine.execMst sx m b c a iv s
  | .mrd sx m d q => Sys2Proof.Machine.execMrd sx m d q s
  | .mrdSt sx m d => Sys2Proof.Machine.execMrdSt sx m d s
  | .mwr sx m v q => Sys2Proof.Machine.execMwr sx m v q s
  | .copy sx c g => Sys2Proof.Machine.execCopy sx c g s
  | .cstep sx a g => Sys2Proof.Machine.execCstep sx a g s
  | .cwait sx c g => Sys2Proof.Machine.execCwait sx c g s
  | .ctest sx c p => Sys2Proof.Machine.execCtest sx c p s
  | .cadd sx c => Sys2Proof.Machine.execCadd sx c s
  | .spawn sx c v g => Sys2Proof.Machine.execSpawn sx c v g s
  | .join sx c g => Sys2Proof.Machine.execJoin sx c g s
  | .exitJ sx => Sys2Proof.Machine.execExitJ sx s
  | .rinv sx n v p => Sys2Proof.Machine.execRinv sx n v p s
  | .rinvT sx n v p => Sys2Proof.Machine.execRinvT sx n v p s
  | .arm sx c d => Sys2Proof.Machine.execArm sx c d s
  | .disarm sx h d => Sys2Proof.Machine.execDisarm sx h d s
  | .post sx c v g => Sys2Proof.Machine.execPost sx c v g s
  | .lit p => Sys2Proof.Machine.execLit p s
  | .rteFix => Sys2Proof.Machine.execRteFix s
  | .rteSkip => Sys2Proof.Machine.execRteSkip s
  | .rteRetry => Sys2Proof.Machine.execRteRetry s
  | .rteKill => Sys2Proof.Machine.execRteKill s
  | .sread n d h => Sys2Proof.Machine.execSread n d h s
  | .swrite n sx h => Sys2Proof.Machine.execSwrite n sx h s
  | .saveGroup iv b => Sys2Proof.Machine.execSaveGroup iv b s
  | .saveBlock iv b => Sys2Proof.Machine.execSaveBlock iv b s
  | .restoreGroup iv b => Sys2Proof.Machine.execRestoreGroup iv b s
  | .restoreBlock iv b => Sys2Proof.Machine.execRestoreBlock iv b s
  | .pgrefRead a d => Sys2Proof.Machine.execPgrefRead a d s
  | .pgrefInc a d => Sys2Proof.Machine.execPgrefInc a d s
  | .pgrefDec a d => Sys2Proof.Machine.execPgrefDec a d s
  | .cresume a d => Sys2Proof.Machine.execCresume a d s
  | .nop32 x => Sys2Proof.Machine.execNop32 x s
  | .clauseHeader sx y b a w => Sys2Proof.Machine.execClauseHeader sx y b a w s
  | .mov16 sx d => Sys2Proof.Machine.execMov16 sx d s
  | .add16 sx d => Sys2Proof.Machine.execAdd16 sx d s
  | .sub16 sx d => Sys2Proof.Machine.execSub16 sx d s
  | .addi16 iv d => Sys2Proof.Machine.execAddi16 iv d s
  | .and16 sx d => Sys2Proof.Machine.execAnd16 sx d s
  | .or16 sx d => Sys2Proof.Machine.execOr16 sx d s
  | .xor16 sx d => Sys2Proof.Machine.execXor16 sx d s
  | .shli16 iv d => Sys2Proof.Machine.execShli16 iv d s
  | .shri16 iv d => Sys2Proof.Machine.execShri16 iv d s
  | .sari16 iv d => Sys2Proof.Machine.execSari16 iv d s
  | .minI16 sx d => Sys2Proof.Machine.execMinI16 sx d s
  | .maxI16 sx d => Sys2Proof.Machine.execMaxI16 sx d s
  | .fadd16 sx d => Sys2Proof.Machine.execFadd16 sx d s
  | .fsub16 sx d => Sys2Proof.Machine.execFsub16 sx d s
  | .fmul16 sx d => Sys2Proof.Machine.execFmul16 sx d s
  | .fmax16 sx d => Sys2Proof.Machine.execFmax16 sx d s
  | .groupStart k => Sys2Proof.Machine.execGroupStart k s
  | .taskGroupStart k => Sys2Proof.Machine.execTaskGroupStart k s
  | .resumeStart k => Sys2Proof.Machine.execResumeStart k s
  | .fragmentProceed k e => Sys2Proof.Machine.execFragmentProceed k e s
  | .fragmentRotation k => Sys2Proof.Machine.execFragmentRotation k s
  | .groupEnd k => Sys2Proof.Machine.execGroupEnd k s
  | .launchEnd l => Sys2Proof.Machine.execLaunchEnd l s
  | .loadCompletion id => Sys2Proof.Machine.execLoadCompletion id s
  | .storeCompletion id => Sys2Proof.Machine.execStoreCompletion id s
  | .atomicCompletion id => Sys2Proof.Machine.execAtomicCompletion id s
  | .reductionCompletion id => Sys2Proof.Machine.execReductionCompletion id s
  | .fenceCompletion id => Sys2Proof.Machine.execFenceCompletion id s
  | .cinvCompletion id => Sys2Proof.Machine.execCinvCompletion id s
  | .matrixCompletion id => Sys2Proof.Machine.execMatrixCompletion id s
  | .tileOpCompletion id => Sys2Proof.Machine.execTileOpCompletion id s
  | .keystoneJointIssue core n => Sys2Proof.Machine.execKeystoneJointIssue core n s
  | .bStreamEnd id => Sys2Proof.Machine.execBStreamEnd id s
  | .copyCompletion block n => Sys2Proof.Machine.execCopyCompletion block n s
  | .copySuspend block n => Sys2Proof.Machine.execCopySuspend block n s
  | .copyAbort block n => Sys2Proof.Machine.execCopyAbort block n s
  | .stageIssue block n => Sys2Proof.Machine.execStageIssue block n s
  | .caddCompletion id => Sys2Proof.Machine.execCaddCompletion id s
  | .spawnCompletion id => Sys2Proof.Machine.execSpawnCompletion id s
  | .postCompletion id => Sys2Proof.Machine.execPostCompletion id s
  | .binTimerExpiry die part node => Sys2Proof.Machine.execBinTimerExpiry die part node s
  | .ringDrain part node => Sys2Proof.Machine.execRingDrain part node s
  | .quarryTake core => Sys2Proof.Machine.execQuarryTake core s
  | .stealRequest core => Sys2Proof.Machine.execStealRequest core s
  | .stealArrival core => Sys2Proof.Machine.execStealArrival core s
  | .beaconCompletion id => Sys2Proof.Machine.execBeaconCompletion id s
  | .armCompletion id => Sys2Proof.Machine.execArmCompletion id s
  | .disarmCompletion id => Sys2Proof.Machine.execDisarmCompletion id s
  | .arrivalNote slice handle => Sys2Proof.Machine.execArrivalNote slice handle s
  | .cairnPostRetry handle => Sys2Proof.Machine.execCairnPostRetry handle s
  | .trapEntry k e => Sys2Proof.Machine.execTrapEntry k e s
  | .watchdogExpiry block => Sys2Proof.Machine.execWatchdogExpiry block s
  | .placementAttempt die => Sys2Proof.Machine.execPlacementAttempt die s
  | .clusterCommit die => Sys2Proof.Machine.execClusterCommit die s
  | .timeSliceExpiry pair => Sys2Proof.Machine.execTimeSliceExpiry pair s
  | .remoteRead n => Sys2Proof.Machine.execRemoteRead n s
  | .remoteWrite n => Sys2Proof.Machine.execRemoteWrite n s
  | .remoteAtomic n => Sys2Proof.Machine.execRemoteAtomic n s
  | .remoteReduction n => Sys2Proof.Machine.execRemoteReduction n s
  | .beacon n => Sys2Proof.Machine.execBeacon n s
  | .refusal n => Sys2Proof.Machine.execRefusal n s
  | .readResponse n => Sys2Proof.Machine.execReadResponse n s
  | .acknowledgement n => Sys2Proof.Machine.execAcknowledgement n s
  | .atomicResponse n => Sys2Proof.Machine.execAtomicResponse n s
  | .reservedPacket n => Sys2Proof.Machine.execReservedPacket n s
  | .linkNakReplay port ack => Sys2Proof.Machine.execLinkNakReplay port ack s
  | .linkTrainingDone port peer => Sys2Proof.Machine.execLinkTrainingDone port peer s
  | .linkTrainingFail port => Sys2Proof.Machine.execLinkTrainingFail port s
  | .portEnable port => Sys2Proof.Machine.execPortEnable port s
  | .portRetrain port => Sys2Proof.Machine.execPortRetrain port s
  | .portDisable port => Sys2Proof.Machine.execPortDisable port s
  | .mrouteWrite j v => Sys2Proof.Machine.execMrouteWrite j v s
  | .directoryWriteConflict dir line writer => Sys2Proof.Machine.execDirectoryWriteConflict dir line writer s
  | .invalidationAnswer dir line holder => Sys2Proof.Machine.execInvalidationAnswer dir line holder s
  | .evictionNotice dir line holder => Sys2Proof.Machine.execEvictionNotice dir line holder s
  | .regionMerge dir base size => Sys2Proof.Machine.execRegionMerge dir base size s
  | .activationAlert bank => Sys2Proof.Machine.execActivationAlert bank s
  | .perBankRefresh bank => Sys2Proof.Machine.execPerBankRefresh bank s
  | .migrationDoorbell part => Sys2Proof.Machine.execMigrationDoorbell part s
  | .migrationCopyDone n => Sys2Proof.Machine.execMigrationCopyDone n s
  | .migrationAbort n => Sys2Proof.Machine.execMigrationAbort n s
  | .domainDrain part d => Sys2Proof.Machine.execDomainDrain part d s
  | .domainDrainDone part d => Sys2Proof.Machine.execDomainDrainDone part d s
  | .domainCommit part d => Sys2Proof.Machine.execDomainCommit part d s
  | .domainCommitDone part d => Sys2Proof.Machine.execDomainCommitDone part d s
  | .sqTailWrite q v => Sys2Proof.Machine.execSqTailWrite q v s
  | .queueEntryNop q => Sys2Proof.Machine.execQueueEntryNop q s
  | .queueEntryLaunch q => Sys2Proof.Machine.execQueueEntryLaunch q s
  | .queueEntryTask q => Sys2Proof.Machine.execQueueEntryTask q s
  | .queueEntryCairnArm q => Sys2Proof.Machine.execQueueEntryCairnArm q s
  | .queueEntryCairnDisarm q => Sys2Proof.Machine.execQueueEntryCairnDisarm q s
  | .taskEntryRetry q => Sys2Proof.Machine.execTaskEntryRetry q s
  | .sqResume q v => Sys2Proof.Machine.execSqResume q v s
  | .hostPreemptionRequest part v => Sys2Proof.Machine.execHostPreemptionRequest part v s
  | .partitionConfigure p => Sys2Proof.Machine.execPartitionConfigure p s
  | .partitionAbandon p => Sys2Proof.Machine.execPartitionAbandon p s
  | .partitionActivate p => Sys2Proof.Machine.execPartitionActivate p s
  | .partitionDrain p => Sys2Proof.Machine.execPartitionDrain p s
  | .partitionDrained p => Sys2Proof.Machine.execPartitionDrained p s
  | .frameOwnershipGo v => Sys2Proof.Machine.execFrameOwnershipGo v s
  | .frameScrubDone => Sys2Proof.Machine.execFrameScrubDone s
  | .hostWrite port addr data => Sys2Proof.Machine.execHostWrite port addr data s
  | .hostRead port addr len => Sys2Proof.Machine.execHostRead port addr len s
  | .moduleReset => Sys2Proof.Machine.execModuleReset s
  | .recoveryGoImage => Sys2Proof.Machine.execRecoveryGoImage s
  | .recoveryGoRecord => Sys2Proof.Machine.execRecoveryGoRecord s
  | .recoveryGoToken => Sys2Proof.Machine.execRecoveryGoToken s
  | .recoveryEnter => Sys2Proof.Machine.execRecoveryEnter s
  | .governorSample island mhz cause => Sys2Proof.Machine.execGovernorSample island mhz cause s
  | .thermalThrottle island temp => Sys2Proof.Machine.execThermalThrottle island temp s
  | .thermalShutdown island temp => Sys2Proof.Machine.execThermalShutdown island temp s
  | .getVersion req => Sys2Proof.Machine.execGetVersion req s
  | .getCapabilities req => Sys2Proof.Machine.execGetCapabilities req s
  | .negotiateAlgorithms req => Sys2Proof.Machine.execNegotiateAlgorithms req s
  | .getDigests req => Sys2Proof.Machine.execGetDigests req s
  | .getCertificate req => Sys2Proof.Machine.execGetCertificate req s
  | .challenge req => Sys2Proof.Machine.execChallenge req s
  | .getMeasurements req => Sys2Proof.Machine.execGetMeasurements req s
  | .keyExchange req => Sys2Proof.Machine.execKeyExchange req s
  | .finish req => Sys2Proof.Machine.execFinish req s
  | .endSession req => Sys2Proof.Machine.execEndSession req s
  | .ideKm stream data => Sys2Proof.Machine.execIdeKm stream data s
  | .registerWrite window offset v => Sys2Proof.Machine.execRegisterWrite window offset v s
  | .flit port bytes => Sys2Proof.Machine.execFlit port bytes s
  | .hostSnoop line => Sys2Proof.Machine.execHostSnoop line s
  | .saveRestoreCompletion id => Sys2Proof.Machine.execSaveRestoreCompletion id s
  | .reservedEncoding w => Sys2Proof.Machine.execReservedEncoding w s

end Sys2Proof.Machine
end

