-- ==== Sys2Proof/Machine/Schedule.lean ====
section
/-!
DEFINITION. One turn of the machine: a fragment's issue, an event, or the next clock; the order in which turns come when none is
named (R24); and the least context in which a given word is the next instruction.
-/
namespace Sys2Proof.Machine

/-! ## One turn -/

/-- A yield is remembered for the next clock (R206). -/
def noteYield (i : Instr) (k e : Nat) (t : State) : State :=
  match i with
  | .yield => if t.stalled then t else { t with yields := (t.clock, k, e) :: t.yields.filter fun y => t.clock ≤ y.1 + 1 }
  | _ => t
/-- A fragment that yielded in the last clock (R206). -/
def yielding (s : State) (k e : Nat) : Bool := s.yields.any fun y => y.1 + 1 == s.clock && y.2.1 == k && y.2.2 == e
/-- A fragment's turn: its next instruction is decoded and executed. -/
noncomputable def issueStep (s : State) (k e : Nat) : Out :=
  match prepare s k e with
  | .inl t => .next t
  | .inr (bytes, t) =>
    match decodeBytes bytes with
    | none => .next t
    | some (i, _) =>
      match exec i (opening t k e) with
      | .next u =>
        .next (if u.stalled then reclosed t u k e else noteYield i k e (issued k e (kget {} t.groups k) u))
      | .fault f => .fault f
      | .refused r => .refused r
/-- A turn named for a fragment: nothing when its quadrant has had its turn in this clock, or a later one of its core (R10, R27). -/
noncomputable def namedIssue (s : State) (core slot e : Nat) : Out :=
  let q := 4 * core + slot % 4
  if !quadrantOpen s q then .next { s with stalled := true }
  else match issueStep s (64 * core + slot) e with
    | .next t => .next (if t.stalled then t else passQuadrant t q)
    | o => o

/-! ## The clock -/

/-- A fragment is ready: its next instruction would issue now (R24). -/
noncomputable def ready (s : State) (k e : Nat) : Bool := match issueStep s k e with | .next t => !t.stalled | _ => true
/-- A ready fragment that has not issued in this clock ages; one that is not ready holds still (R15, R24). -/
noncomputable def ageFrags (s : State) : State :=
  { s with groups := kmap (fun k g => { g with table := kmap (fun e f =>
      if f.wait = .none ∧ f.lastIssue ≠ s.clock ∧ ready s k e then { f with age := f.age + 1 } else f) g.table }) s.groups }
/-- The next clock: ages rise, registers written by swrite take effect, waits that the device's own writes have ended end, ports send;
while no core's clock runs, what
the module does by itself (R452, R455, R462). -/
noncomputable def tick (s : State) : State :=
  match s.mgmt.boot with
  | .running =>
    let s := ageFrags (settleAll s)
    let s := applyLate { s with clock := s.clock + 1, cursor := [] }
    let s := wakeLate (drainBeacons (queuedBeacons s) s)
    settleRoutes (transmit (ageDirs (hostRequests s)))
  | _ => offTurn s

/-! ## Errors in storage (R54, R96, R419) -/

/-- A 64-bit word of a group's registers: of a vector register's lanes, or of two group-wide registers. -/
def registerWord (w : Nat) : Bool := w / 16 ≤ 95 || (128 ≤ w / 16 && w / 16 < 192 && w / 16 % 2 == 0 && w % 16 == 0)
/-- Add a word to a list of those in error. -/
def addError (w : Nat) (l : List Nat) : List Nat := if l.contains w then l else l ++ [w]
/-- An error arises: one bit stands until the word is read, which corrects and counts it, or replaced; two until the word is replaced, and
they end the block of a group whose other state they strike. In device memory the controller counts one bit as it arises (log 93). The host begins, or ceases, to answer accesses to a block of its space with an error (R402). -/
def upset (s : State) : Upset → State
  | .register k w double =>
    match kfind s.groups k with
    | none => s
    | some g =>
      if !registerWord w then s
      else if double then { s with groups := kput s.groups k { g with regErrors := addError w g.regErrors } }
      else { s with groups := kput s.groups k { g with regSingles := addError w g.regSingles } }
  | .accumulator k w double =>
    match kfind s.groups k with
    | none => s
    | some g =>
      if 512 * g.acch ≤ w then s
      else if double then { s with groups := kput s.groups k { g with accErrors := addError w g.accErrors } }
      else { s with groups := kput s.groups k { g with accSingles := addError w g.accSingles } }
  | .groupState k double =>
    match kfind s.groups k with
    | none => s
    | some g => if double then supervisorFault { s with groups := kput s.groups k { g with stateError := true } } g.block { code := 7, cause := 4 }
      else { s with groups := kput s.groups k { g with stateSingles := g.stateSingles + 1 } }
  | .scratch b w double =>
    match kfind s.blocks b with
    | none => s
    | some blk =>
      if blk.spsize ≤ 8 * w then s
      else if double then { s with blocks := kput s.blocks b { blk with spErrors := addError w blk.spErrors } }
      else { s with blocks := kput s.blocks b { blk with spSingles := addError w blk.spSingles } }
  | .memory n double =>
    if hbmFrames s.mgmt.config ≤ n / 1024 then s
    else if double then { s with badBlocks := addError n s.badBlocks }
    else
      let (st, c, _) := dramPlace s.mgmt.config (64 * n)
      { s with corrections := kmod s.corrections (32 * st + c) (· + 1) }
  | .storage => { s with mgmt := { s.mgmt with storageOk := false } }
  | .host n fails => { s with hostErrors := if fails then addError n s.hostErrors else s.hostErrors.filter (· != n) }
/-- One turn. -/
noncomputable def runTurn (s : State) : Turn → Out
  | .issue core slot e => namedIssue s core slot e
  | .event i => exec i s
  | .tick => .next (tick s)
  | .upset u => .next (upset s u)

/-! ## The default order -/

/-- The completion event of an operation. -/
noncomputable def completion (o : Op) : Instr :=
  match o.kind with
  | .load _ _ => .loadCompletion o.id
  | .store => .storeCompletion o.id
  | .atomic true => .atomicCompletion o.id
  | .atomic false => .reductionCompletion o.id
  | .reduction => .reductionCompletion o.id
  | .fence _ _ => .fenceCompletion o.id
  | .cinv _ _ _ => .cinvCompletion o.id
  | .matrix _ _ _ => .matrixCompletion o.id
  | .tile _ _ => .tileOpCompletion o.id
  | .cadd _ _ _ => .caddCompletion o.id
  | .spawn _ _ => .spawnCompletion o.id
  | .post _ _ => .postCompletion o.id
  | .beacon _ _ => .beaconCompletion o.id
  | .arm _ _ _ _ _ _ _ _ => .armCompletion o.id
  | .disarm _ => .disarmCompletion o.id
  | .saveRestore _ _ => .saveRestoreCompletion o.id
  | .peerWord _ _ => .loadCompletion o.id
/-- The event that takes a packet. -/
noncomputable def packetEvent (t n : Nat) : Instr :=
  match t with
  | 0 => .remoteRead n
  | 1 => .remoteWrite n
  | 2 => .remoteAtomic n
  | 3 => .remoteReduction n
  | 4 => .beacon n
  | 5 => .refusal n
  | 6 => .readResponse n
  | 7 => .acknowledgement n
  | 8 => .atomicResponse n
  | _ => .reservedPacket n
/-- Events of a group and its fragments. -/
noncomputable def groupEvents (k : Nat) (g : Group) : List Instr :=
  (if g.started then [] else [.groupStart k, .taskGroupStart k, .resumeStart k]) ++
  (g.table.flatMap fun (e, _) => [.trapEntry k e, .fragmentProceed k e]) ++ [.fragmentRotation k] ++ (if g.live = 0 then [.groupEnd k] else [])
/-- Events of a block and its copies. -/
noncomputable def blockEvents (n : Nat) (b : Block) : List Instr :=
  (match nextStage b with | some (_, i) => [.stageIssue n i] | none => []) ++ (b.copies.flatMap fun (c, _) => [.copyCompletion n c, .copySuspend n c, .copyAbort n c]) ++ [.watchdogExpiry n]
/-- The head entry's event. -/
noncomputable def queueEvent (s : State) (q : Nat) : List Instr :=
  if (queueAt s q).taskRetry then [.taskEntryRetry q]
  else match headEntry s q with
    | none => [.queueEntryNop q]
    | some e => match entryKind e with
      | 1 => [.queueEntryLaunch q]
      | 2 => [.queueEntryTask q]
      | 3 => [.queueEntryCairnArm q]
      | 4 => [.queueEntryCairnDisarm q]
      | _ => [.queueEntryNop q]
/-- Events that may be due, in the order in which they are tried: nothing here waits for the outside world. -/
noncomputable def dueEvents (s : State) : List Instr :=
  s.ops.map completion ++
  (s.inbox.zipIdx.map fun (p, n) => packetEvent p.2.type n) ++
  (s.groups.flatMap fun (k, g) => groupEvents k g) ++
  (s.blocks.flatMap fun (n, b) => blockEvents n b) ++
  (s.cores.flatMap fun (c, x) => (x.keystones.map fun q => Instr.keystoneJointIssue c q.1) ++
    (x.locks.filterMap fun l => if l.matrix then some (.bStreamEnd l.owner) else none) ++
    (if x.steal.isSome then [.stealArrival c] else if x.quarry = [] ∧ x.ringTail = [] then [] else [.quarryTake c])) ++
  (s.slices.flatMap fun (n, x) => (x.notes.map fun h => Instr.arrivalNote n h.1) ++
    (x.cairns.filterMap fun c => if c.2.owed = 0 then none else some (.cairnPostRetry (64 * n + c.1)))) ++
  (s.dies.flatMap fun (d, x) => x.conflicts.flatMap fun c => c.waiting.map fun h => Instr.invalidationAnswer d c.line h) ++
  (s.slices.flatMap fun (n, x) => x.conflicts.flatMap fun c => c.waiting.map fun h => Instr.invalidationAnswer (8 + n) c.line h) ++
  (s.dies.flatMap fun (d, x) => [Instr.clusterCommit d, .placementAttempt d] ++
    (x.bins.flatMap fun (b, y) => (if y.ring = [] then [] else [Instr.ringDrain (b / 65536) (b % 65536)]) ++ [.binTimerExpiry d (b / 65536) (b % 65536)])) ++
  (s.launches.map fun l => Instr.launchEnd l.1) ++
  (s.queues.flatMap fun (q, _) => if qReady s q || (queueAt s q).taskRetry then queueEvent s q else []) ++
  (s.parts.flatMap fun (p, x) => (if x.doorbell then [Instr.migrationDoorbell p] else []) ++ (if x.state = .draining then [.partitionDrained p] else [])) ++
  (s.migrations.map fun m => if m.bad then Instr.migrationAbort m.id else .migrationCopyDone m.id) ++
  ((List.range 32).flatMap fun d => if bitOf (sdctl s d) 8 then [Instr.domainDrainDone (dOwner s d) d, .domainCommitDone (dOwner s d) d] else []) ++
  (if s.mgmt.scrub.isSome then [.frameScrubDone] else []) ++
  (s.mgmt.mcpair.map fun m => Instr.timeSliceExpiry m.1) ++
  ((List.range 512).filterMap fun c => if s.cores.any (fun x => x.2.quarry != [] || x.2.ringTail != []) && candidates s (4 * c) == [] then some (.stealRequest c) else none)
/-- The first of some events that changes the machine. -/
noncomputable def firstChange (s : State) : List Instr → Option Out
  | [] => none
  | i :: is =>
    match exec i s with
    | .next t => if t = s then firstChange s is else some (.next t)
    | o => some o
/-- The first candidate of a quadrant whose instruction does not wait at issue. -/
noncomputable def issueFirst : List Cand → State → Out
  | [], s => .next s
  | c :: cs, s =>
    match issueStep s c.k c.e with
    | .next t => if t.stalled then issueFirst cs t else .next t
    | o => o
/-- The next turn when none is named: a due event; else an issue from the next quadrant of this clock; else the next clock. -/
noncomputable def defaultTurn (s : State) : Out :=
  if s.mgmt.boot ≠ .running then .next (offTurn s)
  else
  let s := settleAll s
  match firstChange s (dueEvents s) with
    | some o => o
    | none =>
      match nextQuadrant s with
      | some q =>
        let cs := candidates s q
        issueFirst (cs.filter (fun c => !yielding s c.k c.e) ++ cs.filter (fun c => yielding s c.k c.e)) (passQuadrant s q)
      | none => .next (tick s)

/-! ## A word as the next instruction -/

/-- A clause header that waits for nothing and sets no flag. -/
def plainHeader : Nat := 0x0FF000FF
/-- Bytes of a word at an address of device memory, with eight bytes of it written: the bits above `nbits` are zero. -/
def wordBytes (nbits w : Nat) : List Byte := leOut 8 (w % 2 ^ nbits)
/-- A fragment made ready at a program counter within a clause. -/
def readyAt (f : Frag) (pc : Word) : Frag :=
  { f with pc := pc, wait := .none, watch := none, arrive := .none, rewait := false, header := pc - 4, hword := word plainHeader, reconv := none }
/-- Tables, ownership and code of a partition in five frames from frame 1: virtual page 0 is frame 5, open to everything. -/
def firstTables : List Host.Cell :=
  cellsAt (65536 * 1) (leOut 8 (65536 * 2 + 1)) ++ cellsAt (65536 * 2) (leOut 8 (65536 * 3 + 1)) ++ cellsAt (65536 * 3) (leOut 8 (65536 * 4 + 1)) ++
  cellsAt (65536 * 4) (leOut 8 (15 * 2 ^ 52 + 65536 * 5 + 0x1F))
/-- A linear code record of 64 KiB from virtual address 0, with pread. -/
def firstCode : Rec := BitVec.ofNat 128 (65536 * 2 ^ 64 + 2 ^ 120)
/-- One block of one group at code address 4, in partition 0 on core 0, as a load from outside the machine leaves it. -/
def firstContext (s : State) : State :=
  let b : Block := { cluster := 1, groups := 1, lanes := 32, code := firstCode, alive := 1 }
  let g : Group := { gid := 1, block := 1, units := 12, acch := 16, live := 0xFFFFFFFF, started := true
                     table := [(0, readyAt { members := 0xFFFFFFFF, exec := 0xFFFFFFFF } 4)] }
  { s with
    groups := kput s.groups 0 g, blocks := kput s.blocks 1 b, clusters := kput s.clusters 1 { blocks := [1] }, fresh := max s.fresh 2
    cores := kput s.cores 0 { kget {} s.cores 0 with division := some (16, 24, 8) }
    parts := kput s.parts 0 { kget {} s.parts 0 with state := .active, key := 1, regs := kput (kget {} s.parts 0).regs 0x20B 65536 }
    mem := mputAll s.mem firstTables
    mgmt := { s.mgmt with mcpair := kput s.mgmt.mcpair 0 1, fowner := kputAll s.mgmt.fowner [(1, 0), (2, 0), (3, 0), (4, 0), (5, 0)] } }
/-- Where the current fragment's next instruction is fetched, if it may issue one: its core, slot and entry, and the place in device
memory. -/
def fetchPlace (s : State) : Option (Nat × Nat × Nat) :=
  let (k, e) := s.cur
  match envAt s k e with
  | none => none
  | some x =>
    let va := lBase (codeRec s x.b x.g.level) + x.f.pc.toNat
    if va % 65536 ≤ 65528 && !x.g.stateError && mayIssue s x.g e (readyAt x.f x.f.pc) then
      match judge s x.b.part x.g.level .fetch va (walk s x.b.part va) with
      | .ok 0 _ frame _ => some (k, e, 65536 * frame + va % 65536)
      | _ => none
    else none
/-- The machine with a word placed as the next instruction of the current fragment, or of the first context when there is none; what its
core and group hold of the code before goes. -/
def placeWord (s : State) (nbits w : Nat) : State :=
  let s := if (fetchPlace s).isSome then s else { firstContext s with cur := (0, 0) }
  match fetchPlace s with
  | none => s
  | some (k, e, a) =>
    let cells := cellsAt a (wordBytes nbits w)
    let s := rawWrite (closeSums s 0 cells) 0 cells
    let clean := fun (l : List Nat) => l.filter fun n => n != a / 64 && n != (a + 7) / 64
    { s with
      turns := .issue (k / 64) (k % 64) e :: s.turns
      cursor := kdel s.cursor (k / 64)
      past := s.past.filter fun q => !(a ≤ q.1 && q.1 < a + 8)
      poison := clean s.poison, badBlocks := clean s.badBlocks
      cores := kmod s.cores (k / 64) fun c => { c with tlb := [], icache := [] }
      dies := kmod s.dies (dieOf (k / 64)) fun d => { d with tlb := [], pointers := [] }
      groups := kmod s.groups k fun g => { g with fetched := [], table := kmod g.table e fun f => readyAt f f.pc } }

end Sys2Proof.Machine
end

