-- ==== Sys2Proof/Safety.lean ====
section
/-!
DEFINITION. The terms in which the statements are written: where an instruction executes, when it issues, what it may leave changed,
the results of each shape of instruction, and the invariant that every step keeps.
-/
namespace Sys2Proof.Machine

/-! ## Where and when an instruction executes -/

/-- The fragment whose instruction executes. -/
def At (s : State) (x : Env) : Prop := envAt s s.cur.1 s.cur.2 = some x
/-- No word read holds an error (R54): a double-bit error traps, and a single-bit error is corrected and counted besides. -/
abbrev Sound (x : Env) (reads : Reads) : Prop := errorWord x.g reads = none ∧ singleWords x.g reads = []
/-- No register among those read and written is pending, and no word read holds an error (R39, R54). -/
abbrev ReadyFor (x : Env) (srcs dsts : List Nat) (reads : Reads) : Prop :=
  (srcs ++ dsts).any x.g.pending.contains = false ∧ Sound x reads
/-- The same of an instruction that reads the same lanes of every source. -/
def Ready (x : Env) (srcs dsts : List Nat) (reads : Mask) : Prop := ReadyFor x srcs dsts (readsOf srcs reads)
/-- The instruction answers a next state, of which a predicate holds. -/
def Completes (i : Instr) (s : State) (P : State → Prop) : Prop := ∃ t, exec i s = .next t ∧ P t
/-- The instruction answers one given next state. -/
def Answers (i : Instr) (s t : State) : Prop := exec i s = .next t
/-- The codes of a guard field: predicate 0 is no register (R37). -/
def vguard (g : BitVec 3) : List Nat := if g = 0 then [] else [pcode g.toNat]
def gguard (g : BitVec 3) : List Nat := if g = 0 then [] else [gpcode g.toNat]
/-- The lanes a guarded vector instruction executes in: exec with its helper lanes, where the guard is true (R13, R171). -/
def guarded (x : Env) (g : BitVec 3) : Mask := x.active &&& pmask x.g g.toNat

/-! ## Frames -/

/-- A group that differs in its registers at most: vector and group-wide registers, predicates, and what the machine keeps about
them (shadows, provenances, error marks, verdicts). -/
def GroupRegs (g h : Group) : Prop :=
  h = { g with vregs := h.vregs, preds := h.preds, gregs := h.gregs, gpreds := h.gpreds, shadows := h.shadows, provs := h.provs
               regErrors := h.regErrors, regSingles := h.regSingles, verdicts := h.verdicts }
/-- A fragment that differs at most in its narrowings and in what the spin detector has seen. -/
def FragMarks (f h : Frag) : Prop := h = { f with narrow := h.narrow, loop := h.loop, spin := h.spin }
/-- A fragment advanced by some bytes; and one that must find a clause header at an address (R158). -/
def Frag.after (f : Frag) (n : Nat) : Frag := { f with pc := f.pc + word n }
def Frag.sent (f : Frag) (a : Word) (arr : Arrival) : Frag := { f with pc := a, arrive := arr }
/-- Nothing but registers of the executing group changes: every byte of memory, every other group, every block and everything else the
machine holds is as before; in the group, all but the registers; the fragment becomes `f`, its marks apart. -/
structure Only (s t : State) (x y : Env) (f : Frag) : Prop where
  here : envAt t x.k x.e = some y
  rest : t = { s with groups := t.groups, blocks := t.blocks }
  bytes : ∀ tier a, physByte t tier a = physByte s tier a
  others : ∀ k, k ≠ x.k → kfind t.groups k = kfind s.groups k
  block : y.b = x.b
  blocks : ∀ n, n ≠ x.g.block → kfind t.blocks n = kfind s.blocks n
  group : GroupRegs x.g { y.g with table := x.g.table }
  entries : ∀ e, e ≠ x.e → kfind y.g.table e = kfind x.g.table e
  frag : FragMarks f y.f

/-- The executing fragment's group and block may change; every byte of memory, every other group and block and everything else the
machine holds is as before. -/
structure Near (s t : State) (x y : Env) : Prop where
  here : envAt t x.k x.e = some y
  rest : t = { s with groups := t.groups, blocks := t.blocks }
  bytes : ∀ tier a, physByte t tier a = physByte s tier a
  others : ∀ k, k ≠ x.k → kfind t.groups k = kfind s.groups k
  blocks : ∀ n, n ≠ x.g.block → kfind t.blocks n = kfind s.blocks n
/-- Every register of a group holds what it held. -/
def RegsKept (g h : Group) : Prop :=
  h.vregs = g.vregs ∧ h.gregs = g.gregs ∧ h.preds = g.preds ∧ h.gpreds = g.gpreds ∧ h.brecs = g.brecs ∧ h.acc = g.acc ∧ h.tstatus = g.tstatus
/-- A group whose fragments no longer wait, but at a point where they reconverge: each issues its instruction again (R364). -/
def rewaited (s : State) (k : Nat) : State := { s with groups := kmod s.groups k (mapFrags rewait) }
/-- Device memory and the host's space are as before. -/
def MemKept (s t : State) : Prop := t.mem = s.mem ∧ t.hostMem = s.hostMem
/-- A trap taken at user level before any effect of its instruction (R341, R343): the record, the saved registers and fragment, the
handler's registers, and the handler's fragment at shvec. Memory, other groups and the block are as before. -/
def TrapTaken (s : State) (x : Env) (code cause : Nat) (mask detail : Word) (addr : Nat) (t : State) : Prop :=
  ∃ y, Near s t x y ∧ y.b = x.b ∧
    y.g.level = .supervisor ∧ y.f.pc = preg s x.b.part 0 ∧ y.f.fmt = 0 ∧ y.f.members = x.f.members ∧ y.f.exec = x.f.exec ∧
    y.g.strec = [word (code + 256 * cause + 65536 * x.e), x.f.pc, mask, peekWord s x.b x.g x.f.pc, word addr, word (addr / 2 ^ 32 % 2 ^ 25),
      detail, 0] ++ List.replicate 8 0 ∧
    (∀ r, greg y.g r = if r = 56 then word (code + 256 * cause + 65536 * x.e) else if 57 ≤ r ∧ r ≤ 63 then 0 else greg x.g r) ∧
    y.g.vregs = x.g.vregs ∧ y.g.preds = x.g.preds ∧ y.g.gpreds = x.g.gpreds &&& 0x3F#8 ∧
    (∀ b, b < 8 → brec y.g b = if 4 ≤ b then pregRec s x.b.part (0x10 + 4 * (b - 4)) else brec x.g b) ∧
    (∃ k, y.g.bank = some k ∧ k.gvals = (List.range' 56 8).map (fun r => (r, greg x.g r)) ∧ k.gpreds = x.g.gpreds ∧
      k.recs = (List.range' 4 4).map (fun b => (b, brec x.g b)) ∧ FragMarks x.f k.frag)
/-- The end of a block: neither it nor a group of it is left (R32, R348). -/
def BlockGone (t : State) (b : Nat) : Prop := kfind t.blocks b = none ∧ ∀ k g, kfind t.groups k = some g → g.block ≠ b

/-! ## Results -/

/-- One vector register takes values in the lanes of a mask; every other register, lane, predicate and flag is as before. -/
def VecAt (s : State) (x : Env) (d : Nat) (m : Mask) (val : Nat → Word) (f : Frag) (t : State) : Prop :=
  ∃ y, Only s t x y f ∧ (∀ r l, l < 32 → vreg y.g r l = if r = d ∧ inMask m l then val l else vreg x.g r l) ∧
    y.g.gregs = x.g.gregs ∧ y.g.preds = x.g.preds ∧ y.g.gpreds = x.g.gpreds
def VecDone (s : State) (x : Env) (d : Nat) (m : Mask) (val : Nat → Word) (len : Nat) (t : State) : Prop := VecAt s x d m val (x.f.after len) t
/-- An even-odd pair of vector registers takes the low and the high word of 64-bit values. -/
def PairDone (s : State) (x : Env) (d : Nat) (m : Mask) (val : Nat → Nat) (t : State) : Prop :=
  ∃ y, Only s t x y (x.f.after 4) ∧ (∀ r l, l < 32 → vreg y.g r l =
      if inMask m l ∧ r = d then word (val l) else if inMask m l ∧ r = d + 1 then word (val l / 2 ^ 32) else vreg x.g r l) ∧
    y.g.gregs = x.g.gregs ∧ y.g.preds = x.g.preds ∧ y.g.gpreds = x.g.gpreds
/-- One group-wide register takes a value, or none does; everything else is as before. -/
def GrpDone (s : State) (x : Env) (writes : Bool) (d : Nat) (v : Word) (len : Nat) (t : State) : Prop :=
  ∃ y, Only s t x y (x.f.after len) ∧ (∀ r, greg y.g r = if writes = true ∧ r = d then v else greg x.g r) ∧
    y.g.vregs = x.g.vregs ∧ y.g.preds = x.g.preds ∧ y.g.gpreds = x.g.gpreds
/-- Group-wide registers take the values of a table; a register the table does not name keeps its own. -/
def GrpsDone (s : State) (x : Env) (tab : KMap Word) (len : Nat) (t : State) : Prop :=
  ∃ y, Only s t x y (x.f.after len) ∧ (∀ r, greg y.g r = (kfind tab r).getD (greg x.g r)) ∧
    y.g.vregs = x.g.vregs ∧ y.g.preds = x.g.preds ∧ y.g.gpreds = x.g.gpreds
/-- One vector predicate takes values in the lanes of a mask; predicate 0 takes none and reads true (R37). -/
def PredDone (s : State) (x : Env) (p : Nat) (m : Mask) (val : Nat → Bool) (len : Nat) (t : State) : Prop :=
  ∃ y, Only s t x y (x.f.after len) ∧ (∀ q l, l < 32 → inMask (pmask y.g q) l = if q = p ∧ p ≠ 0 ∧ inMask m l then val l else inMask (pmask x.g q) l) ∧
    y.g.vregs = x.g.vregs ∧ y.g.gregs = x.g.gregs ∧ y.g.gpreds = x.g.gpreds
/-- One group predicate takes a value, or none does; predicate 0 takes none and reads true (R37). -/
def GPredDone (s : State) (x : Env) (writes : Bool) (p : Nat) (v : Bool) (len : Nat) (t : State) : Prop :=
  ∃ y, Only s t x y (x.f.after len) ∧ (∀ q, q < 8 → gpred y.g q = if writes = true ∧ q = p ∧ p ≠ 0 then v else gpred x.g q) ∧
    y.g.vregs = x.g.vregs ∧ y.g.gregs = x.g.gregs ∧ y.g.preds = x.g.preds
/-- No register changes; the fragment becomes `f`. -/
def FragDone (s : State) (x : Env) (f : Frag) (t : State) : Prop :=
  ∃ y, Only s t x y f ∧ y.g.vregs = x.g.vregs ∧ y.g.gregs = x.g.gregs ∧ y.g.preds = x.g.preds ∧ y.g.gpreds = x.g.gpreds
/-- The instruction only advances. -/
def NopDone (s : State) (x : Env) (len : Nat) (t : State) : Prop := FragDone s x (x.f.after len) t

/-! ## What an instruction leaves beside its values (R57 to R66) -/

/-- The shadow a register takes with a result interval: a pinned one keeps its pin while the hull stays within it; a write of every live lane
replaces it; any other takes the hull (R60, R68). -/
def shadowTakes (old : Shadow) (full : Bool) (i : Iv) : Shadow :=
  let h : Iv := ⟨min old.lo i.lo, max old.hi i.hi⟩
  if old.pin then (if h = ⟨old.lo, old.hi⟩ then old else ⟨h.lo, h.hi, false⟩)
  else if full then ⟨i.lo, i.hi, false⟩ else ⟨h.lo, h.hi, false⟩
/-- A provenance that compares a register (R63). -/
def Compares (p : Prov) (c : Nat) : Prop := p.valid = true ∧ (p.ra = c ∨ (p.useImm = false ∧ p.rb = c))
/-- A vector write of a result interval to the lanes of a mask: the shadow and the narrowing of its register follow the live lanes among
them, no other shadow or narrowing changes, and every provenance that compares the register becomes invalid (R60, R61, R63, R68). -/
def VecShadow (x : Env) (d : Nat) (m : Mask) (i : Iv) (t : State) : Prop :=
  let ws := m &&& x.g.live
  ∃ y, envAt t x.k x.e = some y ∧
    (∀ c, c ≠ 127 → shadow y.g c = if c = d ∧ ws ≠ 0 then shadowTakes (shadow x.g d) (ws == x.g.live) i else shadow x.g c) ∧
    (∀ c, y.f.narrow.find? (·.reg == c) = (x.f.narrow.find? (·.reg == c)).map fun n =>
      if c = d ∧ ws ≠ 0 then (if ws = x.f.members then ⟨d, i.lo, i.hi⟩ else ⟨d, min n.lo i.lo, max n.hi i.hi⟩) else n) ∧
    ∀ n, (m ≠ 0 → Compares (kget {} x.g.provs n) d → kget {} y.g.provs n = {}) ∧
      (m = 0 ∨ ¬ Compares (kget {} x.g.provs n) d → kget {} y.g.provs n = kget {} x.g.provs n)
/-- The same of a group-wide write, made or not; a provenance that a handler has set aside (30 and 31) names the user's g56 to g63, not the
handler's (R341). -/
def GrpShadow (x : Env) (writes : Bool) (d : Nat) (i : Iv) (t : State) : Prop :=
  ∃ y, envAt t x.k x.e = some y ∧
    (∀ c, c ≠ 127 → shadow y.g c = if writes = true ∧ c = 128 + d then shadowTakes (shadow x.g (128 + d)) true i else shadow x.g c) ∧
    (∀ c, y.f.narrow.find? (·.reg == c) = x.f.narrow.find? (·.reg == c)) ∧
    ∀ n, n < 16 → (writes = true → Compares (kget {} x.g.provs n) (128 + d) → kget {} y.g.provs n = {}) ∧
      (writes = false ∨ ¬ Compares (kget {} x.g.provs n) (128 + d) → kget {} y.g.provs n = kget {} x.g.provs n)
/-- One predicate's provenance takes a value; every other is as before. -/
def ProvDone (x : Env) (n : Nat) (v : Prov) (t : State) : Prop :=
  ∃ y, envAt t x.k x.e = some y ∧ ∀ q, kget {} y.g.provs q = if q = n then v else kget {} x.g.provs q
/-- The interval of a register for which a relation to another is known, where the table of R64 gives one. -/
def refined (r : Rel) (signed : Bool) (x y : Iv) : Option Iv :=
  match r with
  | .lt => if signed then some ⟨x.lo, min x.hi (y.hi - 1)⟩ else if 0 ≤ y.lo then some ⟨max x.lo 0, min x.hi (y.hi - 1)⟩ else none
  | .le => if signed then some ⟨x.lo, min x.hi y.hi⟩ else if 0 ≤ y.lo then some ⟨max x.lo 0, min x.hi y.hi⟩ else none
  | .gt => if signed = true ∨ (0 ≤ x.lo ∧ 0 ≤ y.lo) then some ⟨max x.lo (y.lo + 1), x.hi⟩ else none
  | .ge => if signed = true ∨ (0 ≤ x.lo ∧ 0 ≤ y.lo) then some ⟨max x.lo y.lo, x.hi⟩ else none
  | .eq => if signed = true ∨ 0 ≤ y.lo then some ⟨max x.lo y.lo, min x.hi y.hi⟩ else none
  | .ne => if (signed = true ∨ 0 ≤ y.lo) ∧ y.lo = y.hi then
      (if y.lo = x.lo then some ⟨x.lo + 1, x.hi⟩ else if y.lo = x.hi then some ⟨x.lo, x.hi - 1⟩ else none) else none
/-- The relation that holds where another does not, and the one that holds the other way round. -/
def opposite : Rel → Rel
  | .eq => .ne | .ne => .eq | .lt => .ge | .ge => .lt | .gt => .le | .le => .gt
def swapped : Rel → Rel
  | .eq => .eq | .ne => .ne | .lt => .gt | .gt => .lt | .le => .ge | .ge => .le
/-- The views of the two operands of a provenance. -/
def firstView (x : Env) (p : Prov) : Iv := view x.g x.f p.ra
def secondView (x : Env) (p : Prov) : Iv := if p.useImm then ⟨p.imm.toInt, p.imm.toInt⟩ else view x.g x.f p.rb
/-- What a fragment's narrowings become when a relation is known to hold: each compared vector register has its own (R64, R65). -/
def NarrowedBy (x : Env) (p : Prov) (r : Rel) (f : Frag) : Prop :=
  (p.useImm = true ∨ p.rb ≠ p.ra) →
  (∀ i, p.ra ≤ 95 → refined r p.signed (firstView x p) (secondView x p) = some i → i.lo ≤ i.hi →
    f.narrow.find? (·.reg == p.ra) = some ⟨p.ra, i.lo, i.hi⟩) ∧
  (∀ i, p.useImm = false → p.rb ≤ 95 → refined (swapped r) p.signed (secondView x p) (firstView x p) = some i → i.lo ≤ i.hi →
    f.narrow.find? (·.reg == p.rb) = some ⟨p.rb, i.lo, i.hi⟩) ∧
  (refined r p.signed (firstView x p) (secondView x p) = none → p.useImm = true →
    ∀ c, f.narrow.find? (·.reg == c) = x.f.narrow.find? (·.reg == c))

/-! ## When each shape of instruction issues: its fields and its registers -/

def Vec2Ok (x : Env) (b a d : BitVec 7) (g : BitVec 3) (prior : Bool) : Prop :=
  (dstOk x.g d && srcOk x.g a && srcOk x.g b) = true ∧
  Ready x ([vcode a.toNat, vcode b.toNat] ++ (if prior then [d.toNat] else []) ++ vguard g) [d.toNat] x.f.exec
def Grp2Ok (x : Env) (b a d : BitVec 7) (g : BitVec 3) (prior : Bool) : Prop :=
  (gdOk d && gsOk a && gsOk b) = true ∧
  Ready x ([gcode a.toNat, gcode b.toNat] ++ (if prior then [128 + d.toNat] else []) ++ gguard g) [128 + d.toNat] x.f.exec
def Vec1Ok (x : Env) (a d : BitVec 7) (g : BitVec 3) : Prop :=
  (dstOk x.g d && srcOk x.g a) = true ∧ Ready x ([vcode a.toNat] ++ vguard g) [d.toNat] x.f.exec
def Grp1Ok (x : Env) (a d : BitVec 7) (g : BitVec 3) : Prop :=
  (gdOk d && gsOk a) = true ∧ Ready x ([gcode a.toNat] ++ gguard g) [128 + d.toNat] x.f.exec
def Vec64Ok (x : Env) (b a d : BitVec 7) (g : BitVec 3) : Prop :=
  (dstPairOk x.g d && srcPairOk x.g a && srcPairOk x.g b) = true ∧
  Ready x ([vcode a.toNat, vcodeHi a.toNat, vcode b.toNat, vcodeHi b.toNat] ++ vguard g) [d.toNat, d.toNat + 1] x.f.exec
def Grp64Ok (x : Env) (b a d : BitVec 7) (g : BitVec 3) : Prop :=
  (gdPairOk d && gsPairOk a && gsPairOk b) = true ∧
  Ready x ([gcode a.toNat, gcode (pairHi a.toNat), gcode b.toNat, gcode (pairHi b.toNat)] ++ gguard g) [128 + d.toNat, 128 + (d.toNat + 1)] x.f.exec
def VecBfiOk (x : Env) (b a d : BitVec 7) (g : BitVec 3) : Prop :=
  (dstOk x.g d && srcOk x.g a && srcPairOk x.g b) = true ∧ Ready x ([vcode a.toNat, vcode b.toNat, vcodeHi b.toNat] ++ vguard g) [d.toNat] x.f.exec
def GrpBfiOk (x : Env) (b a d : BitVec 7) (g : BitVec 3) : Prop :=
  (gdOk d && gsOk a && gsPairOk b) = true ∧ Ready x ([gcode a.toNat, gcode b.toNat, gcode (pairHi b.toNat)] ++ gguard g) [128 + d.toNat] x.f.exec
def HalfOk (x : Env) (s2 : Option Nat) (d : Nat) (readD : Bool) : Prop :=
  (nameable x.g d && (match s2 with | some r => nameable x.g r | none => true)) = true ∧
  Ready x ((if readD then [d] else []) ++ (match s2 with | some r => [r] | none => [])) [d] x.f.exec
def VecCmpOk (x : Env) (b : Option (BitVec 7)) (a : BitVec 7) (c : BitVec 4) (p g : BitVec 3) : Prop :=
  (c.toNat ≤ 9 && srcOk x.g a && (match b with | some r => srcOk x.g r | none => true)) = true ∧
  Ready x ([vcode a.toNat] ++ (match b with | some r => [vcode r.toNat] | none => []) ++ vguard g) [pcode p.toNat] x.f.exec
def GrpCmpOk (x : Env) (b : Option (BitVec 7)) (a : BitVec 7) (c : BitVec 4) (p g : BitVec 3) : Prop :=
  (c.toNat ≤ 9 && gsOk a && (match b with | some r => gsOk r | none => true)) = true ∧
  Ready x ([gcode a.toNat] ++ (match b with | some r => [gcode r.toNat] | none => []) ++ gguard g) [gpcode p.toNat] x.f.exec
/-- An instruction with plain source and destination codes and a check of its fields. -/
def PlainOk (x : Env) (ok : Bool) (srcs dsts : List Nat) : Prop := ok = true ∧ Ready x srcs dsts x.f.exec
/-- A memory instruction: no earlier acquire or fence holds it (R229, R230). -/
def AccessOk (x : Env) (ok : Bool) (srcs dsts : List Nat) : Prop := PlainOk x ok srcs dsts ∧ accessHeld x = false
/-- One with a completion point: its flag has room besides (R44). -/
def OpOk (x : Env) (ok : Bool) (srcs dsts : List Nat) (slot : BitVec 1) : Prop := AccessOk x ok srcs dsts ∧ flagFull x slot = false
/-- A load, store or read-modify-write: it reads the registers of the lanes it acts for, and with none no register of it (R216); no earlier
acquire or fence holds it (R229, R230), and its flag has room (R44). -/
def MemOk (x : Env) (wide ok : Bool) (srcs dsts : List Nat) (slot : BitVec 1) : Prop :=
  ok = true ∧ (srcs ++ dsts).any x.g.pending.contains = false ∧ (x.acting wide ≠ 0 → Sound x (readsOf srcs (x.acting wide))) ∧
  accessHeld x = false ∧ flagFull x slot = false
/-- The registers such an instruction reads through their views. -/
def memReads (x : Env) (wide : Bool) (srcs : List Nat) : List Nat := if x.acting wide = 0 then [] else srcs
/-- The fragment after its sources have been read through their views (R57, R65). -/
def afterReads (x : Env) (srcs : List Nat) : Env := { x with f := srcs.foldl touch x.f }

/-! ## Memory instructions and the operations they start -/

/-- No exact sum is open, no join counter has a waiter, no cairn stands armed, no write of the device is held and the host answers no access
with an error: a write sets off nothing of theirs. -/
def Quiet (s : State) : Prop :=
  (∀ q ∈ s.slices, q.2.sums = [] ∧ q.2.waiters = [] ∧ q.2.filters = []) ∧ (∀ q ∈ s.parts, q.2.held = []) ∧ s.hostErrors = []
/-- An access passes every row of R219 in every lane, and no byte of it lies on a peer: `y` stands after the plumb stage, `ck` after the
rest. -/
structure Reached (x : Env) (r : Rec) (b idx : Nat) (off : Int) (n : Nat) (who : List Nat) (val : Nat → Word) (perm : Bool)
    (kind : AccKind) (sc align : Nat) (data wide : Bool) (es : List (Nat × Nat × Option Int)) (y : Env) (ck : Checked) : Prop where
  plumb : plumbed x r b idx off n who val false perm = .inr (es, y)
  rows : check y (inScratch r) kind sc align data (piecesOf r es) wide = .inr ck
  clean : ck.trap = none ∧ ck.failed = 0 ∧ ck.parked = 0
  near : ∀ q ∈ ck.segs, ∀ g ∈ q.2, g.tier ≠ 2
/-- A handler has begun in a fragment (R341): supervisor level, the fragment at shvec, and the first words of the trap record. -/
structure Handled (s : State) (part : Nat) (w0 pc mask : Word) (y : Env) : Prop where
  level : y.g.level = .supervisor
  at' : y.f.pc = preg s part 0
  words : y.g.strec.take 3 = [w0, pc, mask]
/-- A form of memory access: the instruction; what it does; its registers (none where the record or the fit of R217 fails), index, record,
offset and number of elements; the record's permission; the scope, the alignment and the data return of R219; the lanes it acts for with
their indices, and the pieces of its elements. `issues` says when it issues (R39, R44, R216, R229). -/
structure Form where
  i : Instr
  kind : AccKind
  wide : Bool
  codes : Option (List Nat)
  idx : Nat
  srcs : List Nat
  r : Rec
  b : Nat
  off : Int
  n : Nat
  perm : Bool
  sc : Nat
  align : Nat
  data : Bool
  who : List Nat
  val : Nat → Word
  force : Bool
  pieces : List (Nat × Nat × Option Int) → List Piece
  issues : Prop
/-- The access's elements, at the plumb stage (R71, R72), and with the permission of its record. -/
def Form.plumb (f : Form) (x : Env) := Machine.plumb (afterReads x f.srcs) f.r f.b f.idx f.off f.n f.who f.val f.force
def Form.plumbed (f : Form) (x : Env) := Machine.plumbed (afterReads x f.srcs) f.r f.b f.idx f.off f.n f.who f.val f.force f.perm
/-- Rows 5 to 10 of R219 for its elements. -/
def Form.check (f : Form) (y : Env) (es : List (Nat × Nat × Option Int)) : Sum State Checked :=
  Machine.check y (inScratch f.r) f.kind f.sc f.align f.data (f.pieces es) f.wide

def loadForm (x : Env) (sl : BitVec 1) (i : Instr) (wide : Bool) (b : BitVec 3) (iv d : BitVec 7) (off : Int) (n : Nat) (acq : Option Nat) : Form :=
  let r := brec x.g b.toNat
  let code := if wide then gcode d.toNat else d.toNat
  let idx := if wide then gcode iv.toNat else vcode iv.toNat
  let codes := if validRec r then fitCodes x.g code (recSize r) n else none
  { i := i, kind := .load, wide := wide, codes := codes, idx := idx, srcs := [idx], r := r, b := b.toNat, off := off, n := n, perm := pread r
    sc := acq.getD 0, align := 1, data := true, who := lanesOf (x.acting wide), val := fun l => if wide then gsrc x.g iv.toNat else vsrc x.g iv.toNat l
    force := false, pieces := piecesOf r
    issues := x.acting wide ≠ 0 ∧ MemOk x wide ((if wide then gdOk d && gsOk iv else dstOk x.g d && srcOk x.g iv) &&
      (match acq with | some c => c ≤ 4 | none => true)) [idx] (codes.getD [code]) sl }
def storeForm (x : Env) (sl : BitVec 1) (i : Instr) (wide : Bool) (b : BitVec 3) (iv d : BitVec 7) (off : Int) (n : Nat) (rel : Option Nat) : Form :=
  let r := brec x.g b.toNat
  let code := if wide then gcode d.toNat else vcode d.toNat
  let idx := if wide then gcode iv.toNat else vcode iv.toNat
  let codes := if validRec r then fitCodes x.g code (recSize r) n else none
  { i := i, kind := .store, wide := wide, codes := codes, idx := idx, srcs := idx :: codes.getD [code], r := r, b := b.toNat, off := off, n := n, perm := pwrite r
    sc := rel.getD 0, align := 1, data := false, who := lanesOf (x.acting wide), val := fun l => if wide then gsrc x.g iv.toNat else vsrc x.g iv.toNat l
    force := false, pieces := piecesOf r
    issues := x.acting wide ≠ 0 ∧ MemOk x wide ((if wide then gsOk d && gsOk iv else srcOk x.g d && srcOk x.g iv) &&
      (match rel with | some c => c ≤ 4 | none => true)) (idx :: codes.getD [code]) [] sl ∧
      (rel.isSome = true → releaseHeld x = false ∧ (rel = some 4 → remoteHeld x = false)) }
def rmwForm (x : Env) (sl cr : BitVec 1) (i : Instr) (k : RmwKind) (ret wide : Bool) (p : BitVec 4) (b : BitVec 3) (iv d : BitVec 7) : Form :=
  let r := brec x.g b.toNat
  let cas := p.toNat = 9
  let code := if wide then gcode d.toNat else if ret then d.toNat else vcode d.toNat
  let idx := if wide then gcode iv.toNat else vcode iv.toNat
  let e := recSize r
  let codes := if validRec r && (opSizes p.toNat).contains e && !(k = .det && inScratch r) && !(cas && e == 8 && d.toNat % 4 != 0)
    then fitCodes x.g code e (if cas then 2 else 1) else none
  { i := i, kind := .rmw, wide := wide, codes := codes, idx := idx, srcs := idx :: codes.getD [code], r := r, b := b.toNat, off := 0, n := 1, perm := patom r
    sc := if cr = 0 then 3 else 4, align := e, data := ret, who := lanesOf (x.acting wide)
    val := fun l => if wide then gsrc x.g iv.toNat else vsrc x.g iv.toNat l, force := false, pieces := piecesOf r
    issues := x.acting wide ≠ 0 ∧ MemOk x wide
      ((if wide then (if ret then gdOk d else gsOk d) else if ret then dstOk x.g d else srcOk x.g d) && (if wide then gsOk iv else srcOk x.g iv) &&
        opAllowed k p.toNat && !(decide cas && d.toNat % 2 == 1)) (idx :: codes.getD [code]) (if ret then (codes.getD [code]).take (regsPer e) else []) sl }
def spillForm (x : Env) (sl : BitVec 1) (i : Instr) (st : Bool) (b : BitVec 3) (iv d : BitVec 7) : Form :=
  let r := brec x.g b.toNat
  let idx := gcode iv.toNat
  let srcs := if st then [idx, vcode d.toNat] else [idx]
  { i := i, kind := if st then .store else .load, wide := false, codes := if spillRec r then some [] else none, idx := idx, srcs := srcs, r := r, b := b.toNat
    off := 0, n := 1, perm := if st then pwrite r else pread r, sc := 0, align := 1, data := !st, who := [0], val := fun _ => gsrc x.g iv.toNat, force := false
    pieces := fun es => match es with | (_, _, some k) :: _ => slotPieces (elemAt r k) (lanesOf (x.acting false)) | _ => []
    issues := x.acting false ≠ 0 ∧ MemOk x false (if st then srcOk x.g d && gsOk iv else dstOk x.g d && gsOk iv) srcs (if st then [] else [d.toNat]) sl }
/-- A control word: one element of a linear record of eight-byte elements, under bounds mode trap (R464); `plain` tells that a counter operand
sets no reserved bit (R280). -/
def wordForm (i : Instr) (kind : AccKind) (b idx : Nat) (v : Word) (x : Env) (srcs : List Nat) (perm : Rec → Bool) (issues : Prop) (plain : Bool := true) : Form :=
  let r := brec x.g b
  { i := i, kind := kind, wide := true, codes := if plain && validRec r && counterRec r then some [] else none, idx := idx, srcs := srcs, r := r, b := b, off := 0, n := 1
    perm := perm r, sc := if kind = .store then 0 else 3, align := 8, data := kind != .store, who := [0], val := fun _ => v, force := true
    pieces := piecesOf r, issues := issues }
/-- The forms of the loads, stores, atomics, reductions and spills, and those of the memory barriers and counters (R212 to R235, R280). -/
def IsAccess (x : Env) (sl cr rt : BitVec 1) (o : BitVec 6) (c : BitVec 3) (p : BitVec 4) (i d : BitVec 7) (b : BitVec 3) (f : Form) : Prop :=
  f ∈ [loadForm x sl (.ldX1 sl o i d b) false b i d o.toInt 1 none, loadForm x sl (.ldX2 sl o i d b) false b i d o.toInt 2 none,
   loadForm x sl (.ldX4 sl o i d b) false b i d o.toInt 4 none, loadForm x sl (.ldg sl o i d b) true b i d o.toInt 1 none,
   loadForm x sl (.ldAcq sl c i d b) false b i d 0 1 (some c.toNat),
   storeForm x sl (.stX1 sl o i d b) false b i d o.toInt 1 none, storeForm x sl (.stX2 sl o i d b) false b i d o.toInt 2 none,
   storeForm x sl (.stX4 sl o i d b) false b i d o.toInt 4 none, storeForm x sl (.stg sl o i d b) true b i d o.toInt 1 none,
   storeForm x sl (.stRel sl c i d b) false b i d 0 1 (some c.toNat),
   rmwForm x sl cr (.atom sl cr rt p i d b) .atom (rt == 1) false p b i d, rmwForm x sl cr (.atomg sl cr rt p i d b) .atom (rt == 1) true p b i d,
   rmwForm x sl cr (.red sl cr p i d b) .red false false p b i d, rmwForm x sl cr (.redDet sl cr p i d b) .det false false p b i d,
   spillForm x sl (.stSpill sl i d b) true b i d, spillForm x sl (.ldSpill sl i d b) false b i d]
def IsWord (x : Env) (sl : BitVec 1) (c i d : BitVec 7) (b p : BitVec 3) (f : Form) : Prop :=
  let w := greg x.g c.toNat
  let codes := (List.range 4).map fun n => 128 + c.toNat + n
  let counter := fun (e : Instr) (k : AccKind) (srcs : List Nat) (perm : Rec → Bool) (ready : Prop) =>
    wordForm e k (wbits w 2 0) (128 + (c.toNat + 1)) (greg x.g (c.toNat + 1)) x srcs perm ready (wbits w 31 3 == 0)
  f ∈ [wordForm (.mbarInit sl i d b) .store b.toNat (gcode i.toNat) (gsrc x.g i.toNat) x [gcode i.toNat, gcode d.toNat] pwrite
     (AccessOk x (gsOk i && gsOk d) [gcode i.toNat, gcode d.toNat] []),
   wordForm (.mbarArrive sl i d b) .rmw b.toNat (gcode i.toNat) (gsrc x.g i.toNat) x [gcode i.toNat] patom
     (AccessOk x (gsOk i && gdOk d) [gcode i.toNat] [128 + d.toNat] ∧ releaseHeld x = false),
   wordForm (.mbarWait sl i d b) .load b.toNat (gcode i.toNat) (gsrc x.g i.toNat) x [gcode i.toNat, gcode d.toNat] pread
     (AccessOk x (gsOk i && gsOk d) [gcode i.toNat, gcode d.toNat] []),
   wordForm (.mbarTest sl i d b) .load b.toNat (gcode i.toNat) (gsrc x.g i.toNat) x [gcode i.toNat, 128 + d.toNat] pread
     (AccessOk x (gsOk i && gdOk d) [gcode i.toNat, 128 + d.toNat] [128 + d.toNat]),
   counter (.cwait sl c p) .load (codes ++ gguard p) pread (AccessOk x (gblockOk 4 c) (codes ++ gguard p) [] ∧ gpred x.g p.toNat = true),
   counter (.ctest sl c p) .load codes pread (AccessOk x (gblockOk 4 c) codes [gpcode p.toNat]),
   counter (.cadd sl c) .rmw codes patom (OpOk x (gblockOk 4 c) codes [] sl),
   counter (.join sl c p) .rmw (codes ++ gguard p) patom
     (AccessOk x (gblockOk 4 c) (codes ++ gguard p) [] ∧ gpred x.g p.toNat = true ∧ x.f.crowded = false ∧ inScratch (brec x.g (wbits w 2 0)) = false)]
/-- The lowest address among the pieces that a test catches. -/
def LowestOf (ps : List Piece) (bad : Piece → Bool) (a : Nat) : Prop := ∃ p ∈ ps, bad p = true ∧ p.addr.toNat = a ∧ ∀ q ∈ ps, bad q = true → p.addr ≤ q.addr
/-- A memory trap that left lanes unfinished (R220, R343): the handler has begun; its record names the lanes left, and the fragment set aside
holds what a replay has still to do, with the bytes that completed lanes have written. -/
structure Unfinished (s : State) (x : Env) (tr : Trap) (left : Mask) (log : List (Nat × Nat)) (y : Env) : Prop where
  begun : Handled s x.b.part (word (tr.code + 256 * tr.cause + 65536 * x.e)) x.f.pc left y
  addr : y.g.strec.getD 4 0 = word tr.addr
  bank : ∃ k, y.g.bank = some k ∧ k.frag.pc = x.f.pc ∧ k.frag.replay = some ⟨left, log⟩ ∧ k.trap.kind = .partly ∧ k.trap.replay = some ⟨left, log⟩ ∧ k.trap.next = x.f.pc + 4 ∧
    k.gvals = (List.range' 56 8).map fun r => (r, greg x.g r)
  gregs : ∀ r, r < 56 → greg y.g r = greg x.g r
  pending : y.g.pending = x.g.pending
  flags : ∀ f, kget 0 y.g.flags f = kget 0 x.g.flags f

/-- An operation has been started and the fragment has gone on: it stands last among the operations of `u`; its flag is one higher, its
destinations are pending, and every register is as before. -/
structure Started (u : State) (x : Env) (o : Op) (t : State) : Prop where
  ops : t.ops = u.ops ++ [o]
  own : o.id = u.fresh ∧ o.group = x.k ∧ o.gid = x.g.gid ∧ o.entry = x.e ∧ o.pc = x.f.pc ∧ o.tags = [] ∧ o.trap = none ∧ o.park = none
  env : ∃ z, envAt t x.k x.e = some z ∧ z.f.pc = x.f.pc + 4 ∧ z.f.members = x.f.members ∧ z.f.exec = x.f.exec ∧
    z.g.pending = x.g.pending ++ o.pend ∧ RegsKept x.g z.g ∧
    ∀ f, kget 0 z.g.flags f = kget 0 x.g.flags f + if f = o.flag ∧ f < 12 then 1 else 0
/-- The registers a load fills: the words of every element read, and zero for every masked one (R72, R217, R218). -/
def loadTable (y : Env) (r : Rec) (key : Nat → Nat → Nat → Nat) (es : List (Nat × Nat × Option Int)) (done : List (Piece × List Seg)) : KMap Word :=
  kputAll [] ((es.flatMap fun q => if q.2.2.isNone then (List.range (regsPer (recSize r))).map fun w => (key q.1 q.2.1 w, (0 : Word)) else []) ++
    done.flatMap fun q => (loadWords (pieceRead y q.2) (signed8 r)).zipIdx.map fun w => (key q.1.lane q.1.j w.2, w.1))
/-- The bytes of element `j` of a lane: its registers, lowest first, cut to the element's size (R5, R217). -/
def elementBytes (g : Group) (codes : List Nat) (e l j : Nat) : List Byte :=
  ((List.range (regsPer e)).flatMap fun q => leOut 4 (codeVal g (codes.getD (j * regsPer e + q) 127) l).toNat).take e
/-- What a byte reads as after a list of writes: the last write to it, or what stood there. -/
def afterPuts (ps : List Put) (tier a : Nat) (old : Byte) : Byte :=
  ((ps.reverse.find? fun p => p.tier == tier && p.pa == a).map (·.b)).getD old
/-- Memory and the block's scratchpad hold the bytes of a list of writes, and everywhere else what they held in `y`. -/
def PutsDone (y : Env) (ps : List Put) (t : State) : Prop :=
  (∀ tier a, tier ≤ 1 → physByte t tier a = afterPuts ps tier a (physByte y.s tier a)) ∧
  ∃ b, kfind t.blocks y.g.block = some b ∧ ∀ a, mget b.scratch a = afterPuts ps 3 a (mget y.b.scratch a)
/-- A word of eight bytes has been written at a place, and nothing else of memory or the scratchpad. -/
def WordWritten (y : Env) (g : Seg) (v : Nat) (t : State) : Prop :=
  PutsDone y ((List.range 8).map fun i => ⟨g.tier, g.place, g.pa + i, BitVec.ofNat 8 (v / 256 ^ i), 0⟩) t
/-- A control word's place, as every row of R219 leaves it, where a write sets off nothing else: where this device or the host holds it, and
on a peer. -/
def WordAt (x : Env) (b idx : Nat) (index : Word) (k : AccKind) (sc : Nat) (perm : Rec → Bool) (y : Env) (g : Seg) : Prop :=
  controlWord x b idx index k sc 8 perm counterRec = .inr (y, g) ∧ g.len = 8 ∧ (g.tier ≤ 1 ∨ g.tier = 3) ∧ Quiet y.s ∧ watched [g] = [] ∧ x.f.wait = .none
def PeerWordAt (x : Env) (b idx : Nat) (index : Word) (k : AccKind) (sc : Nat) (perm : Rec → Bool) (y : Env) (g : Seg) : Prop :=
  controlWord x b idx index k sc 8 perm counterRec = .inr (y, g) ∧ g.tier = 2 ∧ x.f.wait = .none
/-- A word on a peer is asked for, or changed there if it still holds the value expected (R400, R402, R447): the request is sent and
remembered, an operation without a flag awaits its answer, and the fragment stays at its instruction; no register and no byte of memory
changes. -/
def WordAsked (x y : Env) (g : Seg) (swap : Option (Nat × Nat)) (t : State) : Prop :=
  MemKept y.s t ∧ (∃ z, envAt t x.k x.e = some z ∧ z.f.pc = x.f.pc ∧ RegsKept x.g z.g) ∧
  ∃ o tag r, t.ops = y.s.ops ++ [o] ∧ o.kind = .peerWord g.key (swap.map (·.1)) ∧ o.flag = 15 ∧ o.tags = [tag] ∧ o.held = true ∧
    kfind t.remotes tag = some r ∧ r.type = (if swap.isSome then 2 else 0) ∧ r.dst = g.place ∧
    r.pa = (if swap.isSome then g.pa else g.pa / 32 * 32) ∧ r.part = y.b.part ∧ r.op = some o.id
/-- The answer to such a request has come, and brought a value: the one read, or the one its own change has replaced. -/
def WordHad (x : Env) (g : Seg) (w : Nat) (swapped : Bool) : Prop := ∃ p, x.f.peer = some p ∧ p.key = g.key ∧ p.value = w ∧ p.swapped = swapped
/-- An operation stands at its completion point: every answer has come, its writes are granted, no lane is left over, and its group is still
there. -/
def AtCompletion (s : State) (o : Op) (g : Group) : Prop :=
  s.ops.find? (fun q => q.id == o.id) = some o ∧ o.tags = [] ∧ granted s o = true ∧ o.trap = none ∧ o.park = none ∧ kfind s.groups o.group = some g ∧ g.gid = o.gid
/-- A group's registers as an operation names them: while a handler runs, one issued before it names the user's, which are set aside (R341). -/
def named (o : Op) (g : Group) : Group := if o.sup then g else match g.bank with | none => g | some k => unbank g k
/-- Every register of a group holds what it held, as an operation names them, and the handler's own besides. -/
def RegsSame (o : Op) (g h : Group) : Prop :=
  h.vregs = g.vregs ∧ (∀ r, greg (named o h) r = greg (named o g) r) ∧ (∀ r, 56 ≤ r → r < 64 → greg h r = greg g r) ∧ h.preds = g.preds ∧
  h.gpreds = g.gpreds ∧ (∀ b, brec (named o h) b = brec (named o g) b) ∧ h.acc = g.acc ∧ h.tstatus = g.tstatus
/-- What a completion point leaves (R39, R44, R161): the operation is gone, its registers hold its values, its pending bits are clear and
its flag is one lower; every other register, group and byte is as before. -/
structure Landed (s : State) (o : Op) (g : Group) (t : State) : Prop where
  gone : t.ops = s.ops.filter (·.id != o.id)
  mem : MemKept s t
  others : ∀ k, k ≠ o.group → kfind t.groups k = kfind s.groups k
  grp : ∃ h, kfind t.groups o.group = some h ∧
    (∀ r l, l < 32 → vreg h r l = if r ∈ o.vshadow ∧ inMask (o.ws ||| o.zeroed) l then kget 0 o.vwrites (32 * r + l) else vreg g r l) ∧
    (∀ r, greg (named o h) r = if o.ws ≠ 0 ∧ r ∈ o.gshadow then kget 0 o.vwrites (4096 + r) else greg (named o g) r) ∧
    h.preds = g.preds ∧ h.gpreds = g.gpreds ∧ (∀ b, brec (named o h) b = brec (named o g) b) ∧ h.acc = g.acc ∧
    h.pending = g.pending.filter (fun c => !o.pend.contains c) ∧
    ∀ f, kget 0 h.flags f = kget 0 g.flags f - if f = o.flag ∧ f < 12 then 1 else 0

/-- A record register takes a record; every other register is as before (R237 to R239). -/
def RecDone (s : State) (x : Env) (d : Nat) (r : Rec) (t : State) : Prop :=
  ∃ y, Near s t x y ∧ y.b = x.b ∧ FragMarks (x.f.after 4) y.f ∧ (∀ b, brec y.g b = if b = d then r else brec x.g b) ∧
    y.g.vregs = x.g.vregs ∧ y.g.gregs = x.g.gregs ∧ y.g.preds = x.g.preds ∧ y.g.gpreds = x.g.gpreds
/-- A register's shadow takes an interval and a pin; every register and every other shadow is as before (R236, R240, R241). -/
def ShadowDone (s : State) (x : Env) (c : Nat) (v : Shadow) (t : State) : Prop :=
  ∃ y, Only s t x y (x.f.after 4) ∧ RegsKept x.g y.g ∧ ∀ q, q ≠ 127 → shadow y.g q = if q = c then v else shadow x.g q
/-- A tile instruction issues: its tile is the group's and no earlier instruction still holds it (R244, R245). -/
def TileOk (x : Env) (sl : BitVec 1) (md : Nat) (ok : Bool) (srcs dsts : List Nat) (same : Option Bool) : Prop :=
  OpOk x (ok && fmtOk x.f && tileOk x.g (fAcc x.f) md) srcs dsts sl ∧ busy x (tileHalves (fAcc x.f) md) same = false
/-- A counter operand's place, as every row of R219 leaves it, where a write sets off nothing else (R280, R464). -/
def CounterAt (x : Env) (c : Nat) (k : AccKind) (perm : Rec → Bool) (y : Env) (g : Seg) : Prop :=
  counterOperand x c k perm = .inr (y, g) ∧ g.len = 8 ∧ (g.tier ≤ 1 ∨ g.tier = 3) ∧ Quiet y.s ∧ watched [g] = [] ∧
  x.f.wait = .none ∧ x.g.parked = none
def PeerCounterAt (x : Env) (c : Nat) (k : AccKind) (perm : Rec → Bool) (y : Env) (g : Seg) : Prop :=
  counterOperand x c k perm = .inr (y, g) ∧ g.tier = 2 ∧ x.f.wait = .none

/-- A trap raised at a completion point in a group at user level (R161): the operation is gone, and the handler has begun with the record
of the operation's own instruction. -/
def LateTrap (s : State) (o : Op) (g : Group) (code : Nat) (mask : Mask) (t : State) : Prop :=
  t.ops = s.ops.filter (·.id != o.id) ∧ MemKept s t ∧
  ∃ y, envAt t o.group o.entry = some y ∧ Handled s (kget ({} : Block) s.blocks g.block).part (word (code + 65536 * o.entry)) o.pc mask y
/-- One join counter goes down by one, as bytes of memory; below zero it wraps (R299). -/
def downOnce (rd : Nat → Nat → Byte) (g : Seg) : Nat → Nat → Byte := fun tier a =>
  if tier = g.tier ∧ g.pa ≤ a ∧ a < g.pa + 8 then
    BitVec.ofNat 8 ((leVal ((List.range 8).map fun i => rd g.tier (g.pa + i)) + 2 ^ 64 - 1) % 2 ^ 64 / 256 ^ (a - g.pa))
  else rd tier a
/-- Bytes laid one after another at the places of an image. -/
def imagePuts (sg : List Seg) (bs : List Byte) : List Put :=
  ((sg.flatMap fun g => (List.range g.len).map fun i => (g, i)).zip bs).map fun q => ⟨q.1.1.tier, q.1.1.place, q.1.1.pa + q.1.2, q.2, 0⟩
/-- Nothing of the executing fragment waits, and no write wakes or counts anything. -/
def Still (x : Env) (s : State) : Prop := Quiet s ∧ x.f.wait = .none ∧ x.g.parked = none

/-- A task group's block is resident and not yet begun (R292): its core and node, one lane to a record, and argument `i` of record `l` in
lane `l` of register `i`. -/
def TaskResident (t : State) (core part node : Nat) (recs : List TaskRec) : Prop :=
  ∃ n b k g, kfind t.blocks n = some b ∧ b.core = core ∧ b.part = part ∧ (b.task.map (·.1)) = some node ∧ b.lanes = recs.length ∧
    kfind t.groups k = some g ∧ k / 64 = core ∧ g.block = n ∧ g.started = false ∧ (∀ l, l < 32 → inMask g.live l = decide (l < recs.length)) ∧
    (recs.length ≤ 32 → (∀ r ∈ recs, r.args.length ≤ 12) → ∀ (l i : Nat) (r : TaskRec) (a : Word), recs[l]? = some r → r.args[i]? = some a → vreg g i l = a)

/-! ## The invariant -/

/-- Device memory and the host's space keep their canonical form: addresses rising, no listed byte zero. -/
def State.Inv (s : State) : Prop := Memory.wf s.mem ∧ Memory.wf s.hostMem

end Sys2Proof.Machine
end

