-- ==== Sys2Proof/Certificates/Slice0/Obligations.lean ====
section
/-!
DEFINITION. The statements for the provers. Each is named for what it states; its docstring names the rules of the spec it rests on.
-/
open Sys2Proof Sys2Proof.Machine

/-! ## Vector and group-wide arithmetic (R171, R175 to R185) -/

/-- The ten conditions of a compare (R163, R183). -/
def Claims.relations : List (BitVec 4 × (Word → Word → Bool)) := [
    (0, fun u v => u == v), (1, fun u v => u != v), (2, fun u v => decide (u.toInt < v.toInt)), (3, fun u v => decide (u.toInt ≤ v.toInt)),
    (4, fun u v => decide (v.toInt < u.toInt)), (5, fun u v => decide (v.toInt ≤ u.toInt)), (6, fun u v => decide (u.toNat < v.toNat)),
    (7, fun u v => decide (u.toNat ≤ v.toNat)), (8, fun u v => decide (v.toNat < u.toNat)), (9, fun u v => decide (v.toNat ≤ u.toNat))]
/-- The majors of the immediate instructions, of a twin, and the result of both (R182). -/
def Claims.immediates : List ((Nat × Nat) × (Word → Word → Word)) := [
    ((0x20, 0x60), fun a b => a + b), ((0x21, 0x61), fun a b => a * b), ((0x22, 0x62), fun a b => a &&& b), ((0x23, 0x63), fun a b => a ||| b),
    ((0x24, 0x64), fun a b => a ^^^ b),
    ((0x25, 0x65), fun a b => if b.toNat < 32 then BitVec.ofNat 32 (a.toNat * 2 ^ b.toNat) else 0),
    ((0x26, 0x66), fun a b => if b.toNat < 32 then BitVec.ofNat 32 (a.toNat / 2 ^ b.toNat) else 0),
    ((0x27, 0x67), fun a b => if b.toNat < 32 then BitVec.ofInt 32 (a.toInt / 2 ^ b.toNat) else if a.toInt < 0 then 0xFFFFFFFF else 0)]

/-- R171, R175 to R178, R180: the three-register vector instructions. In every lane of exec (and executing helper lane) whose guard is
true the destination takes the stated function of the two sources; nothing else changes. -/
def Claims.VectorThreeRegisterResults : Prop :=
  ∀ (s : State) (x : Env) (b a d : BitVec 7) (g : BitVec 3), At s x → Vec2Ok x b a d g false →
  ∀ p ∈ ([
    (.add, fun a b => a + b), (.sub, fun a b => a - b), (.mul, fun a b => a * b),
    (.mulhiN, fun a b => BitVec.ofNat 32 (a.toNat * b.toNat / 2 ^ 32)), (.mulhiI, fun a b => BitVec.ofInt 32 (a.toInt * b.toInt / 2 ^ 32)),
    (.minI, fun a b => if b.toInt < a.toInt then b else a), (.maxI, fun a b => if a.toInt < b.toInt then b else a),
    (.minN, fun a b => if b.toNat < a.toNat then b else a), (.maxN, fun a b => if a.toNat < b.toNat then b else a),
    (.and, fun a b => a &&& b), (.or, fun a b => a ||| b), (.xor, fun a b => a ^^^ b), (.andn, fun a b => a &&& ~~~b),
    (.shl, fun a b => if b.toNat < 32 then BitVec.ofNat 32 (a.toNat * 2 ^ b.toNat) else 0),
    (.shr, fun a b => if b.toNat < 32 then BitVec.ofNat 32 (a.toNat / 2 ^ b.toNat) else 0),
    (.sar, fun a b => if b.toNat < 32 then BitVec.ofInt 32 (a.toInt / 2 ^ b.toNat) else if a.toInt < 0 then 0xFFFFFFFF else 0),
    (.bfeN, fun a b => BitVec.ofNat 32 (a.toNat / 2 ^ (b.toNat % 256) % 2 ^ min (b.toNat / 256 % 256) 32)), (.bfeI, bfeIW), (.bytemix,
    fun a b => BitVec.ofNat 32 ((List.range 4).map fun i =>
      let f := b.toNat / 16 ^ i % 16
      let c := a.toNat / 256 ^ (f % 4) % 256
      256 ^ i * (if f / 4 = 0 then c else if f / 4 = 1 then 0 else if f / 4 = 2 then (if 128 ≤ c then 255 else 0) else 255)).sum),
    (.divN, fun a b => if b = 0 then 0xFFFFFFFF else BitVec.ofNat 32 (a.toNat / b.toNat)),
    (.remN, fun a b => if b = 0 then a else BitVec.ofNat 32 (a.toNat % b.toNat)), 
    (.divI, fun a b => if b = 0 then (if 0 ≤ a.toInt then 0xFFFFFFFF else 1) else BitVec.ofInt 32 (a.toInt.tdiv b.toInt)),
    (.remI, fun a b => if b = 0 then a else BitVec.ofInt 32 (a.toInt.tmod b.toInt))]
    : List ((BitVec 7 → BitVec 7 → BitVec 7 → BitVec 3 → Instr) × (Word → Word → Word))),
  Completes (p.1 b a d g) s (VecDone s x d.toNat (guarded x g) (fun l => p.2 (vsrc x.g a.toNat l) (vsrc x.g b.toNat l)) 4)

/-- R162, R171, R175 to R178, R180: their group-wide twins compute once, and write their g register if the gp guard is true. -/
def Claims.GroupThreeRegisterResults : Prop :=
  ∀ (s : State) (x : Env) (b a d : BitVec 7) (g : BitVec 3), At s x → Grp2Ok x b a d g false →
  ∀ p ∈ ([
    (.addG, fun a b => a + b), (.subG, fun a b => a - b), (.mulG, fun a b => a * b),
    (.mulhiNG, fun a b => BitVec.ofNat 32 (a.toNat * b.toNat / 2 ^ 32)), (.mulhiIG, fun a b => BitVec.ofInt 32 (a.toInt * b.toInt / 2 ^ 32)),
    (.minIG, fun a b => if b.toInt < a.toInt then b else a), (.maxIG, fun a b => if a.toInt < b.toInt then b else a),
    (.minNG, fun a b => if b.toNat < a.toNat then b else a), (.maxNG, fun a b => if a.toNat < b.toNat then b else a),
    (.andG, fun a b => a &&& b), (.orG, fun a b => a ||| b), (.xorG, fun a b => a ^^^ b), (.andnG, fun a b => a &&& ~~~b),
    (.shlG, fun a b => if b.toNat < 32 then BitVec.ofNat 32 (a.toNat * 2 ^ b.toNat) else 0),
    (.shrG, fun a b => if b.toNat < 32 then BitVec.ofNat 32 (a.toNat / 2 ^ b.toNat) else 0),
    (.sarG, fun a b => if b.toNat < 32 then BitVec.ofInt 32 (a.toInt / 2 ^ b.toNat) else if a.toInt < 0 then 0xFFFFFFFF else 0),
    (.bfeNG, fun a b => BitVec.ofNat 32 (a.toNat / 2 ^ (b.toNat % 256) % 2 ^ min (b.toNat / 256 % 256) 32)), (.bfeIG, bfeIW), (.bytemixG,
    fun a b => BitVec.ofNat 32 ((List.range 4).map fun i =>
      let f := b.toNat / 16 ^ i % 16
      let c := a.toNat / 256 ^ (f % 4) % 256
      256 ^ i * (if f / 4 = 0 then c else if f / 4 = 1 then 0 else if f / 4 = 2 then (if 128 ≤ c then 255 else 0) else 255)).sum),
    (.divNG, fun a b => if b = 0 then 0xFFFFFFFF else BitVec.ofNat 32 (a.toNat / b.toNat)),
    (.remNG, fun a b => if b = 0 then a else BitVec.ofNat 32 (a.toNat % b.toNat)), 
    (.divIG, fun a b => if b = 0 then (if 0 ≤ a.toInt then 0xFFFFFFFF else 1) else BitVec.ofInt 32 (a.toInt.tdiv b.toInt)),
    (.remIG, fun a b => if b = 0 then a else BitVec.ofInt 32 (a.toInt.tmod b.toInt))]
    : List ((BitVec 7 → BitVec 7 → BitVec 7 → BitVec 3 → Instr) × (Word → Word → Word))),
  Completes (p.1 b a d g) s (GrpDone s x (gpred x.g g.toNat) d.toNat (p.2 (gsrc x.g a.toNat) (gsrc x.g b.toNat)) 4)

/-- R175, R177, R179, R181, on vector registers: mad reads its destination, bfi a pair, sel writes every executing lane, and the
64-bit sum and difference write a pair. -/
def Claims.VectorPairAndSelectResults : Prop :=
  ∀ (s : State) (x : Env) (b a d : BitVec 7) (g : BitVec 3), At s x →
  (Vec2Ok x b a d g true → Completes (.mad b a d g) s
    (VecDone s x d.toNat (guarded x g) (fun l => vsrc x.g a.toNat l * vsrc x.g b.toNat l + vreg x.g d.toNat l) 4)) ∧
  (VecBfiOk x b a d g → Completes (.bfi b a d g) s
    (VecDone s x d.toNat (guarded x g) (fun l => bfiW (vsrc x.g b.toNat l) (vsrcHi x.g b.toNat l) (vsrc x.g a.toNat l)) 4)) ∧
  (Vec2Ok x b a d g false → Completes (.sel b a d g) s
    (VecDone s x d.toNat x.active (fun l => if inMask (pmask x.g g.toNat) l then vsrc x.g a.toNat l else vsrc x.g b.toNat l) 4)) ∧
  (Vec64Ok x b a d g → Completes (.add64 b a d g) s
    (PairDone s x d.toNat (guarded x g) fun l =>
      (pairVal (vsrc x.g a.toNat l) (vsrcHi x.g a.toNat l) + pairVal (vsrc x.g b.toNat l) (vsrcHi x.g b.toNat l)) % 2 ^ 64)) ∧
  (Vec64Ok x b a d g → Completes (.sub64 b a d g) s
    (PairDone s x d.toNat (guarded x g) fun l =>
      (pairVal (vsrc x.g a.toNat l) (vsrcHi x.g a.toNat l) + 2 ^ 64 - pairVal (vsrc x.g b.toNat l) (vsrcHi x.g b.toNat l)) % 2 ^ 64))

/-- R175, R177, R179, R181: their group-wide twins. -/
def Claims.GroupPairAndSelectResults : Prop :=
  ∀ (s : State) (x : Env) (b a d : BitVec 7) (g : BitVec 3), At s x →
  (Grp2Ok x b a d g true → Completes (.madG b a d g) s
    (GrpDone s x (gpred x.g g.toNat) d.toNat (gsrc x.g a.toNat * gsrc x.g b.toNat + greg x.g d.toNat) 4)) ∧
  (GrpBfiOk x b a d g → Completes (.bfiG b a d g) s
    (GrpDone s x (gpred x.g g.toNat) d.toNat (bfiW (gsrc x.g b.toNat) (gsrc x.g (pairHi b.toNat)) (gsrc x.g a.toNat)) 4)) ∧
  (Grp2Ok x b a d g false → Completes (.selG b a d g) s
    (GrpDone s x true d.toNat (if gpred x.g g.toNat then gsrc x.g a.toNat else gsrc x.g b.toNat) 4)) ∧
  ∀ p ∈ ([(.add64G, fun a b => (a + b) % 2 ^ 64), (.sub64G, fun a b => (a + 2 ^ 64 - b) % 2 ^ 64)]
      : List ((BitVec 7 → BitVec 7 → BitVec 7 → BitVec 3 → Instr) × (Nat → Nat → Nat))),
    Grp64Ok x b a d g → Completes (p.1 b a d g) s
      (let v := p.2 (pairVal (gsrc x.g a.toNat) (gsrc x.g (pairHi a.toNat))) (pairVal (gsrc x.g b.toNat) (gsrc x.g (pairHi b.toNat)))
       GrpsDone s x (if gpred x.g g.toNat then [(d.toNat, word v), (d.toNat + 1, word (v / 2 ^ 32))] else []) 4)

/-- R182: the immediate instructions and their twins; the immediate is imm7 sign-extended, and a shift reads it unsigned. -/
def Claims.ImmediateResults : Prop :=
  ∀ (s : State) (x : Env) (i a d : BitVec 7) (g : BitVec 3), At s x →
  ∀ p ∈ ([
    (.addi, .addiG, fun a b => a + b), (.muli, .muliG, fun a b => a * b), (.andi, .andiG, fun a b => a &&& b), (.ori, .oriG, fun a b => a ||| b),
    (.xori, .xoriG, fun a b => a ^^^ b),
    (.shli, .shliG, fun a b => if b.toNat < 32 then BitVec.ofNat 32 (a.toNat * 2 ^ b.toNat) else 0),
    (.shri, .shriG, fun a b => if b.toNat < 32 then BitVec.ofNat 32 (a.toNat / 2 ^ b.toNat) else 0),
    (.sari, .sariG, fun a b => if b.toNat < 32 then BitVec.ofInt 32 (a.toInt / 2 ^ b.toNat) else if a.toInt < 0 then 0xFFFFFFFF else 0)]
    : List ((BitVec 7 → BitVec 7 → BitVec 7 → BitVec 3 → Instr) × (BitVec 7 → BitVec 7 → BitVec 7 → BitVec 3 → Instr) × (Word → Word → Word))),
  (Vec1Ok x a d g → Completes (p.1 i a d g) s (VecDone s x d.toNat (guarded x g) (fun l => p.2.2 (vsrc x.g a.toNat l) (i.signExtend 32)) 4)) ∧
  (Grp1Ok x a d g → Completes (p.2.1 i a d g) s (GrpDone s x (gpred x.g g.toNat) d.toNat (p.2.2 (gsrc x.g a.toNat) (i.signExtend 32)) 4))

/-- R153, R157: a LIT joins its payload and imm7 into one 31-bit two's-complement immediate for a follower of the RI format, for cmpi and
for their twins, and the pair is one instruction of eight bytes. A follower of any other kind, one whose own fields fail, and a pair that
ends past the 64th halfword of the body take the illegal-encoding trap at the LIT, and a follower of the system major the privilege trap. -/
def Claims.LitJoinsTheImmediate : Prop :=
  ∀ (s : State) (x : Env) (p : BitVec 24), At s x →
  let w := peekWord s x.b x.g (x.f.pc + 4)
  let major := w.toNat / 2 % 128
  let a : BitVec 7 := BitVec.ofNat 7 (w.toNat / 2 ^ 18)
  let d : BitVec 7 := BitVec.ofNat 7 (w.toNat / 2 ^ 11)
  let c : BitVec 4 := BitVec.ofNat 4 (w.toNat / 2 ^ 14)
  let q : BitVec 3 := BitVec.ofNat 3 (w.toNat / 2 ^ 11)
  let g : BitVec 3 := BitVec.ofNat 3 (w.toNat / 2 ^ 8)
  let imm := (BitVec.ofNat 31 (p.toNat * 128 + w.toNat / 2 ^ 25)).signExtend 32
  let fits := bodyOffset x.f (x.f.pc.toNat + 8) ≤ 64
  let joins := [0x20, 0x21, 0x22, 0x23, 0x24, 0x25, 0x26, 0x27, 0x60, 0x61, 0x62, 0x63, 0x64, 0x65, 0x66, 0x67, 0x1D, 0x5D]
  let trapped := fun (code : Nat) => Completes (.lit p) s (TrapTaken s x code 0 x.f.exec 0 0)
  (w.toNat % 2 = 1 → fits →
    (∀ r ∈ Claims.immediates,
      (major = r.1.1 → Vec1Ok x a d g → Completes (.lit p) s (VecDone s x d.toNat (guarded x g) (fun l => r.2 (vsrc x.g a.toNat l) imm) 8)) ∧
      (major = r.1.2 → Grp1Ok x a d g → Completes (.lit p) s (GrpDone s x (gpred x.g g.toNat) d.toNat (r.2 (gsrc x.g a.toNat) imm) 8))) ∧
    (∀ r ∈ Claims.relations, c = r.1 →
      (major = 0x1D → VecCmpOk x none a c q g → Completes (.lit p) s (PredDone s x q.toNat (guarded x g) (fun l => r.2 (vsrc x.g a.toNat l) imm) 8)) ∧
      (major = 0x5D → GrpCmpOk x none a c q g → Completes (.lit p) s
        (GPredDone s x (gpred x.g g.toNat) q.toNat (r.2 (gsrc x.g a.toNat) imm) 8))) ∧
    (x.g.level = .user →
      ((0x20 ≤ major ∧ major ≤ 0x27 ∧ (dstOk x.g d && srcOk x.g a) = false) ∨ (0x60 ≤ major ∧ major ≤ 0x67 ∧ (gdOk d && gsOk a) = false) ∨
       (major = 0x1D ∧ (c.toNat ≤ 9 && srcOk x.g a) = false) ∨ (major = 0x5D ∧ (c.toNat ≤ 9 && gsOk a) = false)) → trapped 1)) ∧
  (x.g.level = .user → (w.toNat % 2 = 0 ∨ (w.toNat % 2 = 1 ∧ major ≠ 0x7D ∧ major ∉ joins) ∨ (w.toNat % 2 = 1 ∧ major ∈ joins ∧ ¬ fits)) → trapped 1) ∧
  (x.g.level = .user → w.toNat % 2 = 1 → major = 0x7D → trapped 2)

/-- R183: the compares. A predicate takes the truth of the relation in the executing lanes whose guard is true; the twin writes its
group predicate if its guard is true; p0 and gp0 discard the result. -/
def Claims.CompareResults : Prop :=
  ∀ (s : State) (x : Env) (b a : BitVec 7) (p g : BitVec 3), At s x →
  ∀ q ∈ Claims.relations,
  (VecCmpOk x (some b) a q.1 p g → Completes (.cmp b a q.1 p g) s
    (PredDone s x p.toNat (guarded x g) (fun l => q.2 (vsrc x.g a.toNat l) (vsrc x.g b.toNat l)) 4)) ∧
  (VecCmpOk x none a q.1 p g → Completes (.cmpi b a q.1 p g) s
    (PredDone s x p.toNat (guarded x g) (fun l => q.2 (vsrc x.g a.toNat l) (b.signExtend 32)) 4)) ∧
  (GrpCmpOk x (some b) a q.1 p g → Completes (.cmpG b a q.1 p g) s
    (GPredDone s x (gpred x.g g.toNat) p.toNat (q.2 (gsrc x.g a.toNat) (gsrc x.g b.toNat)) 4)) ∧
  (GrpCmpOk x none a q.1 p g → Completes (.cmpiG b a q.1 p g) s
    (GPredDone s x (gpred x.g g.toNat) p.toNat (q.2 (gsrc x.g a.toNat) (b.signExtend 32)) 4))

/-- R184: the unary instructions and their twins; each conversion saturates its source. -/
def Claims.UnaryResults : Prop :=
  ∀ (s : State) (x : Env) (a d : BitVec 7) (g : BitVec 3), At s x →
  ∀ p ∈ ([
    (.mov, .movG, fun a => a), (.not, .notG, fun a => ~~~a), (.neg, .negG, fun a => 0 - a), (.abs, .absG, fun a => if a.toInt < 0 then 0 - a else a),
    (.popc, .popcG, fun a => BitVec.ofNat 32 ((List.range 32).countP fun i => a.getLsbD i)), (.clz, .clzG, clzW), (.brev, .brevG, brevW),
    (.cvtI8I32, .cvtI8I32G, fun a => BitVec.ofInt 32 (max (-128) (min 127 a.toInt))),
    (.cvtN8I32, .cvtN8I32G, fun a => BitVec.ofInt 32 (max 0 (min 255 a.toInt))),
    (.cvtI16I32, .cvtI16I32G, fun a => BitVec.ofInt 32 (max (-32768) (min 32767 a.toInt))),
    (.cvtN16I32, .cvtN16I32G, fun a => BitVec.ofInt 32 (max 0 (min 65535 a.toInt))),
    (.cvtN32I32, .cvtN32I32G, fun a => if a.toInt < 0 then 0 else a),
    (.cvtI32N32, .cvtI32N32G, fun a => if 2 ^ 31 ≤ a.toNat then 0x7FFFFFFF else a),
    (.cvtN8N32, .cvtN8N32G, fun a => BitVec.ofNat 32 (min 255 a.toNat)), (.cvtN16N32, .cvtN16N32G, fun a => BitVec.ofNat 32 (min 65535 a.toNat))]
    : List ((BitVec 7 → BitVec 7 → BitVec 3 → Instr) × (BitVec 7 → BitVec 7 → BitVec 3 → Instr) × (Word → Word))),
  (Vec1Ok x a d g → Completes (p.1 a d g) s (VecDone s x d.toNat (guarded x g) (fun l => p.2.2 (vsrc x.g a.toNat l)) 4)) ∧
  (Grp1Ok x a d g → Completes (p.2.1 a d g) s (GrpDone s x (gpred x.g g.toNat) d.toNat (p.2.2 (gsrc x.g a.toNat)) 4))

/-- R185: the predicate operations. The binary ones write every executing lane; the others are guarded; predicate 0 discards. -/
def Claims.PredicateResults : Prop :=
  ∀ (s : State) (x : Env) (a d b : BitVec 3) (r : BitVec 7), At s x →
  (∀ p ∈ ([(.pand, fun u v => u && v), (.por, fun u v => u || v), (.pxor, fun u v => u != v), (.pandn, fun u v => u && !v)]
      : List ((BitVec 3 → BitVec 3 → BitVec 3 → Instr) × (Bool → Bool → Bool))),
    PlainOk x true [pcode a.toNat, pcode b.toNat] [pcode d.toNat] → Completes (p.1 a d b) s
      (PredDone s x d.toNat x.active (fun l => p.2 (inMask (pmask x.g a.toNat) l) (inMask (pmask x.g b.toNat) l)) 4)) ∧
  (∀ p ∈ ([(.pnot, fun u => !u), (.pmov, fun u => u)] : List ((BitVec 3 → BitVec 3 → BitVec 3 → Instr) × (Bool → Bool))),
    PlainOk x true ([pcode a.toNat] ++ vguard b) [pcode d.toNat] → Completes (p.1 a d b) s
      (PredDone s x d.toNat (guarded x b) (fun l => p.2 (inMask (pmask x.g a.toNat) l)) 4)) ∧
  (PlainOk x (srcOk x.g r) ([vcode r.toNat] ++ vguard b) [pcode d.toNat] → Completes (.pset r d b) s
      (PredDone s x d.toNat (guarded x b) (fun l => vsrc x.g r.toNat l != 0) 4))

/-- R185: their group-wide twins. -/
def Claims.GroupPredicateResults : Prop :=
  ∀ (s : State) (x : Env) (a d b : BitVec 3) (r : BitVec 7), At s x →
  (∀ p ∈ ([(.pandG, fun u v => u && v), (.porG, fun u v => u || v), (.pxorG, fun u v => u != v), (.pandnG, fun u v => u && !v)]
      : List ((BitVec 3 → BitVec 3 → BitVec 3 → Instr) × (Bool → Bool → Bool))),
    PlainOk x true [gpcode a.toNat, gpcode b.toNat] [gpcode d.toNat] → Completes (p.1 a d b) s
      (GPredDone s x true d.toNat (p.2 (gpred x.g a.toNat) (gpred x.g b.toNat)) 4)) ∧
  (∀ p ∈ ([(.pnotG, fun u => !u), (.pmovG, fun u => u)] : List ((BitVec 3 → BitVec 3 → BitVec 3 → Instr) × (Bool → Bool))),
    PlainOk x true ([gpcode a.toNat] ++ gguard b) [gpcode d.toNat] → Completes (p.1 a d b) s
      (GPredDone s x (gpred x.g b.toNat) d.toNat (p.2 (gpred x.g a.toNat)) 4)) ∧
  (PlainOk x (gsOk r) ([gcode r.toNat] ++ gguard b) [gpcode d.toNat] → Completes (.psetG r d b) s
      (GPredDone s x (gpred x.g b.toNat) d.toNat (gsrc x.g r.toNat != 0) 4))

/-- R152, R191: the sixteen 16-bit instructions. d is first source and destination, every executing lane is written, and the program
counter advances by two; the immediate of addi is signed, a shift's unsigned. -/
def Claims.SixteenBitResults : Prop :=
  ∀ (s : State) (x : Env) (r : BitVec 5) (d : BitVec 6), At s x →
  (HalfOk x (some r.toNat) d.toNat false → Completes (.mov16 r d) s (VecDone s x d.toNat x.active (fun l => vreg x.g r.toNat l) 2)) ∧
  (HalfOk x (some r.toNat) d.toNat true → ∀ p ∈ ([
      (.add16, fun a b => a + b), (.sub16, fun a b => a - b), (.and16, fun a b => a &&& b), (.or16, fun a b => a ||| b), (.xor16, fun a b => a ^^^ b),
      (.minI16, fun a b => if b.toInt < a.toInt then b else a), (.maxI16, fun a b => if a.toInt < b.toInt then b else a),
      (.fadd16, faddW (rnd x.f)), (.fsub16, fsubW (rnd x.f)), (.fmul16, fmulW (rnd x.f)), (.fmax16, minMax32 true)]
      : List ((BitVec 5 → BitVec 6 → Instr) × (Word → Word → Word))),
    Completes (p.1 r d) s (VecDone s x d.toNat x.active (fun l => p.2 (vreg x.g d.toNat l) (vreg x.g r.toNat l)) 2)) ∧
  (HalfOk x none d.toNat true → ∀ p ∈ ([
      (.addi16, fun a => a + r.signExtend 32), (.shli16, fun a => BitVec.ofNat 32 (a.toNat * 2 ^ r.toNat)),
      (.shri16, fun a => BitVec.ofNat 32 (a.toNat / 2 ^ r.toNat)), (.sari16, fun a => BitVec.ofInt 32 (a.toInt / 2 ^ r.toNat))]
      : List ((BitVec 5 → BitVec 6 → Instr) × (Word → Word))),
    Completes (p.1 r d) s (VecDone s x d.toNat x.active (fun l => p.2 (vreg x.g d.toNat l)) 2))

/-- R186 to R190: the floating-point instructions, with the fragment's rounding mode where the rule rounds. The exact functions are those
of Float.lean (R103 to R114): every one rounds an exact result once. -/
def Obligations.FloatResults : Prop :=
  ∀ (s : State) (x : Env) (b a d : BitVec 7) (c : BitVec 4) (g : BitVec 3), At s x →
  (Vec2Ok x b a d g false → ∀ p ∈ ([
      (.fadd, fun a b => toF32 (rnd x.f) (sumTerms (rnd x.f) [f32 a, f32 b])), (.fsub, fun a b => toF32 (rnd x.f) (sumTerms (rnd x.f) [f32 a, (f32 b).neg])),
      (.fmul, fun a b => toF32 (rnd x.f) (mulExact (f32 a) (f32 b))), (.fmin, minMax32 false), (.fmax, minMax32 true),
      (.pkaddF16, pkaddW fp16 (rnd x.f)), (.pkmulF16, pkmulW fp16 (rnd x.f)), (.pkaddBf16, pkaddW bf16 (rnd x.f)), (.pkmulBf16, pkmulW bf16 (rnd x.f))]
      : List ((BitVec 7 → BitVec 7 → BitVec 7 → BitVec 3 → Instr) × (Word → Word → Word))),
    Completes (p.1 b a d g) s (VecDone s x d.toNat (guarded x g) (fun l => p.2 (vsrc x.g a.toNat l) (vsrc x.g b.toNat l)) 4)) ∧
  (Vec2Ok x b a d g true → ∀ p ∈ ([
      (.ffma, fun a b c => toF32 (rnd x.f) (sumTerms (rnd x.f) [mulExact (f32 a) (f32 b), f32 c])),
      (.pkfmaF16, pkfmaW fp16 (rnd x.f)), (.pkfmaBf16, pkfmaW bf16 (rnd x.f))]
      : List ((BitVec 7 → BitVec 7 → BitVec 7 → BitVec 3 → Instr) × (Word → Word → Word → Word))),
    Completes (p.1 b a d g) s (VecDone s x d.toNat (guarded x g) (fun l => p.2 (vsrc x.g a.toNat l) (vsrc x.g b.toNat l) (vreg x.g d.toNat l)) 4)) ∧
  (∀ p : BitVec 3, PlainOk x (c.toNat ≤ 7 && srcOk x.g a && srcOk x.g b) ([vcode a.toNat, vcode b.toNat] ++ vguard g) [pcode p.toNat] →
    Completes (.fcmp b a c p g) s (PredDone s x p.toNat (guarded x g) (fun l => fcmpHolds c.toNat (vsrc x.g a.toNat l) (vsrc x.g b.toNat l)) 4)) ∧
  (Vec1Ok x a d g → ∀ p ∈ ([
      (.fneg, fun a => a ^^^ 0x80000000#32), (.fabs, fun a => a &&& 0x7FFFFFFF#32), (.frcp, fun a => recip (rnd x.f) (f32 a)),
      (.fsqrt, fun a => sqrt32 (rnd x.f) (f32 a)), (.frsq, fun a => rsqrt32 (rnd x.f) (f32 a)), (.fexp2, fun a => exp2 (rnd x.f) (f32 a)),
      (.flog2, fun a => log2 (rnd x.f) (f32 a)), (.frint, rint32 (rnd x.f)), (.cvtF32I32, fun a => fromInt (rnd x.f) a.toInt),
      (.cvtF32N32, fun a => fromInt (rnd x.f) a.toNat), (.cvtI32F32, fun a => wordI (toIntSat (rnd x.f) minI maxI (f32 a))),
      (.cvtN32F32, fun a => wordI (toIntSat (rnd x.f) 0 4294967295 (f32 a))), (.cvtF16F32, cvtF fp32 fp16 (rnd x.f)), (.cvtBf16F32, cvtF fp32 bf16 (rnd x.f)),
      (.cvtF32F16, cvtF fp16 fp32 (rnd x.f)), (.cvtF32Bf16, cvtF bf16 fp32 (rnd x.f)), (.cvtE4m3F32, fun a => word (e4m3.encodeFp8 (rnd x.f) (f8ov x.f) (f32 a))),
      (.cvtE5m2F32, fun a => word (e5m2.encodeFp8 (rnd x.f) (f8ov x.f) (f32 a))), (.cvtF32E4m3, cvtF e4m3 fp32 (rnd x.f)),
      (.cvtF32E5m2, cvtF e5m2 fp32 (rnd x.f)), (.cvtBf16F16, cvtF fp16 bf16 (rnd x.f)), (.cvtF16Bf16, cvtF bf16 fp16 (rnd x.f)),
      (.cvtI8F32, fun a => wordI (toIntSat (rnd x.f) (-128) 127 (f32 a))), (.cvtN8F32, fun a => wordI (toIntSat (rnd x.f) 0 255 (f32 a)))]
      : List ((BitVec 7 → BitVec 7 → BitVec 3 → Instr) × (Word → Word))),
    Completes (p.1 a d g) s (VecDone s x d.toNat (guarded x g) (fun l => p.2 (vsrc x.g a.toNat l)) 4))

/-- R37: predicate 0 reads true in every lane and for the group, a guard field of 0 names no register and guards nothing, and a write to it by
cmp, cmpi, fcmp, a predicate operation, xall, xany or xsame, or by a twin, is dropped and records no provenance. (ctest and rinv with
predicate 0: CounterInstructions and Beacons.) -/
def Claims.PredicateZero : Prop :=
  ∀ (s : State) (x : Env) (a b : BitVec 7) (p q g : BitVec 3) (c : BitVec 4), At s x →
  let dropped : Instr → Prop := fun i => Completes i s fun t => NopDone s x 4 t ∧ ∃ y, envAt t x.k x.e = some y ∧ y.g.provs = x.g.provs
  pmask x.g 0 = 0xFFFFFFFF ∧ gpred x.g 0 = true ∧ vguard 0 = [] ∧ gguard 0 = [] ∧ guarded x 0 = x.active ∧
  (VecCmpOk x (some b) a c 0 g → dropped (.cmp b a c 0 g)) ∧ (VecCmpOk x none a c 0 g → dropped (.cmpi b a c 0 g)) ∧
  (GrpCmpOk x (some b) a c 0 g → dropped (.cmpG b a c 0 g)) ∧ (GrpCmpOk x none a c 0 g → dropped (.cmpiG b a c 0 g)) ∧
  (PlainOk x (c.toNat ≤ 7 && srcOk x.g a && srcOk x.g b) ([vcode a.toNat, vcode b.toNat] ++ vguard g) [pcode 0] → dropped (.fcmp b a c 0 g)) ∧
  (PlainOk x true [pcode p.toNat, pcode q.toNat] [pcode 0] → ∀ i ∈ ([.pand, .por, .pxor, .pandn] : List (BitVec 3 → BitVec 3 → BitVec 3 → Instr)), dropped (i p 0 q)) ∧
  (PlainOk x true ([pcode p.toNat] ++ vguard q) [pcode 0] →
    ∀ i ∈ ([.pnot, .pmov, .xall, .xany, .xsame] : List (BitVec 3 → BitVec 3 → BitVec 3 → Instr)), dropped (i p 0 q)) ∧
  (PlainOk x (srcOk x.g a) ([vcode a.toNat] ++ vguard q) [pcode 0] → dropped (.pset a 0 q)) ∧
  (PlainOk x true [gpcode p.toNat, gpcode q.toNat] [gpcode 0] → ∀ i ∈ ([.pandG, .porG, .pxorG, .pandnG] : List (BitVec 3 → BitVec 3 → BitVec 3 → Instr)), dropped (i p 0 q)) ∧
  (PlainOk x true ([gpcode p.toNat] ++ gguard q) [gpcode 0] → ∀ i ∈ ([.pnotG, .pmovG] : List (BitVec 3 → BitVec 3 → BitVec 3 → Instr)), dropped (i p 0 q)) ∧
  (PlainOk x (gsOk a) ([gcode a.toNat] ++ gguard q) [gpcode 0] → dropped (.psetG a 0 q))

/-! ## Shadows and provenances (R54, R57 to R66, R68) -/

/-- R58 to R61, R63, R68: the result intervals of the integer instructions, which depend on the views of the operands alone, and what the
write leaves in the shadow and the narrowing of its destination and in the provenances that compare it. -/
def Claims.ResultIntervals : Prop :=
  ∀ (s : State) (x : Env) (b a d : BitVec 7) (g : BitVec 3) (n : BitVec 5) (e : BitVec 6) (o : BitVec 23), At s x →
  let T : Iv := ⟨-(2 ^ 31), 2 ^ 31 - 1⟩
  let fit := fun (l h : Int) => if -(2 ^ 31) ≤ l ∧ l < 2 ^ 31 ∧ -(2 ^ 31) ≤ h ∧ h < 2 ^ 31 then (⟨l, h⟩ : Iv) else T
  let known := fun (u : Iv) (k : Nat → Iv) (other : Iv) => if u.lo = u.hi then k (u.lo % 2 ^ 32).toNat else other
  let products := fun (u v : Iv) => (⟨min (min (u.lo * v.lo) (u.lo * v.hi)) (min (u.hi * v.lo) (u.hi * v.hi)),
    max (max (u.lo * v.lo) (u.lo * v.hi)) (max (u.hi * v.lo) (u.hi * v.hi))⟩ : Iv)
  let width := fun (c : Nat) => min (c / 256 % 256) 32
  let size := fun (v : Int) => if v.toNat = 0 then 0 else Nat.log2 v.toNat + 1
  let add := fun (u v : Iv) => fit (u.lo + v.lo) (u.hi + v.hi)
  let sub := fun (u v : Iv) => fit (u.lo - v.hi) (u.hi - v.lo)
  let mul := fun (u v : Iv) => fit (products u v).lo (products u v).hi
  let and := fun (u v : Iv) => if 0 ≤ u.lo ∧ 0 ≤ v.lo then (⟨0, min u.hi v.hi⟩ : Iv) else if 0 ≤ u.lo then ⟨0, u.hi⟩ else if 0 ≤ v.lo then ⟨0, v.hi⟩ else T
  let or := fun (u v : Iv) => if 0 ≤ u.lo ∧ 0 ≤ v.lo then (⟨0, 2 ^ size (max u.hi v.hi) - 1⟩ : Iv) else T
  let shl := fun (u v : Iv) => known v (fun k => fit (u.lo * 2 ^ min k 32) (u.hi * 2 ^ min k 32)) T
  let sar := fun (u v : Iv) => known v (fun k => (⟨u.lo / 2 ^ min k 32, u.hi / 2 ^ min k 32⟩ : Iv)) ⟨min u.lo 0, max u.hi 0⟩
  let shr := fun (u v : Iv) => known v
    (fun k => if k = 0 then u else if 0 ≤ u.lo then ⟨u.lo / 2 ^ min k 32, u.hi / 2 ^ min k 32⟩ else ⟨0, (2 ^ 32 - 1) / 2 ^ min k 32⟩)
    (if 0 ≤ u.lo then ⟨0, u.hi⟩ else T)
  let anything := fun (_ _ : Iv) => T
  let two : List (((BitVec 7 → BitVec 7 → BitVec 7 → BitVec 3 → Instr) × (BitVec 7 → BitVec 7 → BitVec 7 → BitVec 3 → Instr)) × (Iv → Iv → Iv)) := [
    ((.add, .addG), add), ((.sub, .subG), sub), ((.mul, .mulG), mul), ((.shl, .shlG), shl), ((.sar, .sarG), sar), ((.shr, .shrG), shr),
    ((.and, .andG), and), ((.or, .orG), or), ((.xor, .xorG), or), ((.andn, .andnG), fun u _ => if 0 ≤ u.lo then ⟨0, u.hi⟩ else T),
    ((.minI, .minIG), fun u v => ⟨min u.lo v.lo, min u.hi v.hi⟩), ((.maxI, .maxIG), fun u v => ⟨max u.lo v.lo, max u.hi v.hi⟩),
    ((.minN, .minNG), fun u v => if 0 ≤ u.lo ∧ 0 ≤ v.lo then ⟨min u.lo v.lo, min u.hi v.hi⟩ else if 0 ≤ u.lo then ⟨0, u.hi⟩ else if 0 ≤ v.lo then ⟨0, v.hi⟩ else T),
    ((.maxN, .maxNG), fun u v => if 0 ≤ u.lo ∧ 0 ≤ v.lo then ⟨max u.lo v.lo, max u.hi v.hi⟩ else T),
    ((.bfeN, .bfeNG), fun _ v => known v (fun c => if 1 ≤ width c ∧ width c ≤ 31 then ⟨0, 2 ^ width c - 1⟩ else T) T),
    ((.bfeI, .bfeIG), fun _ v => known v (fun c => if 1 ≤ width c ∧ width c ≤ 31 then ⟨-(2 ^ (width c - 1)), 2 ^ (width c - 1) - 1⟩ else T) T),
    ((.divN, .divNG), fun u v => if 0 ≤ u.lo ∧ 1 ≤ v.lo then ⟨u.lo / v.hi, u.hi / v.lo⟩ else T),
    ((.remN, .remNG), fun u v => if 0 ≤ u.lo ∧ 1 ≤ v.lo then ⟨0, min u.hi (v.hi - 1)⟩ else if 0 ≤ u.lo ∧ v.lo = 0 then ⟨0, u.hi⟩ else T),
    ((.mulhiN, .mulhiNG), anything), ((.mulhiI, .mulhiIG), anything), ((.bytemix, .bytemixG), anything), ((.divI, .divIG), anything), ((.remI, .remIG), anything)]
  let imm : List (((BitVec 7 → BitVec 7 → BitVec 7 → BitVec 3 → Instr) × (BitVec 7 → BitVec 7 → BitVec 7 → BitVec 3 → Instr)) × (Iv → Iv → Iv)) := [
    ((.addi, .addiG), add), ((.muli, .muliG), mul), ((.andi, .andiG), and), ((.ori, .oriG), or), ((.xori, .xoriG), or), ((.shli, .shliG), shl),
    ((.shri, .shriG), shr), ((.sari, .sariG), sar)]
  let one : List (((BitVec 7 → BitVec 7 → BitVec 3 → Instr) × (BitVec 7 → BitVec 7 → BitVec 3 → Instr)) × (Iv → Iv)) := [
    ((.mov, .movG), fun u => u), ((.not, .notG), fun _ => T), ((.neg, .negG), fun u => if -(2 ^ 31) < u.lo then ⟨-u.hi, -u.lo⟩ else T),
    ((.abs, .absG), fun u => if 0 ≤ u.lo then u else if u.lo = -(2 ^ 31) then T else if u.hi ≤ 0 then ⟨-u.hi, -u.lo⟩ else ⟨0, max (-u.lo) u.hi⟩),
    ((.popc, .popcG), fun _ => ⟨0, 32⟩), ((.clz, .clzG), fun _ => ⟨0, 32⟩), ((.brev, .brevG), fun _ => T), ((.cvtI8I32, .cvtI8I32G), fun _ => T)]
  let V := fun (c : Nat) => view x.g x.f c
  (∀ q ∈ two,
    (Vec2Ok x b a d g false → Completes (q.1.1 b a d g) s (VecShadow x d.toNat (guarded x g) (q.2 (V (vcode a.toNat)) (V (vcode b.toNat))))) ∧
    (Grp2Ok x b a d g false → Completes (q.1.2 b a d g) s (GrpShadow x (gpred x.g g.toNat) d.toNat (q.2 (V (gcode a.toNat)) (V (gcode b.toNat)))))) ∧
  (∀ q ∈ imm, let i : Iv := ⟨(b.signExtend 32).toInt, (b.signExtend 32).toInt⟩
    (Vec1Ok x a d g → Completes (q.1.1 b a d g) s (VecShadow x d.toNat (guarded x g) (q.2 (V (vcode a.toNat)) i))) ∧
    (Grp1Ok x a d g → Completes (q.1.2 b a d g) s (GrpShadow x (gpred x.g g.toNat) d.toNat (q.2 (V (gcode a.toNat)) i)))) ∧
  (∀ q ∈ one,
    (Vec1Ok x a d g → Completes (q.1.1 a d g) s (VecShadow x d.toNat (guarded x g) (q.2 (V (vcode a.toNat))))) ∧
    (Grp1Ok x a d g → Completes (q.1.2 a d g) s (GrpShadow x (gpred x.g g.toNat) d.toNat (q.2 (V (gcode a.toNat)))))) ∧
  (Vec2Ok x b a d g true → Completes (.mad b a d g) s (VecShadow x d.toNat (guarded x g)
    (let p := products (V (vcode a.toNat)) (V (vcode b.toNat))
     if fit p.lo p.hi = p then add p (V d.toNat) else T))) ∧
  (Vec2Ok x b a d g false → Completes (.sel b a d g) s (VecShadow x d.toNat x.active
    ⟨min (V (vcode a.toNat)).lo (V (vcode b.toNat)).lo, max (V (vcode a.toNat)).hi (V (vcode b.toNat)).hi⟩) ∧
    ∀ i ∈ ([.fadd, .fsub, .fmul, .fmin, .fmax] : List (BitVec 7 → BitVec 7 → BitVec 7 → BitVec 3 → Instr)),
      Completes (i b a d g) s (VecShadow x d.toNat (guarded x g) T)) ∧
  (HalfOk x (some n.toNat) e.toNat false → Completes (.mov16 n e) s (VecShadow x e.toNat x.active (V n.toNat))) ∧
  (HalfOk x (some n.toNat) e.toNat true → ∀ q ∈ ([(.add16, add), (.sub16, sub), (.and16, and), (.or16, or), (.xor16, or), (.fadd16, anything)]
      : List ((BitVec 5 → BitVec 6 → Instr) × (Iv → Iv → Iv))),
    Completes (q.1 n e) s (VecShadow x e.toNat x.active (q.2 (V e.toNat) (V n.toNat)))) ∧
  (PlainOk x true [] [95] → Completes (.call o) s (VecShadow x 95 x.active ⟨(x.f.pc + 4).toInt, (x.f.pc + 4).toInt⟩)) ∧
  (PlainOk x (gdOk d) [] [128 + d.toNat] → Completes (.getfmt d) s (GrpShadow x true d.toNat ⟨0, 2047⟩)) ∧
  (PlainOk x (gdOk d && srcOk x.g a) ([vcode a.toNat] ++ gguard g) [128 + d.toNat] → x.f.exec ≠ 0 →
    Completes (.readfirst a d g) s (GrpShadow x (gpred x.g g.toNat) d.toNat (V (vcode a.toNat))))

/-- R63: a compare records the relation, the signedness, the compared registers or the immediate, and the live lanes it wrote; one that writes
no lane leaves the old provenance. Every other writer of a predicate leaves an invalid one. (That an operation which writes no lane at all
leaves the old one is the model's choice, log entry 126.) -/
def Claims.CompareProvenances : Prop :=
  ∀ (s : State) (x : Env) (b a : BitVec 7) (p q g : BitVec 3) (c : BitVec 4), At s x → p ≠ 0 →
  let m := guarded x g &&& x.g.live
  let old := fun (n : Nat) => kget ({} : Prov) x.g.provs n
  (∀ r ∈ ([(0, .eq, true), (1, .ne, true), (2, .lt, true), (3, .le, true), (4, .gt, true), (5, .ge, true), (6, .lt, false), (7, .le, false),
      (8, .gt, false), (9, .ge, false)] : List (BitVec 4 × Rel × Bool)),
    (VecCmpOk x (some b) a r.1 p g → Completes (.cmp b a r.1 p g) s (ProvDone x p.toNat (if m = 0 then old p.toNat else
      { valid := true, signed := r.2.2, rel := r.2.1, useImm := false, ra := vcode a.toNat, rb := vcode b.toNat, mask := m }))) ∧
    (VecCmpOk x none a r.1 p g → Completes (.cmpi b a r.1 p g) s (ProvDone x p.toNat (if m = 0 then old p.toNat else
      { valid := true, signed := r.2.2, rel := r.2.1, useImm := true, ra := vcode a.toNat, rb := 255, imm := b.signExtend 32, mask := m }))) ∧
    (GrpCmpOk x (some b) a r.1 p g → Completes (.cmpG b a r.1 p g) s (ProvDone x (8 + p.toNat) (if gpred x.g g.toNat = false then old (8 + p.toNat) else
      { valid := true, signed := r.2.2, rel := r.2.1, useImm := false, ra := gcode a.toNat, rb := gcode b.toNat }))) ∧
    (GrpCmpOk x none a r.1 p g → Completes (.cmpiG b a r.1 p g) s (ProvDone x (8 + p.toNat) (if gpred x.g g.toNat = false then old (8 + p.toNat) else
      { valid := true, signed := r.2.2, rel := r.2.1, useImm := true, ra := gcode a.toNat, rb := 255, imm := b.signExtend 32 })))) ∧
  (PlainOk x (c.toNat ≤ 7 && srcOk x.g a && srcOk x.g b) ([vcode a.toNat, vcode b.toNat] ++ vguard g) [pcode p.toNat] → guarded x g ≠ 0 →
    Completes (.fcmp b a c p g) s (ProvDone x p.toNat {})) ∧
  (PlainOk x true [pcode q.toNat, pcode g.toNat] [pcode p.toNat] → x.active ≠ 0 →
    ∀ i ∈ ([.pand, .por, .pxor, .pandn] : List (BitVec 3 → BitVec 3 → BitVec 3 → Instr)), Completes (i q p g) s (ProvDone x p.toNat {})) ∧
  (PlainOk x true ([pcode q.toNat] ++ vguard g) [pcode p.toNat] → guarded x g ≠ 0 →
    ∀ i ∈ ([.pnot, .pmov, .xall, .xany, .xsame] : List (BitVec 3 → BitVec 3 → BitVec 3 → Instr)), Completes (i q p g) s (ProvDone x p.toNat {})) ∧
  (PlainOk x (srcOk x.g a) ([vcode a.toNat] ++ vguard g) [pcode p.toNat] → guarded x g ≠ 0 → Completes (.pset a p g) s (ProvDone x p.toNat {})) ∧
  (PlainOk x true [gpcode q.toNat, gpcode g.toNat] [gpcode p.toNat] →
    ∀ i ∈ ([.pandG, .porG, .pxorG, .pandnG] : List (BitVec 3 → BitVec 3 → BitVec 3 → Instr)), Completes (i q p g) s (ProvDone x (8 + p.toNat) {})) ∧
  (PlainOk x true ([gpcode q.toNat] ++ gguard g) [gpcode p.toNat] → gpred x.g g.toNat = true →
    ∀ i ∈ ([.pnotG, .pmovG] : List (BitVec 3 → BitVec 3 → BitVec 3 → Instr)), Completes (i q p g) s (ProvDone x (8 + p.toNat) {})) ∧
  (PlainOk x (gsOk a) ([gcode a.toNat] ++ gguard g) [gpcode p.toNat] → gpred x.g g.toNat = true → Completes (.psetG a p g) s (ProvDone x (8 + p.toNat) {}))

/-- R64 to R66: a brc on a valid provenance narrows the compared vector registers, in the one fragment when it does not split and in each child
when it does, by the relation that holds there; without the conditions of R64 it narrows nothing. A brc on a group predicate refines the
shadows of the compared group-wide registers that are not pinned. -/
def Claims.BranchRefinements : Prop :=
  ∀ (s : State) (x : Env) (d : BitVec 8) (o : BitVec 12) (p : BitVec 3), At s x → p ≠ 0 →
  (PlainOk x true (vguard p) [] →
    let pr := kget ({} : Prov) x.g.provs p.toNat
    let taken := x.f.exec &&& pmask x.g p.toNat
    let may := fun (z : Env) => (kget ({} : Prov) z.g.provs p.toNat).valid = true ∧ z.f.exec = z.f.members ∧
      z.f.members &&& ~~~(kget ({} : Prov) z.g.provs p.toNat).mask = 0
    (may x →
      (taken = 0 → Completes (.brcV d o p) s fun u => ∃ y, envAt u x.k x.e = some y ∧ NarrowedBy x pr (opposite pr.rel) y.f) ∧
      (taken ≠ 0 → taken = x.f.exec → Completes (.brcV d o p) s fun u => ∃ y, envAt u x.k x.e = some y ∧ NarrowedBy x pr pr.rel y.f)) ∧
    (¬ may x → (taken = 0 ∨ taken = x.f.exec) → Completes (.brcV d o p) s fun u => ∃ y, envAt u x.k x.e = some y ∧
      ∀ c, y.f.narrow.find? (·.reg == c) = x.f.narrow.find? (·.reg == c)) ∧
    (taken ≠ 0 → taken ≠ x.f.exec → x.g.level = .user → d ≠ 1 →
      ∀ w z, codeAt (afterReads x (vguard p)) (if d = 0 then x.f.pc + 4 else x.f.pc + BitVec.ofNat 32 (2 * d.toNat)) = (.inr w, z) → w % 256 = 0xFF →
      let q := kget ({} : Prov) z.g.provs p.toNat
      Completes (.brcV d o p) s fun u => ∃ y new, envAt u x.k x.e = some y ∧ new ∈ groupFrags y.g ∧ new.members = taken ∧
        (may z → NarrowedBy z q (opposite q.rel) y.f ∧ NarrowedBy z q q.rel new) ∧
        (¬ may z → ∀ c, y.f.narrow.find? (·.reg == c) = z.f.narrow.find? (·.reg == c) ∧ new.narrow.find? (·.reg == c) = z.f.narrow.find? (·.reg == c)))) ∧
  (PlainOk x true (gguard p) [] →
    let pr := kget ({} : Prov) x.g.provs (8 + p.toNat)
    let r := if gpred x.g p.toNat then pr.rel else opposite pr.rel
    let a := firstView x pr
    let b := secondView x pr
    Completes (.brcG o p) s fun u => ∃ y, envAt u x.k x.e = some y ∧
      (∀ c, c ≠ 127 → (pr.valid = false ∨ c < 128 ∨ (shadow x.g c).pin = true ∨ (c ≠ pr.ra ∧ (pr.useImm = true ∨ c ≠ pr.rb))) → shadow y.g c = shadow x.g c) ∧
      (pr.valid = true → (pr.useImm = true ∨ pr.rb ≠ pr.ra) →
        (∀ i, 128 ≤ pr.ra → (shadow x.g pr.ra).pin = false → refined r pr.signed a b = some i → i.lo ≤ i.hi → shadow y.g pr.ra = ⟨i.lo, i.hi, false⟩) ∧
        (∀ i, pr.useImm = false → 128 ≤ pr.rb → (shadow x.g pr.rb).pin = false → refined (swapped r) pr.signed b a = some i → i.lo ≤ i.hi →
          shadow y.g pr.rb = ⟨i.lo, i.hi, false⟩)))

/-- R54: a word of a vector register that is read with a double-bit error raises the data-error trap before any effect, with the register and
the word's two lanes; one with a single-bit error is read corrected, and counted by the core. -/
def Claims.WordErrors : Prop :=
  ∀ (s : State) (x : Env) (b a d : BitVec 7) (g : BitVec 3), At s x → x.g.level = .user → s.stalled = false →
  let reads := readsOf ([vcode a.toNat, vcode b.toNat] ++ vguard g) x.f.exec
  (dstOk x.g d && srcOk x.g a && srcOk x.g b) = true →
  ([vcode a.toNat, vcode b.toNat] ++ vguard g ++ [d.toNat]).any x.g.pending.contains = false →
  ∀ p ∈ ([(.add, fun u v => u + v), (.sub, fun u v => u - v), (.mul, fun u v => u * v), (.and, fun u v => u &&& v), (.or, fun u v => u ||| v), (.xor, fun u v => u ^^^ v)]
    : List ((BitVec 7 → BitVec 7 → BitVec 7 → BitVec 3 → Instr) × (Word → Word → Word))),
  (∀ w, errorWord x.g reads = some w → w / 16 ≤ 95 → Completes (p.1 b a d g) s
    (TrapTaken s x 7 2 (maskOf fun l => decide (l / 2 = w % 16)) (BitVec.ofNat 32 (w / 16)) 0)) ∧
  (errorWord x.g reads = none → Completes (p.1 b a d g) s fun t => ∃ y, Near { s with cores := t.cores } t x y ∧ y.b = x.b ∧
    (kget ({} : Core) t.cores x.core).corrected = (kget ({} : Core) s.cores x.core).corrected + (singleWords x.g reads).length ∧
    (∀ c, c ≠ x.core → kfind t.cores c = kfind s.cores c) ∧ (∀ w ∈ singleWords x.g reads, w ∉ y.g.regSingles) ∧
    (∀ r l, l < 32 → vreg y.g r l = if r = d.toNat ∧ inMask (guarded x g) l then p.2 (vsrc x.g a.toNat l) (vsrc x.g b.toNat l) else vreg x.g r l) ∧
    y.g.gregs = x.g.gregs ∧ y.g.preds = x.g.preds ∧ y.g.gpreds = x.g.gpreds)

/-! ## Across lanes (R192 to R198) -/

/-- R192, R193: the picks. Position j in its segment of w lanes, n from the control word; a receiver whose source lies outside keeps its
value; an absent lane reads as 0. -/
def Claims.CrossLanePicks : Prop :=
  ∀ (s : State) (x : Env) (b a d : BitVec 7) (g : BitVec 3), At s x →
  ∀ p ∈ ([
    (.xpick, false, fun seg _ n w => some (seg + n % w)),
    (.xrise, true, fun seg j n _ => if n ≤ j then some (seg + j - n) else none),
    (.xfall, true, fun seg j n w => if j + n < w then some (seg + j + n) else none),
    (.xflip, false, fun seg j n w => some (seg + (j ^^^ (n % w))))]
    : List ((BitVec 7 → BitVec 7 → BitVec 7 → BitVec 3 → Instr) × Bool × (Nat → Nat → Nat → Nat → Option Nat))),
  let src := fun (l : Nat) =>
    let c := (vsrc x.g b.toNat l).toNat
    let w := if 1 ≤ c / 256 % 8 ∧ c / 256 % 8 ≤ 5 then 2 ^ (c / 256 % 8) else 32
    p.2.2 (l - l % w) (l % w) (c % 32) w
  (dstOk x.g d && srcOk x.g a && srcOk x.g b) = true →
  ReadyFor x ([vcode a.toNat, vcode b.toNat] ++ (if p.2.1 then [d.toNat] else []) ++ vguard g) [d.toNat] (pickReads x a b d.toNat g src) →
  Completes (p.1 b a d g) s (VecDone s x d.toNat (guarded x g)
    (fun l => match src l with
      | some q => if absent x q then 0 else vsrc x.g a.toNat q
      | none => vreg x.g d.toNat l) 4)

/-- R194: the quad exchanges: each lane takes the value of one lane of its quad. -/
def Claims.QuadExchanges : Prop :=
  ∀ (s : State) (x : Env) (a d : BitVec 7) (g : BitVec 3), At s x →
  ∀ p ∈ ([
    (.qswapH, [1, 0, 3, 2]), (.qswapV, [2, 3, 0, 1]), (.qswapD, [3, 2, 1, 0]),
    (.qbcast0, [0, 0, 0, 0]), (.qbcast1, [1, 1, 1, 1]), (.qbcast2, [2, 2, 2, 2]), (.qbcast3, [3, 3, 3, 3])]
    : List ((BitVec 7 → BitVec 7 → BitVec 3 → Instr) × List Nat)),
  let src := fun (l : Nat) => 4 * (l / 4) + p.2.getD (l % 4) 0
  (dstOk x.g d && srcOk x.g a) = true → Ready x ([vcode a.toNat] ++ vguard g) [d.toNat] (sourceLanes x fun l => some (src l)) →
  Completes (p.1 a d g) s (VecDone s x d.toNat (guarded x g) (fun l => if absent x (src l) then 0 else vsrc x.g a.toNat (src l)) 4)

/-- R192, R195, R196: polls and likeness masks. The contributors are the lanes of exec whose guard is true; every receiver, a helper lane
among them, takes the result. -/
def Claims.PollsAndLikeness : Prop :=
  ∀ (s : State) (x : Env) (g : BitVec 3), At s x →
  let c := x.f.exec &&& pmask x.g g.toNat
  (∀ a d : BitVec 3, PlainOk x true ([pcode a.toNat] ++ vguard g) [pcode d.toNat] →
    let h := c &&& pmask x.g a.toNat
    Completes (.xall a d g) s (PredDone s x d.toNat (guarded x g) (fun _ => h == c) 4) ∧
    Completes (.xany a d g) s (PredDone s x d.toNat (guarded x g) (fun _ => h != 0) 4) ∧
    Completes (.xsame a d g) s (PredDone s x d.toNat (guarded x g) (fun _ => h == c || h == 0) 4)) ∧
  (∀ (a : BitVec 3) (d : BitVec 7), PlainOk x (dstOk x.g d) ([pcode a.toNat] ++ vguard g) [d.toNat] →
    let h := c &&& pmask x.g a.toNat
    Completes (.xmask a d g) s (VecDone s x d.toNat (guarded x g) (fun _ => h) 4) ∧
    Completes (.xcount a d g) s (VecDone s x d.toNat (guarded x g) (fun _ => BitVec.ofNat 32 (lanesOf h).length) 4)) ∧
  (∀ a d : BitVec 7, Vec1Ok x a d g →
    Completes (.xeq a d g) s (VecDone s x d.toNat (guarded x g)
      (fun l => maskOf fun q => inMask c q && vsrc x.g a.toNat q == vsrc x.g a.toNat l) 4) ∧
    Completes (.xeqall a d g) s (VecDone s x d.toNat (guarded x g)
      (fun _ => if ∀ q ∈ lanesOf c, ∀ r ∈ lanesOf c, vsrc x.g a.toNat q = vsrc x.g a.toNat r then c else 0) 4))

/-- R197: the reductions. The g register is written whenever the instruction issues, with the identity when no lane contributes;
a floating sum is rounded once. -/
def Claims.ReductionResults : Prop :=
  ∀ (s : State) (x : Env) (a d : BitVec 7) (g : BitVec 3), At s x →
  PlainOk x (gdOk d && srcOk x.g a) ([vcode a.toNat] ++ vguard g) [128 + d.toNat] →
  ∀ p ∈ ([
    (.rdxAdd, fun v => v.foldl (fun u w => u + w) 0), (.rdxMinI, fun v => v.foldl (fun u w => if w.toInt < u.toInt then w else u) 0x7FFFFFFF),
    (.rdxMaxI, fun v => v.foldl (fun u w => if u.toInt < w.toInt then w else u) 0x80000000),
    (.rdxMinN, fun v => v.foldl (fun u w => if w.toNat < u.toNat then w else u) 0xFFFFFFFF),
    (.rdxMaxN, fun v => v.foldl (fun u w => if u.toNat < w.toNat then w else u) 0),
    (.rdxAnd, fun v => v.foldl (fun u w => u &&& w) 0xFFFFFFFF), (.rdxOr, fun v => v.foldl (fun u w => u ||| w) 0),
    (.rdxXor, fun v => v.foldl (fun u w => u ^^^ w) 0),
    (.rdxFadd, fun v => if v = [] then 0 else toF32 (rnd x.f) (sumTerms (rnd x.f) (v.map f32))),
    (.rdxFmin, fun v => v.foldl (minMax32 false) (word fp32.nanEnc)), (.rdxFmax, fun v => v.foldl (minMax32 true) (word fp32.nanEnc))]
    : List ((BitVec 7 → BitVec 7 → BitVec 3 → Instr) × (List Word → Word))),
  Completes (p.1 a d g) s (GrpDone s x true d.toNat
    (p.2 ((lanesOf (x.f.exec &&& pmask x.g g.toNat)).map (vsrc x.g a.toNat))) 4)

/-- R198: the lane moves. A write to a lane outside the fragment's members ends the other fragments' narrowings of the register. -/
def Claims.LaneMoves : Prop :=
  ∀ (s : State) (x : Env) (n : BitVec 5) (a d : BitVec 7) (g : BitVec 3), At s x →
  ((gdOk d && srcOk x.g a) = true → Ready x ([vcode a.toNat] ++ gguard g) [128 + d.toNat] (lane1 n.toNat) →
    Completes (.readlane n a d g) s (GrpDone s x (gpred x.g g.toNat) d.toNat (if absent x n.toNat then 0 else vsrc x.g a.toNat n.toNat) 4)) ∧
  (PlainOk x (gdOk d && srcOk x.g a) ([vcode a.toNat] ++ gguard g) [128 + d.toNat] →
    Completes (.readfirst a d g) s (match (List.range 32).find? (inMask x.f.exec) with
      | some l => GrpDone s x (gpred x.g g.toNat) d.toNat (vsrc x.g a.toNat l) 4
      | none => NopDone s x 4)) ∧
  (PlainOk x (dstOk x.g d && gsOk a) ([gcode a.toNat] ++ gguard g) [d.toNat] →
    let writes := gpred x.g g.toNat && !absent x n.toNat
    (inMask x.f.members n.toNat = true → Completes (.writelane n a d g) s
      (VecDone s x d.toNat (if writes then lane1 n.toNat else 0) (fun _ => gsrc x.g a.toNat) 4)) ∧
    (writes = true → inMask x.f.members n.toNat = false → Completes (.writelane n a d g) s fun t =>
      ∃ y, Near s t x y ∧ y.b = x.b ∧
        (∀ r l, l < 32 → vreg y.g r l = if r = d.toNat ∧ l = n.toNat then gsrc x.g a.toNat else vreg x.g r l) ∧
        y.g.gregs = x.g.gregs ∧ y.g.preds = x.g.preds ∧ y.g.gpreds = x.g.gpreds ∧ FragMarks (x.f.after 4) y.f ∧
        (∀ e f, e ≠ x.e → kfind x.g.table e = some f →
          kfind y.g.table e = some { f with narrow := f.narrow.filter (·.reg != d.toNat) })))

/-! ## Control (R16, R199 to R210, R214) -/

/-- R201: bra moves the whole fragment; call writes lk in every executing lane. Both go a signed number of halfwords, to an address that
must hold a clause header (R158). -/
def Claims.JumpAndCall : Prop :=
  ∀ (s : State) (x : Env) (o : BitVec 23), At s x →
  let target := x.f.pc + BitVec.ofInt 32 (2 * o.toInt)
  Completes (.bra o) s (FragDone s x (x.f.sent target .header)) ∧
  (PlainOk x true [] [95] → Completes (.call o) s (VecAt s x 95 x.active (fun _ => x.f.pc + 4) (x.f.sent target .header)))

/-- R16, R20, R22, R158, R200: brc. With no lane taken the fragment goes on; with all taken it jumps; otherwise the reconvergence address must hold
a clause header as its fetch returns it, the false lanes keep the entry and a new fragment takes the others, both to meet there: it gets the
lowest free entry, and with none free it is ejected to the spill area; d = 1, and an address that holds no header, take the illegal-encoding trap; bytes on their way are waited for. A group predicate moves the whole fragment. -/
def Claims.ConditionalBranches : Prop :=
  ∀ (s : State) (x : Env) (d : BitVec 8) (t : BitVec 12) (p : BitVec 3), At s x →
  let target := x.f.pc + BitVec.ofInt 32 (2 * t.toInt)
  let taken := x.f.exec &&& pmask x.g p.toNat
  let meetAt := if d = 0 then x.f.pc + 4 else x.f.pc + BitVec.ofNat 32 (2 * d.toNat)
  (PlainOk x true (vguard p) [] →
    (taken = 0 → Completes (.brcV d t p) s (NopDone s x 4)) ∧
    (taken ≠ 0 → taken = x.f.exec → Completes (.brcV d t p) s (FragDone s x (x.f.sent target .header))) ∧
    (taken ≠ 0 → taken ≠ x.f.exec → x.g.level = .user → d ≠ 1 →
      ∀ w y0, codeAt (afterReads x (vguard p)) meetAt = (.inr w, y0) → w % 256 = 0xFF → Completes (.brcV d t p) s fun u =>
      ∃ y new, Near y0.s u x y ∧ y.b = x.b ∧ RegsKept x.g y.g ∧
        y.f.members = x.f.members &&& ~~~taken ∧ y.f.exec = x.f.exec &&& ~~~taken ∧ y.f.pc = x.f.pc + 4 ∧
        y.f.reconv = some meetAt ∧ y.f.encl = x.f.reconv ∧
        new.members = taken ∧ new.exec = taken ∧ new.pc = target ∧ new.reconv = some meetAt ∧ new.encl = x.f.reconv ∧ new.fmt = x.f.fmt ∧
        (∀ n, n < 8 → (∀ i, i < n → (kfind x.g.table i).isSome = true) → kfind x.g.table n = none → kfind y.g.table n = some new ∧ y.g.spill = x.g.spill) ∧
        ((∀ i, i < 8 → (kfind x.g.table i).isSome = true) → y.g.spill = new :: x.g.spill) ∧
        ∀ e f, e ≠ x.e → kfind x.g.table e = some f → kfind y.g.table e = some f) ∧
    (taken ≠ 0 → taken ≠ x.f.exec → x.g.level = .user →
      (d = 1 → Completes (.brcV d t p) s (TrapTaken s x 1 0 x.f.exec 0 0)) ∧
      (d ≠ 1 → ∀ r y0, codeAt (afterReads x (vguard p)) meetAt = (r, y0) →
        (∀ w, r = .inr w → w % 256 ≠ 0xFF → Completes (.brcV d t p) s (TrapTaken y0.s y0 1 0 x.f.exec 0 0)) ∧
        (∀ c u a, r = .inl (.trap c u a) → Completes (.brcV d t p) s (TrapTaken y0.s y0 1 0 x.f.exec 0 0)) ∧
        (r = .inl .waits → Answers (.brcV d t p) s (stall y0)) ∧
        (∀ a, r = .inl (.park a) → Answers (.brcV d t p) s (y0.park a))))) ∧
  (PlainOk x true (gguard p) [] → Completes (.brcG t p) s
    (FragDone s x (if gpred x.g p.toNat then x.f.sent target .header else x.f.after 4)))

/-- R203, R204: calli and ret with one target for every executing lane; with none executing, the lowest member's target is taken. -/
def Claims.UniformReturnsAndCalls : Prop :=
  ∀ (s : State) (x : Env) (a : BitVec 7) (v : Word), At s x →
  (Ready x [95] [] (targetLanes x) → x.f.exec ≠ 0 → (∀ l, inMask x.f.exec l = true → vreg x.g 95 l = v) →
    Completes .ret s (FragDone s x (x.f.sent v .header))) ∧
  (Ready x [95] [] (targetLanes x) → x.f.exec = 0 → ∀ l, (List.range 32).find? (inMask x.f.members) = some l →
    Completes .ret s (FragDone s x (x.f.sent (vreg x.g 95 l) .header))) ∧
  (srcOk x.g a = true → Ready x [vcode a.toNat] [95] (targetLanes x) → x.f.exec = 0 → ∀ l, (List.range 32).find? (inMask x.f.members) = some l →
    Completes (.calli a) s (FragDone s x (x.f.sent (vsrc x.g a.toNat l) .calli))) ∧
  (srcOk x.g a = true → Ready x [vcode a.toNat] [95] (targetLanes x) → x.f.exec ≠ 0 → (∀ l, inMask x.f.exec l = true → vsrc x.g a.toNat l = v) →
    Completes (.calli a) s (VecAt s x 95 x.active (fun _ => x.f.pc + 4) (x.f.sent v .calli)))

/-- R20, R203, R204: with several targets the fragment is split by target, in the order of each target's lowest lane: the first keeps the
entry and the members outside exec, every other takes a new one. calli's fragments meet again after the call. -/
def Claims.DivergentReturnsAndCalls : Prop :=
  ∀ (s : State) (x : Env) (a : BitVec 7) (t : Word) (m : Mask) (rest : List (Word × Mask)), At s x → x.g.level = .user → rest ≠ [] →
  (Ready x [95] [] (targetLanes x) → targetSets x.f.exec (vreg x.g 95) = (t, m) :: rest → Completes .ret s fun u =>
    ∃ y, Near s u x y ∧ y.b = x.b ∧ RegsKept x.g y.g ∧ y.f.pc = t ∧ y.f.exec = m ∧ y.f.members = m ||| (x.f.members &&& ~~~x.f.exec) ∧
      y.f.reconv = x.f.reconv ∧ (∀ e f, e ≠ x.e → kfind x.g.table e = some f → kfind y.g.table e = some f) ∧
      ∀ q ∈ rest, ∃ f ∈ groupFrags y.g, f.pc = q.1 ∧ f.members = q.2 ∧ f.exec = q.2 ∧ f.reconv = x.f.reconv) ∧
  (srcOk x.g a = true → Ready x [vcode a.toNat] [95] (targetLanes x) → targetSets x.f.exec (vsrc x.g a.toNat) = (t, m) :: rest →
    Completes (.calli a) s fun u =>
    ∃ y, Near s u x y ∧ y.b = x.b ∧
      (∀ r l, l < 32 → vreg y.g r l = if r = 95 ∧ inMask x.active l then x.f.pc + 4 else vreg x.g r l) ∧
      y.f.pc = t ∧ y.f.exec = m ∧ y.f.members = m ||| (x.f.members &&& ~~~x.f.exec) ∧
      y.f.reconv = some (x.f.pc + 4) ∧ y.f.encl = x.f.reconv ∧ y.f.arrive = .calli ∧
      (∀ e f, e ≠ x.e → kfind x.g.table e = some f → kfind y.g.table e = some f) ∧
      ∀ q ∈ rest, ∃ f ∈ groupFrags y.g, f.pc = q.1 ∧ f.members = q.2 ∧ f.exec = q.2 ∧ f.reconv = some (x.f.pc + 4) ∧ f.arrive = .calli)

/-- R21, R154, R205 to R207: exit ends lanes, and frees the entry of a fragment that has none left, into which the most recently ejected
fragment comes back; in a handler, of a trap that is neither a pre-emption nor a copy's, it returns the group to user level once no lane of the
fragment is left (the model's choice, log entry 116); yield and nop32 only advance; brk always traps; trap traps in the lanes whose guard is
true, and only advances when there is none. -/
def Claims.EndsAndSoftwareTraps : Prop :=
  ∀ (s : State) (x : Env) (c : BitVec 7) (g : BitVec 3) (n : BitVec 24), At s x →
  Completes .yield s (NopDone s x 4) ∧ Completes (.nop32 n) s (NopDone s x 4) ∧
  (x.g.level = .user → Completes (.brk c) s (TrapTaken s x 0x0E 0 x.f.exec (c.zeroExtend 32) 0)) ∧
  (PlainOk x true (vguard g) [] →
    let m := x.f.exec &&& pmask x.g g.toNat
    (m = 0 → Completes (.trap c g) s (NopDone s x 4)) ∧
    (m ≠ 0 → x.g.level = .user → Completes (.trap c g) s (TrapTaken s x 0x0F 0 m (c.zeroExtend 32) 0)) ∧
    (x.f.members &&& ~~~m ≠ 0 → Completes (.exit g) s fun t => ∃ y, Near s t x y ∧ y.b = x.b ∧ RegsKept x.g y.g ∧
      y.g.live = x.g.live &&& ~~~m ∧ y.f.members = x.f.members &&& ~~~m ∧ y.f.exec = x.f.exec &&& ~~~m ∧ y.f.pc = x.f.pc + 4) ∧
    (x.g.bank = none → x.f.members &&& ~~~m = 0 → Completes (.exit g) s fun t => MemKept s t ∧
      ∃ h, kfind t.groups x.k = some h ∧ RegsKept x.g h ∧ h.live = x.g.live &&& ~~~m ∧
        ∀ f r e, x.g.spill = f :: r → e < 8 → (∀ i, i < e → i ≠ x.e ∧ (kfind x.g.table i).isSome = true) → (e = x.e ∨ kfind x.g.table e = none) →
          ∃ q, kfind h.table e = some q ∧ q.members = f.members ∧ q.exec = f.exec ∧ q.fmt = f.fmt ∧ q.narrow = f.narrow) ∧
    (∀ k, x.g.bank = some k → x.f.members &&& ~~~m = 0 → k.trap.kind ≠ .preempt → k.trap.kind ≠ .resume → (∀ n, k.trap.kind ≠ .copy n) →
      k.gvals.map (·.1) = List.range' 56 8 → k.recs.map (·.1) = List.range' 4 4 → Completes (.exit g) s fun t => MemKept s t ∧
      ∃ h, kfind t.groups x.k = some h ∧ h.level = .user ∧ h.bank = none ∧ h.live = x.g.live &&& ~~~m ∧ h.vregs = x.g.vregs ∧ h.preds = x.g.preds ∧
        (∀ r, greg h r = (kfind k.gvals r).getD (greg x.g r)) ∧ ∀ b, brec h b = (kfind k.recs b).getD (brec x.g b)))

/-- R162, R165: a word that no row describes takes the illegal-encoding trap; R349: at user level every word of the system major takes
the privilege trap. -/
def Claims.ReservedWordsTrap : Prop :=
  ∀ (s : State) (x : Env) (w : BitVec 32), At s x → x.g.level = .user →
  Completes (.reservedEncoding w) s (TrapTaken s x (if w.toNat % 256 = 0xFB then 2 else 1) 0 x.f.exec 0 0)

/-- R22, R41 to R43, R208: fmt holds eleven bits; exec is kept within the members. -/
def Claims.FormatAndExec : Prop :=
  ∀ (s : State) (x : Env) (a : BitVec 7), At s x →
  (PlainOk x (gsOk a) [gcode a.toNat] [] →
    Completes (.setfmt a) s (FragDone s x { x.f.after 4 with fmt := BitVec.ofNat 11 (gsrc x.g a.toNat).toNat }) ∧
    Completes (.setexec a) s (FragDone s x { x.f.after 4 with exec := gsrc x.g a.toNat &&& x.f.members })) ∧
  (PlainOk x (gdOk a) [] [128 + a.toNat] →
    Completes (.getfmt a) s (GrpDone s x true a.toNat (BitVec.ofNat 32 x.f.fmt.toNat) 4) ∧
    Completes (.getexec a) s (GrpDone s x true a.toNat x.f.exec 4))

/-- R209, R210: a fragment arrives at a barrier, and its group with it once every fragment of the group has; the first group of a phase sets the
count, and the phase completes when as many groups have arrived as the count says, or, for a count of 0, as the block has groups alive. Until
then bar.sync and cbar.sync wait at their instruction; then the fragment is past it with no arrival left. A second arrival in one phase waits.
cbar.sync's phase completes when every group of the cluster that has not ended has arrived. Memory and registers are as before. -/
def Claims.BarrierArrivals : Prop :=
  ∀ (s : State) (x : Env) (i n : BitVec 7), At s x → releaseHeld x = false → x.f.wait = .none → x.f.again = false →
  ((i.toNat ≤ 15 ∧ n.toNat ≤ 16) →
    let bar := kget ({} : Bar) x.b.bars i.toNat
    let here : Frag := { x.f with arrived := i.toNat :: x.f.arrived }
    let joins := (∀ q ∈ kput x.g.table x.e here, i.toNat ∈ q.2.arrived) ∧ (∀ f ∈ x.g.spill, i.toNat ∈ f.arrived) ∧ bar.arrived.getLsbD x.g.index = false
    let arrived := if joins then bar.arrived ||| (1#16 <<< x.g.index) else bar.arrived
    let count := if joins ∧ bar.countSet = false then n.toNat else bar.expected
    let done := (joins ∨ bar.countSet = true) ∧ (if count = 0 then popBits 16 x.b.alive.toNat else count) ≤ popBits 16 arrived.toNat
    (x.f.arrived.contains i.toNat = true →
      Completes (.barSync i n) s (FragDone s x { x.f with wait := .bar i.toNat, again := true }) ∧
      Completes (.barArrive i n) s (FragDone s x { x.f with wait := .bar i.toNat, again := true })) ∧
    (x.f.arrived.contains i.toNat = false →
      Completes (.barSync i n) s (fun t => MemKept s t ∧ ∃ y, envAt t x.k x.e = some y ∧ RegsKept x.g y.g ∧
        (¬ done → (kget {} y.b.bars i.toNat).phase = bar.phase ∧ (kget {} y.b.bars i.toNat).arrived = arrived ∧
          y.f.wait = .bar i.toNat ∧ y.f.pc = x.f.pc ∧ i.toNat ∈ y.f.arrived) ∧
        (done → (kget {} y.b.bars i.toNat).phase = !bar.phase ∧ (kget {} y.b.bars i.toNat).arrived = 0 ∧
          y.f.wait = .none ∧ y.f.pc = x.f.pc + 4 ∧ i.toNat ∉ y.f.arrived)) ∧
      Completes (.barArrive i n) s (fun t => MemKept s t ∧ ∃ y, envAt t x.k x.e = some y ∧ RegsKept x.g y.g ∧ y.f.wait = .none ∧ y.f.pc = x.f.pc + 4 ∧
        (¬ done → (kget {} y.b.bars i.toNat).phase = bar.phase ∧ (kget {} y.b.bars i.toNat).arrived = arrived ∧ i.toNat ∈ y.f.arrived) ∧
        (done → (kget {} y.b.bars i.toNat).phase = !bar.phase ∧ (kget {} y.b.bars i.toNat).arrived = 0 ∧ i.toNat ∉ y.f.arrived)))) ∧
  (let cl := kget ({} : Cluster) s.clusters x.b.cluster
   let id := 16 * x.g.block + x.g.index
   let joins := (∀ q ∈ kput x.g.table x.e { x.f with wait := .cbar }, q.2.wait = .cbar ∨ ∃ k, x.g.bank = some k ∧ k.trap.entry = q.1 ∧ k.frag.wait = .cbar) ∧
     (∀ f ∈ x.g.spill, f.wait = .cbar) ∧ id ∉ cl.arrived
   let arrived := if joins then cl.arrived ++ [id] else cl.arrived
   let done := arrived ≠ [] ∧ (clusterGroups x.commit x.b.cluster).length ≤ arrived.length
   (kfind s.clusters x.b.cluster).isSome = true → Completes .cbarSync s (fun t => MemKept s t ∧
     ∃ y, envAt t x.k x.e = some y ∧ RegsKept x.g y.g ∧
      (¬ done → (kget ({} : Cluster) t.clusters x.b.cluster).arrived = arrived ∧ y.f.wait = .cbar ∧ y.f.pc = x.f.pc) ∧
      (done → (kget ({} : Cluster) t.clusters x.b.cluster).arrived = [] ∧ (kget ({} : Cluster) t.clusters x.b.cluster).phase = !cl.phase ∧
        y.f.wait = .none ∧ y.f.pc = x.f.pc + 4)))

/-- R27, R28, R214: block registers. a kget of clock t sees every write of clock t - 2 or earlier and no later one; kset, kadd and kcas write
at once, and kadd and kcas return the newest value. -/
def Claims.BlockRegisterResults : Prop :=
  ∀ (s : State) (x : Env) (k : BitVec 4) (a : BitVec 7), At s x →
  let newest := fun (b : Block) (n : Nat) => ((kget {} b.kregs n).writes.head?.map (·.2)).getD 0
  let seen := fun (b : Block) (t : Nat) => (((kget {} b.kregs k.toNat).writes.find? fun w => w.1 + 2 ≤ t).map (·.2)).getD 0
  let wrote := fun (v : Word) (y : Env) => newest y.b k.toNat = v ∧
    (∀ t, s.clock ≤ t → seen y.b t = if s.clock + 2 ≤ t then v else seen x.b t) ∧
    (∀ j, j ≠ k.toNat → kget {} y.b.kregs j = kget {} x.b.kregs j) ∧ { y.b with kregs := x.b.kregs } = x.b
  (PlainOk x (gdOk a) [] [128 + a.toNat] → Completes (.kget k a) s (GrpDone s x true a.toNat (seen x.b s.clock) 4)) ∧
  (kregHeld x = false → PlainOk x (gsOk a) [gcode a.toNat] [] → Completes (.kset k a) s fun t =>
    ∃ y, Near s t x y ∧ wrote (gsrc x.g a.toNat) y ∧ RegsKept x.g y.g ∧ FragMarks (x.f.after 4) y.f) ∧
  (kregHeld x = false → PlainOk x (gdOk a) [128 + a.toNat] [128 + a.toNat] → Completes (.kadd k a) s fun t =>
    ∃ y, Near s t x y ∧ wrote (newest x.b k.toNat + greg x.g a.toNat) y ∧ FragMarks (x.f.after 4) y.f ∧ y.g.vregs = x.g.vregs ∧
      ∀ r, greg y.g r = if r = a.toNat then newest x.b k.toNat else greg x.g r) ∧
  (kregHeld x = false → PlainOk x (gdPairOk a) [128 + a.toNat, 128 + (a.toNat + 1)] [128 + a.toNat] → Completes (.kcas k a) s fun t =>
    ∃ y, Near s t x y ∧ FragMarks (x.f.after 4) y.f ∧ y.g.vregs = x.g.vregs ∧
      (if newest x.b k.toNat = greg x.g a.toNat then wrote (greg x.g (a.toNat + 1)) y else y.b = x.b) ∧
      ∀ r, greg y.g r = if r = a.toNat then newest x.b k.toNat else greg x.g r)


/-! ## Memory (R216 to R235) -/

/-- R216 to R218, R222, R223, R229: a load that passes every row of R219. It brings one element, or two or four consecutive ones, to each
acting lane's registers, which stay pending until the completion point; no byte of memory changes. -/
def Obligations.LoadsStart : Prop :=
  ∀ (s : State) (x : Env) (sl : BitVec 1) (o : BitVec 6) (c : BitVec 3) (i d : BitVec 7) (b : BitVec 3), At s x →
  ∀ p ∈ ([(.ldX1 sl o i d b, 1, false, o.toInt, none), (.ldX2 sl o i d b, 2, false, o.toInt, none), (.ldX4 sl o i d b, 4, false, o.toInt, none),
      (.ldg sl o i d b, 1, true, o.toInt, none), (.ldAcq sl c i d b, 1, false, 0, some c.toNat)]
      : List (Instr × Nat × Bool × Int × Option Nat)),
  ∀ (codes : List Nat) (es : List (Nat × Nat × Option Int)) (y : Env) (ck : Checked),
  let n := p.2.1
  let wide := p.2.2.1
  let off := p.2.2.2.1
  let acq := p.2.2.2.2
  let r := brec x.g b.toNat
  let idx := if wide then gcode i.toNat else vcode i.toNat
  let act := x.acting wide
  let from' := (noteFootprint ck.x r idx off n 0).reserve r idx off n
  validRec r = true → fitCodes x.g (if wide then gcode d.toNat else d.toNat) (recSize r) n = some codes →
  MemOk x wide ((if wide then gdOk d && gsOk i else dstOk x.g d && srcOk x.g i) && (match acq with | some c => c ≤ 4 | none => true)) [idx] codes sl →
  act ≠ 0 →
  Reached (afterReads x [idx]) r b.toNat idx off n (lanesOf act) (fun l => if wide then gsrc x.g i.toNat else vsrc x.g i.toNat l) (pread r)
    .load (acq.getD 0) 1 true wide es y ck →
  Completes p.1 s fun t => ∃ o, Started from'.s x o t ∧ o.kind = .load acq.isSome false ∧ o.flag = flagOf x sl ∧ o.pend = codes ∧
    o.ws = act ∧ (if wide then o.vshadow = [] ∧ o.gshadow = codes.map (· - 128) ∧ o.zeroed = 0
      else o.vshadow = codes ∧ o.gshadow = [] ∧ o.zeroed = x.helpers) ∧
    o.vwrites = loadTable from' r (fun l j w => let q := codes.getD (j * regsPer (recSize r) + w) 0
      if wide then 4096 + (if q ≤ 95 then q else q - 128) else 32 * (if q ≤ 95 then q else q - 128) + l) es ck.done ∧
    MemKept from'.s t

/-- R216, R217, R221 to R223, R229: a store that passes every row of R219 writes the bytes of each acting lane's elements at the places the
checks give, but in a replay none that a higher-numbered completed lane has written, and no other byte; no register changes. A store after a fence.rel counts as a release of that fence's scope in the check of R145. -/
def Obligations.StoresWrite : Prop :=
  ∀ (s : State) (x : Env) (sl : BitVec 1) (o : BitVec 6) (c : BitVec 3) (i d : BitVec 7) (b : BitVec 3), At s x →
  ∀ p ∈ ([(.stX1 sl o i d b, 1, false, o.toInt, none), (.stX2 sl o i d b, 2, false, o.toInt, none), (.stX4 sl o i d b, 4, false, o.toInt, none),
      (.stg sl o i d b, 1, true, o.toInt, none), (.stRel sl c i d b, 1, false, 0, some c.toNat)]
      : List (Instr × Nat × Bool × Int × Option Nat)),
  ∀ (codes : List Nat) (es : List (Nat × Nat × Option Int)) (y : Env) (ck : Checked),
  let n := p.2.1
  let wide := p.2.2.1
  let off := p.2.2.2.1
  let rel := p.2.2.2.2
  let r := brec x.g b.toNat
  let idx := if wide then gcode i.toNat else vcode i.toNat
  let act := x.acting wide
  let from' := noteFootprint ck.x r idx off n 1
  validRec r = true → fitCodes x.g (if wide then gcode d.toNat else vcode d.toNat) (recSize r) n = some codes →
  MemOk x wide ((if wide then gsOk d && gsOk i else srcOk x.g d && srcOk x.g i) && (match rel with | some c => c ≤ 4 | none => true)) (idx :: codes) [] sl →
  act ≠ 0 → (rel.isSome = true → releaseHeld x = false ∧ (rel = some 4 → remoteHeld x = false)) →
  Reached (afterReads x (idx :: codes)) r b.toNat idx off n (lanesOf act) (fun l => if wide then gsrc x.g i.toNat else vsrc x.g i.toNat l) (pwrite r)
    .store (rel.getD 0) 1 false wide es y ck →
  Quiet from'.s → (∀ q ∈ ck.done, watched q.2 = []) →
  Completes p.1 s fun t => ∃ o, Started from'.s x o t ∧ o.kind = .store ∧ o.flag = flagOf x sl ∧ o.pend = [] ∧
    PutsDone from' (replayPuts x (ck.done.flatMap fun q => putsOf q.1 q.2 (elementBytes x.g codes (recSize r) q.1.lane q.1.j))) t

/-- R97, R234, R235: the spill instructions on a clean slot. st.spill writes each acting lane's word at 4 times its number, and the eight
bytes of the register's shadow after them; ld.spill asks for the same bytes. -/
def Claims.SpillsAndReloads : Prop :=
  ∀ (s : State) (x : Env) (sl : BitVec 1) (i d : BitVec 7) (b : BitVec 3) (k : Int) (y : Env) (ck : Checked), At s x →
  let r := brec x.g b.toNat
  let idx := gcode i.toNat
  let act := x.acting false
  act ≠ 0 → spillRec r = true → ck.trap = none ∧ ck.failed = 0 ∧ ck.parked = 0 → (∀ q ∈ ck.segs, ∀ g ∈ q.2, g.tier ≠ 2) →
  (MemOk x false (srcOk x.g d && gsOk i) [idx, vcode d.toNat] [] sl →
    plumbed (afterReads x [idx, vcode d.toNat]) r b.toNat idx 0 1 [0] (fun _ => gsrc x.g i.toNat) false (pwrite r) = .inr ([(0, 0, some k)], y) →
    check y (inScratch r) .store 0 1 false (slotPieces (elemAt r k) (lanesOf act)) = .inr ck →
    let from' := noteFootprint ck.x r idx 0 1 1
    Quiet from'.s → (∀ q ∈ ck.done, watched q.2 = []) →
    Completes (.stSpill sl i d b) s fun t => ∃ o, Started from'.s x o t ∧ o.kind = .store ∧ o.flag = flagOf x sl ∧ o.pend = [] ∧
      PutsDone from' (replayPuts x (((ck.done.filter (·.1.j == 0)).flatMap fun q => putsOf q.1 q.2 (leOut 4 (codeVal x.g (vcode d.toNat) q.1.lane).toNat)) ++
        ((ck.done.filter (·.1.j == 1)).take 1).flatMap fun q => putsOf q.1 q.2 (spillTail (shadow x.g (vcode d.toNat))))) t) ∧
  (MemOk x false (dstOk x.g d && gsOk i) [idx] [d.toNat] sl →
    plumbed (afterReads x [idx]) r b.toNat idx 0 1 [0] (fun _ => gsrc x.g i.toNat) false (pread r) = .inr ([(0, 0, some k)], y) →
    check y (inScratch r) .load 0 1 true (slotPieces (elemAt r k) (lanesOf act)) = .inr ck →
    let from' := noteFootprint (readEffects (ck.x.reserve r idx 0 1) ck.done none (inScratch r)) r idx 0 1 0
    Completes (.ldSpill sl i d b) s fun t => ∃ o, Started from'.s x o t ∧ o.kind = .load false true ∧ o.flag = flagOf x sl ∧ o.pend = [d.toNat] ∧
      o.ws = act ∧ o.vshadow = [d.toNat] ∧ MemKept from'.s t ∧
      o.vwrites = kputAll [] (ck.done.flatMap fun q => (loadWords (pieceRead ck.x q.2) false).zipIdx.map fun w =>
        (if q.1.j = 0 then 32 * d.toNat + q.1.lane else 8192 + w.2, w.1)))

/-- R230 to R233: fences and cinv start an operation, cinv's over the record's reach; icinv forgets the group's fetched code and verdicts and
empties the core's instruction cache; prefetch only advances, as the hint layer may drop it; none of them writes a byte. -/
def Claims.FencesAndCacheOperations : Prop :=
  ∀ (s : State) (x : Env) (sl : BitVec 1) (c : BitVec 3) (i : BitVec 7) (b : BitVec 3), At s x →
  (OpOk x (decide (c.toNat ≤ 4)) [] [] sl →
    ∀ p ∈ ([(.fenceAcq sl c, 1), (.fenceRel sl c, 2), (.fenceAr sl c, 3)] : List (Instr × Nat)),
    Completes p.1 s fun t => ∃ o, Started s x o t ∧ o.kind = .fence p.2 c.toNat ∧ o.flag = flagOf x sl ∧ o.pend = [] ∧ MemKept s t) ∧
  (OpOk x (c = 1 || c = 2) [] [] sl →
    let r := brec x.g b.toNat
    ((validRec r && !inScratch r) = true → ∀ lo hi, reach r = some (lo, hi) → Completes (.cinv sl c b) s fun t =>
      ∃ o, Started s x o t ∧ o.kind = .cinv c.toNat lo hi ∧ o.flag = flagOf x sl ∧ o.pend = [] ∧ MemKept s t) ∧
    ((validRec r && !inScratch r && (reach r).isSome) = false → Completes (.cinv sl c b) s (NopDone s x 4))) ∧
  (AccessOk x true [] [] → Completes (.icinv sl) s fun t => ∃ y, Near { s with cores := t.cores } t x y ∧ y.b = x.b ∧ RegsKept x.g y.g ∧
    y.g.fetched = [] ∧ y.g.verdicts = [] ∧ (kget ({} : Core) t.cores x.core).icache = [] ∧ (∀ c, c ≠ x.core → kfind t.cores c = kfind s.cores c) ∧
    FragMarks (x.f.after 4) y.f) ∧
  (AccessOk x (1 ≤ c.toNat && c.toNat ≤ 3 && srcOk x.g i) [] [vcode i.toNat] → Completes (.prefetch sl c i b) s (NopDone s x 4))

/-- R39, R44, R60, R161, R217, R225, R283: the completion points of loads, atomics, reductions and cadd. -/
def Claims.AccessCompletions : Prop :=
  ∀ (s : State) (o : Op) (g : Group), AtCompletion s o g →
  ((∃ a, o.kind = .load a false) → Completes (.loadCompletion o.id) s (Landed s o g)) ∧
  (o.kind = .atomic true → Completes (.atomicCompletion o.id) s (Landed s o g)) ∧
  ((o.kind = .reduction ∨ o.kind = .atomic false) → Completes (.reductionCompletion o.id) s (Landed s o g)) ∧
  ((∃ sc a v, o.kind = .cadd sc a v) → Completes (.caddCompletion o.id) s (Landed s o g)) ∧
  (∀ id, s.ops.find? (fun q => q.id == id) = none →
    Answers (.loadCompletion id) s s ∧ Answers (.storeCompletion id) s s ∧ Answers (.atomicCompletion id) s s ∧ Answers (.reductionCompletion id) s s)

/-- R78, R235: ld.spill's completion. The register takes the slot's words; its shadow becomes the slot's interval when every value lies in
it, pinned if the slot says so, and TOP otherwise. -/
def Claims.SpillCompletion : Prop :=
  ∀ (s : State) (o : Op) (g : Group) (d : Nat), AtCompletion s o g → o.kind = .load false true → o.vshadow = [d] → o.gshadow = [] → d ≤ 95 →
  o.ws ≠ 0 → o.ws &&& g.live = o.ws → o.ws = g.live →
  let lo := (kget 0 o.vwrites 8192).toInt
  let tail := kget 0 o.vwrites 8193
  let len : Int := tail.toNat % 2 ^ 31
  let hi := if len = 2 ^ 31 - 1 ∨ 2 ^ 31 - 1 < lo + len then 2 ^ 31 - 1 else lo + len
  let inside := ∀ l, l < 32 → inMask o.ws l = true → lo ≤ (kget 0 o.vwrites (32 * d + l)).toInt ∧ (kget 0 o.vwrites (32 * d + l)).toInt ≤ hi
  Completes (.loadCompletion o.id) s fun t => MemKept s t ∧ ∃ h, kfind t.groups o.group = some h ∧
    (∀ r l, l < 32 → vreg h r l = if r = d ∧ inMask (o.ws ||| o.zeroed) l then kget 0 o.vwrites (32 * d + l) else vreg g r l) ∧
    (inside → kfind h.shadows d = some ⟨lo, hi, decide (2 ^ 31 ≤ tail.toNat)⟩) ∧
    (¬ inside → kfind h.shadows d = some ⟨-(2 ^ 31), 2 ^ 31 - 1, false⟩) ∧
    (∀ r, greg (named o h) r = greg (named o g) r) ∧ h.preds = g.preds

/-- R147, R161, R230, R232, R429: the completion points of stores, fences and cinv. A store's bytes are accepted at their home slices, once every
holder of their lines has answered; a fence
completes once nothing it waits for is outstanding, and an acquire fence after an icinv has the group's code fetched again; cinv drops from the
core's L1 every line that holds a byte of its reach. -/
def Claims.StoreAndFenceCompletions : Prop :=
  ∀ (s : State) (o : Op) (g : Group), AtCompletion s o g → o.vshadow = [] → o.gshadow = [] →
  (∀ q, s.ops.find? (fun p => p.id == q.id) = some q → granted s q = false → ∀ i ∈ ([.storeCompletion q.id, .atomicCompletion q.id, .reductionCompletion q.id]
    : List Instr), Answers i s s) ∧
  (o.kind = .store → Answers (.storeCompletion o.id) s
    (finish (wakeAll (accepted (accepted s 0 (touchedIn o 0) true) 1 (touchedIn o 1) false)) o)) ∧
  (∀ k sc, o.kind = .fence k sc →
    (fenceReady s o = true → Completes (.fenceCompletion o.id) s fun t => MemKept s t ∧ t.ops = s.ops.filter (·.id != o.id) ∧
      ∃ h, kfind t.groups o.group = some h ∧ RegsSame o g h ∧ g.acqStamp ≤ h.acqStamp ∧
        (k ≠ 1 → (o.lanes, sc, max g.wrStamp h.acqStamp) ∈ h.relFence ∧ (∀ m c n, c ≠ sc → ((m, c, n) ∈ h.relFence ↔ (m, c, n) ∈ g.relFence)) ∧
          ∀ m n, (m, sc, n) ∈ g.relFence → m &&& ~~~o.lanes ≠ 0 → (m &&& ~~~o.lanes, sc, n) ∈ h.relFence) ∧
        (k ≠ 2 → g.icinv = true → h.fetched = [] ∧ h.icinv = false ∧ h.codeSeen = some (h.acqStamp, s.clock) ∧
          (kget ({} : Core) t.cores (o.group / 64)).icache = []) ∧
        ∀ f, kget 0 h.flags f = kget 0 g.flags f - if f = o.flag ∧ f < 12 then 1 else 0) ∧
    (fenceReady s o = false → Answers (.fenceCompletion o.id) s s)) ∧
  (∀ sc lo hi, o.kind = .cinv sc lo hi → Completes (.cinvCompletion o.id) s fun t => Landed s o g t ∧
    ∀ line, linesIn s o.part lo hi line = true → kfind (kget ({} : Core) t.cores (o.group / 64)).l1 line = none ∧
      (sc = 2 → kfind (kget ({} : Die) t.dies (o.group / 64 / 64)).l2 line = none))

/-- R212, R213: the memory barriers, on a word that the checks have placed. -/
def Claims.MemoryBarriers : Prop :=
  ∀ (s : State) (x y : Env) (g : Seg) (sl : BitVec 1) (i d : BitVec 7) (b : BitVec 3), At s x →
  let w := leVal (segRead y g)
  let now := if w % 65536 = 0 then 65536 else w % 65536
  let next := if now = 1 then (w / 65536 * 65536 + w / 65536 % 65536 + 2 ^ 63) % 2 ^ 64 else w / 65536 * 65536 + (now - 1)
  let n := (gsrc x.g d.toNat).toNat % 65536
  (AccessOk x (gsOk i && gsOk d) [gcode i.toNat, gcode d.toNat] [] →
    WordAt (afterReads x [gcode i.toNat, gcode d.toNat]) b.toNat (gcode i.toNat) (gsrc x.g i.toNat) .store 0 pwrite y g →
    Completes (.mbarInit sl i d b) s fun t => WordWritten y g (n + 65536 * n) t ∧
      ∃ z, envAt t x.k x.e = some z ∧ RegsKept x.g z.g ∧ z.f.pc = x.f.pc + 4) ∧
  (AccessOk x (gsOk i && gdOk d) [gcode i.toNat] [128 + d.toNat] → releaseHeld x = false →
    WordAt (afterReads x [gcode i.toNat]) b.toNat (gcode i.toNat) (gsrc x.g i.toNat) .rmw 3 patom y g →
    Completes (.mbarArrive sl i d b) s fun t => WordWritten y g next t ∧
      ∃ z, envAt t x.k x.e = some z ∧ z.f.pc = x.f.pc + 4 ∧ z.g.vregs = x.g.vregs ∧
        ∀ r, greg z.g r = if r = d.toNat then BitVec.ofNat 32 (w / 2 ^ 63) else greg x.g r) ∧
  (AccessOk x (gsOk i && gsOk d) [gcode i.toNat, gcode d.toNat] [] →
    WordAt (afterReads x [gcode i.toNat, gcode d.toNat]) b.toNat (gcode i.toNat) (gsrc x.g i.toNat) .load 3 pread y g →
    Completes (.mbarWait sl i d b) s fun t => MemKept y.s t ∧ ∃ z, envAt t x.k x.e = some z ∧ RegsKept x.g z.g ∧
      (if w / 2 ^ 63 ≠ n % 2 then z.f.wait = .none ∧ z.f.pc = x.f.pc + 4 ∧ z.f.arrive = .header
       else z.f.wait = .mbar ∧ z.f.pc = x.f.pc ∧ z.f.watch = some ⟨g.tier == 3, g.tier, g.pa, n % 2, wordVa (brec x.g b.toNat) (gsrc x.g i.toNat)⟩)) ∧
  (AccessOk x (gsOk i && gdOk d) [gcode i.toNat, 128 + d.toNat] [128 + d.toNat] →
    WordAt (afterReads x [gcode i.toNat, 128 + d.toNat]) b.toNat (gcode i.toNat) (gsrc x.g i.toNat) .load 3 pread y g →
    Completes (.mbarTest sl i d b) s fun t => MemKept y.s t ∧ ∃ z, envAt t x.k x.e = some z ∧ z.f.pc = x.f.pc + 4 ∧ z.g.vregs = x.g.vregs ∧
      ∀ r, greg z.g r = if r = d.toNat then (if w / 2 ^ 63 ≠ (greg x.g d.toNat).toNat % 2 then 1 else 0) else greg x.g r)

/-- R213, R400, R402, R447: the memory barriers on a word of a peer. mbar.init writes it with a packet; the others ask for it, mbar.arrive with a
second request that changes it if it still holds the value read, and each does its work once its answer has come. That an arrival is a read
and a compare-and-swap is the model's choice (log entry 117). -/
def Claims.PeerMemoryBarriers : Prop :=
  ∀ (s : State) (x y : Env) (g : Seg) (sl : BitVec 1) (i d : BitVec 7) (b : BitVec 3) (w : Nat), At s x →
  let now := if w % 65536 = 0 then 65536 else w % 65536
  let next := if now = 1 then (w / 65536 * 65536 + w / 65536 % 65536 + 2 ^ 63) % 2 ^ 64 else w / 65536 * 65536 + (now - 1)
  let n := (gsrc x.g d.toNat).toNat % 65536
  (AccessOk x (gsOk i && gsOk d) [gcode i.toNat, gcode d.toNat] [] →
    PeerWordAt (afterReads x [gcode i.toNat, gcode d.toNat]) b.toNat (gcode i.toNat) (gsrc x.g i.toNat) .store 0 pwrite y g →
    Completes (.mbarInit sl i d b) s fun t => MemKept y.s t ∧ (∃ z, envAt t x.k x.e = some z ∧ RegsKept x.g z.g ∧ z.f.pc = x.f.pc + 4) ∧
      ∃ tag r, kfind t.remotes tag = some r ∧ r.type = 1 ∧ r.dst = g.place ∧ r.pa = g.pa / 32 * 32 ∧ r.own = some y.g.gid) ∧
  (AccessOk x (gsOk i && gdOk d) [gcode i.toNat] [128 + d.toNat] → releaseHeld x = false →
    PeerWordAt (afterReads x [gcode i.toNat]) b.toNat (gcode i.toNat) (gsrc x.g i.toNat) .rmw 3 patom y g →
    (x.f.peer = none → Completes (.mbarArrive sl i d b) s (WordAsked x y g none)) ∧
    (WordHad x g w false → Completes (.mbarArrive sl i d b) s (WordAsked x y g (some (w, next)))) ∧
    (WordHad x g w true → Completes (.mbarArrive sl i d b) s fun t => MemKept y.s t ∧ ∃ z, envAt t x.k x.e = some z ∧ z.f.pc = x.f.pc + 4 ∧
      z.f.peer = none ∧ z.g.vregs = x.g.vregs ∧ ∀ r, greg z.g r = if r = d.toNat then word (w / 2 ^ 63) else greg x.g r)) ∧
  (AccessOk x (gsOk i && gsOk d) [gcode i.toNat, gcode d.toNat] [] →
    PeerWordAt (afterReads x [gcode i.toNat, gcode d.toNat]) b.toNat (gcode i.toNat) (gsrc x.g i.toNat) .load 3 pread y g →
    (x.f.peer = none → Completes (.mbarWait sl i d b) s (WordAsked x y g none)) ∧
    (WordHad x g w false → Completes (.mbarWait sl i d b) s fun t => MemKept y.s t ∧ ∃ z, envAt t x.k x.e = some z ∧ RegsKept x.g z.g ∧ z.f.peer = none ∧
      (if w / 2 ^ 63 ≠ n % 2 then z.f.wait = .none ∧ z.f.pc = x.f.pc + 4 ∧ z.f.arrive = .header
       else z.f.wait = .mbar ∧ z.f.pc = x.f.pc ∧ ∃ q, z.f.watch = some q ∧ q.tier = 2 ∧ q.addr = g.place * 2 ^ 52 + g.pa ∧ q.want = n % 2))) ∧
  (AccessOk x (gsOk i && gdOk d) [gcode i.toNat, 128 + d.toNat] [128 + d.toNat] →
    PeerWordAt (afterReads x [gcode i.toNat, 128 + d.toNat]) b.toNat (gcode i.toNat) (gsrc x.g i.toNat) .load 3 pread y g →
    (x.f.peer = none → Completes (.mbarTest sl i d b) s (WordAsked x y g none)) ∧
    (WordHad x g w false → Completes (.mbarTest sl i d b) s fun t => MemKept y.s t ∧ ∃ z, envAt t x.k x.e = some z ∧ z.f.pc = x.f.pc + 4 ∧
      z.f.peer = none ∧ z.g.vregs = x.g.vregs ∧
      ∀ r, greg z.g r = if r = d.toNat then (if w / 2 ^ 63 ≠ (greg x.g d.toNat).toNat % 2 then 1 else 0) else greg x.g r))

/-- R224, R225: one lane's operation at its location in memory or scratchpad: the old value comes back, the new one stands there, and every
other byte is as before. Integer operands are taken at the element's size. -/
def Claims.OneAtomicOperation : Prop :=
  ∀ (x : Env) (k : RmwKind) (p e v c : Nat) (g : Seg),
  Quiet x.s → (g.tier ≤ 1 ∨ g.tier = 3) → ¬(k = .det ∧ 10 ≤ p) → (e = 4 ∨ e = 8) → v < 2 ^ (8 * e) →
  let old := leVal (if g.tier = 3 then mreads x.b.scratch g.pa e else physRead x.s g.tier g.pa e)
  let sg := fun (n : Nat) => if n < 2 ^ (8 * e - 1) then (n : Int) else (n : Int) - 2 ^ (8 * e)
  ∀ r ∈ ([(0, (old + v) % 2 ^ (8 * e)), (1, if sg v < sg old then v else old), (2, if sg old < sg v then v else old),
      (3, min old v), (4, max old v), (5, old &&& v), (6, old ||| v), (7, old ^^^ v), (8, v), (9, if old = c then v else old)] : List (Nat × Nat)),
  p = r.1 → ∃ y, rmwOne x k p e v c g = some (old, y) ∧
    (∀ tier a, tier ≤ 1 → physByte y.s tier a =
      if tier = g.tier ∧ g.pa ≤ a ∧ a < g.pa + e then BitVec.ofNat 8 (r.2 / 256 ^ (a - g.pa)) else physByte x.s tier a) ∧
    (∀ a, mget y.b.scratch a =
      if g.tier = 3 ∧ g.pa ≤ a ∧ a < g.pa + e then BitVec.ofNat 8 (r.2 / 256 ^ (a - g.pa)) else mget x.b.scratch a)

/-- R224 to R227: the atomic instructions that pass every row of R219: the lanes' operations take place in lane order; a returning one
leaves its destinations pending with the old values, and no register changes at issue. -/
def Claims.AtomicsStart : Prop :=
  ∀ (s : State) (x : Env) (sl c r : BitVec 1) (p : BitVec 4) (i d : BitVec 7) (b : BitVec 3), At s x →
  ∀ f ∈ ([(.atom sl c r p i d b, .atom, r == 1, false), (.atomg sl c r p i d b, .atom, r == 1, true), (.red sl c p i d b, .red, false, false),
      (.redDet sl c p i d b, .det, false, false)] : List (Instr × RmwKind × Bool × Bool)),
  ∀ (codes : List Nat) (es : List (Nat × Nat × Option Int)) (y z : Env) (ck : Checked) (olds : List (Nat × Nat)),
  let k := f.2.1
  let ret := f.2.2.1
  let wide := f.2.2.2
  let rc := brec x.g b.toNat
  let e := recSize rc
  let w := regsPer e
  let cas := p.toNat = 9
  let idx := if wide then gcode i.toNat else vcode i.toNat
  let act := x.acting wide
  let opnd := fun (l n : Nat) => leVal (((List.range w).flatMap fun q => leOut 4 (codeVal ck.x.g (codes.getD (n + q) 127) l).toNat).take e)
  let dests := if ret then codes.take w else []
  let key := fun (l q : Nat) => let m := codes.getD q 0
    if wide then 4096 + (if m ≤ 95 then m else m - 128) else 32 * (if m ≤ 95 then m else m - 128) + l
  validRec rc = true → (opSizes p.toNat).contains e = true → ¬(k = .det ∧ inScratch rc = true) → ¬(cas ∧ e = 8 ∧ d.toNat % 4 ≠ 0) →
  fitCodes x.g (if wide then gcode d.toNat else if ret then d.toNat else vcode d.toNat) e (if cas then 2 else 1) = some codes →
  MemOk x wide ((if wide then (if ret then gdOk d else gsOk d) else if ret then dstOk x.g d else srcOk x.g d) && (if wide then gsOk i else srcOk x.g i) &&
    opAllowed k p.toNat && !(decide cas && d.toNat % 2 == 1)) (idx :: codes) dests sl →
  act ≠ 0 → x.f.wait = .none → x.g.parked = none →
  Reached (afterReads x (idx :: codes)) rc b.toNat idx 0 1 (lanesOf act) (fun l => if wide then gsrc x.g i.toNat else vsrc x.g i.toNat l) (patom rc)
    .rmw (if c = 0 then 3 else 4) e ret wide es y ck →
  rmwAll ck.x k p.toNat e (fun l => if cas then opnd l w else opnd l 0) (fun l => if cas then opnd l 0 else 0) ck.done = some (olds, z) →
  (∀ q ∈ z.s.slices, q.2.waiters = []) → (∀ q ∈ z.s.parts, q.2.held = []) → (∀ q ∈ ck.done, watched q.2 = []) →
  Completes f.1 s fun t => ∃ o, Started z.s x o t ∧ o.kind = (if k = .atom then .atomic ret else .reduction) ∧ o.flag = flagOf x sl ∧ o.pend = dests ∧
    (ret = true → o.ws = act ∧ o.vwrites = kputAll [] ((es.flatMap fun q => if q.2.2.isNone then (List.range w).map fun n => (key q.1 n, (0 : Word)) else []) ++
      olds.flatMap fun q => (List.range w).map fun n => (key q.1 n, BitVec.ofNat 32 (q.2 / 2 ^ (32 * n))))) ∧
    MemKept z.s t ∧ ∃ bl, kfind t.blocks x.g.block = some bl ∧ bl.scratch = z.b.scratch

/-- R219, rows 2 to 7 and 9, of every load, store, atomic, reduction, spill, memory barrier and counter instruction: an invalid or unfit record
takes the record trap; an element outside under the trap mode the bounds trap; a record that does not permit the access the permission trap; then
the address range, the alignment, the range locks and race-watch, each with the lowest failing address and before any effect. A check that
stops an access decides what its instruction does. -/
def Claims.AccessTraps : Prop :=
  ∀ (s : State) (x : Env) (sl cr rt : BitVec 1) (o : BitVec 6) (c : BitVec 3) (p : BitVec 4) (i d cc : BitVec 7) (b gp : BitVec 3), At s x →
  ∀ f : Form, (IsAccess x sl cr rt o c p i d b f ∨ IsWord x sl cc i d b gp f) → f.issues →
  let trapped := fun (code cause : Nat) (detail : Word) (a : Nat) => Completes f.i s (TrapTaken s x code cause x.f.exec detail a)
  (x.g.level = .user → f.codes = none → trapped 0x13 0 (BitVec.ofNat 32 f.b) 0) ∧
  (x.g.level = .user → f.codes.isSome = true → ∀ h, f.plumb x = (none, h) → trapped 3 0 (BitVec.ofNat 32 f.b) 0) ∧
  (x.g.level = .user → f.codes.isSome = true → f.perm = false → ∀ es h, f.plumb x = (some es, h) → trapped 4 0 (BitVec.ofNat 32 f.b) 0) ∧
  (∀ es y, f.codes.isSome = true → f.plumbed x = .inr (es, y) →
    let ps := f.pieces es
    let space := fun (q : Piece) => decide (q.addr < 0 ∨ (if inScratch f.r then (x.b.spsize : Int) else 2 ^ 57) < q.addr + q.len)
    let skew := fun (q : Piece) => decide (q.addr.toNat % f.align ≠ 0)
    let lock := locked y (inScratch f.r) f.kind
    (∀ u, f.check y es = .inl u → Answers f.i s u) ∧
    (x.g.level = .user →
      (∀ a, LowestOf ps space a → trapped 6 2 0 a) ∧
      (∀ a, (∀ q ∈ ps, space q = false) → LowestOf ps skew a → trapped 9 0 0 a) ∧
      (∀ a, (∀ q ∈ ps, space q = false ∧ skew q = false) → LowestOf ps lock a → trapped 8 0 0 a) ∧
      (let tr := translateAll y.s y.core y.b.part y.g.level (if f.kind = .load then .read else .write) (ps.flatMap pagesOf).eraseDups
       let z : Env := { y with s := tr.2 }
       let races := fun (q : Piece) => (watched (segsOf tr.1 q)).any (races z (if f.kind = .load then f.sc else max f.sc (fenceScope x.g (x.lanesFor f.wide q.lane))))
       ∀ a, inScratch f.r = false → (∀ q ∈ ps, space q = false ∧ skew q = false ∧ lock q = false) → x.b.rwatch = true →
        (preg z.s x.b.part 0x20).getLsbD 0 = false → (f.kind = .load ∨ ∀ l, pteHeld z.s l = false) → (∀ q ∈ ps, failOf tr.1 q = none) →
        (∀ q ∈ ps, (watched (segsOf tr.1 q)).all (fun n => (raceState z.s x.b.part n).isSome) = true) → LowestOf ps races a →
        Completes f.i s (TrapTaken z.s z 0x11 0 x.f.exec 0 a))))

/-- R219, rows 8 and 10: the access of each lane stands or falls for itself. A lane whose page does not translate is left over, and one whose page is
on its way is parked; where data returns, so is one that read unsound data. The trap is the one of the lowest address that fails at row 8, or else
at row 10; every other lane completes with the places its pages give. -/
def Claims.LaneChecks : Prop :=
  ∀ (y : Env) (k : AccKind) (sc align : Nat) (data wide : Bool) (ps : List Piece),
  (∀ q ∈ ps, outside y false q = false ∧ q.addr.toNat % align = 0 ∧ locked y false k q = false) → y.b.rwatch = false → (∀ q ∈ ps, q.lane < 32) →
  let tr := translateAll y.s y.core y.b.part y.g.level (if k = .load then .read else .write) (ps.flatMap pagesOf).eraseDups
  let fails := fun (l : Nat) => ∃ q ∈ ps, q.lane = l ∧ ∃ c u, failOf tr.1 q = some (.trap c u)
  let parks := fun (l : Nat) => (∃ q ∈ ps, q.lane = l ∧ ∃ a, failOf tr.1 q = some (.park a)) ∧ ¬ fails l
  (k = .load ∨ ∀ l, pteHeld tr.2 l = false) → ∃ ck, check y false k sc align data ps wide = .inr ck ∧ MemKept tr.2 ck.x.s ∧
    (∀ l, l < 32 → (inMask ck.parked l = true ↔ parks l)) ∧
    (∀ q, q ∈ ck.segs ↔ q.1 ∈ ps ∧ ¬ fails q.1.lane ∧ ¬ parks q.1.lane ∧ q.2 = segsOf tr.1 q.1) ∧
    (let unsound := fun (q : Piece × List Seg) => data = true ∧ q.2.any (fun g => (segError ck.x g).isSome) = true
     (∀ l, l < 32 → (inMask ck.failed l = true ↔ fails l ∨ ∃ q ∈ ck.segs, q.1.lane = l ∧ unsound q)) ∧
     (∀ q ∈ ps, ∀ c u, failOf tr.1 q = some (.trap c u) → ∃ t w, ck.trap = some t ∧ w ∈ ps ∧ failOf tr.1 w = some (.trap t.code t.cause) ∧ t.addr = w.addr.toNat ∧
       ∀ v ∈ ps, (∃ e n, failOf tr.1 v = some (.trap e n)) → w.addr ≤ v.addr) ∧
     ((∀ q ∈ ps, ∀ c u, failOf tr.1 q ≠ some (.trap c u)) → (∃ q ∈ ck.segs, unsound q) → ∃ t w, ck.trap = some t ∧ t.code = 7 ∧ w ∈ ck.segs ∧ unsound w ∧
       w.2.findSome? (segError ck.x) = some t.cause ∧ t.addr = w.1.addr.toNat ∧ ∀ v ∈ ck.segs, unsound v → w.1.addr ≤ v.1.addr) ∧
     ((∀ q ∈ ps, ∀ c u, failOf tr.1 q ≠ some (.trap c u)) → (∀ q ∈ ck.segs, ¬ unsound q) → ck.trap = none))

/-- R45, R62, R220, R221, R401: an ordinary load or store some of whose lanes the checks leave over. The completed lanes have their effect, and the others
none; a failed one raises the trap, whose record and replay name the lanes left, and gives the flag and the pending registers back; with lanes parked
alone the group waits at the instruction, with its flag raised and its registers pending, and the fragment keeps what is left to do. -/
def Obligations.UnfinishedLanes : Prop :=
  ∀ (s : State) (x : Env) (sl : BitVec 1) (o : BitVec 6) (c : BitVec 3) (i d : BitVec 7) (b : BitVec 3), At s x → x.g.level = .user → x.g.bank = none →
  x.f.wait = .none → x.g.parked = none →
  ∀ (codes : List Nat) (es : List (Nat × Nat × Option Int)) (y : Env) (ck : Checked),
  let left := ck.failed ||| ck.parked
  let flag := flagOf x sl
  let parked := fun (regs : List Nat) (log : List (Nat × Nat)) (z : Env) => z.f.pc = x.f.pc ∧ z.f.replay = some ⟨left, log⟩ ∧ z.g.level = .user ∧
    z.g.parked = some ⟨x.e, ck.pte, flag, regs⟩ ∧ z.g.pending = x.g.pending ++ regs ∧ (∀ r, greg z.g r = greg x.g r) ∧
    ∀ f, kget 0 z.g.flags f = kget 0 x.g.flags f + if f = flag ∧ f < 12 then 1 else 0
  (∀ q ∈ ck.segs, ∀ g ∈ q.2, g.tier ≠ 2) →
  (∀ f ∈ [loadForm x sl (.ldX1 sl o i d b) false b i d o.toInt 1 none, loadForm x sl (.ldX2 sl o i d b) false b i d o.toInt 2 none,
      loadForm x sl (.ldX4 sl o i d b) false b i d o.toInt 4 none, loadForm x sl (.ldg sl o i d b) true b i d o.toInt 1 none,
      loadForm x sl (.ldAcq sl c i d b) false b i d 0 1 (some c.toNat)],
    f.issues → f.codes = some codes → f.plumbed x = .inr (es, y) → f.check y es = .inr ck →
    let from' := (noteFootprint ck.x f.r f.idx f.off f.n 0).reserve f.r f.idx f.off f.n
    let key := fun (l j w : Nat) => let q := codes.getD (j * regsPer (recSize f.r) + w) 0
      if f.wide then 4096 + (if q ≤ 95 then q else q - 128) else 32 * (if q ≤ 95 then q else q - 128) + l
    let landed := fun (z : Env) => ∀ r l, l < 32 → vreg z.g r l =
      if f.wide = false ∧ r ∈ codes ∧ inMask (x.acting false &&& ~~~left ||| x.helpers) l then kget 0 (loadTable from' f.r key es ck.done) (32 * r + l) else vreg x.g r l
    (∀ tr, ck.trap = some tr → Completes f.i s fun t => MemKept from'.s t ∧ ∃ z, envAt t x.k x.e = some z ∧ landed z ∧ Unfinished from'.s x tr left [] z) ∧
    (ck.trap = none → ck.parked ≠ 0 → Completes f.i s fun t => MemKept from'.s t ∧ ∃ z, envAt t x.k x.e = some z ∧ landed z ∧ parked codes [] z)) ∧
  (∀ f ∈ [storeForm x sl (.stX1 sl o i d b) false b i d o.toInt 1 none, storeForm x sl (.stX2 sl o i d b) false b i d o.toInt 2 none,
      storeForm x sl (.stX4 sl o i d b) false b i d o.toInt 4 none, storeForm x sl (.stg sl o i d b) true b i d o.toInt 1 none,
      storeForm x sl (.stRel sl c i d b) false b i d 0 1 (some c.toNat)],
    f.issues → f.codes = some codes → f.plumbed x = .inr (es, y) → f.check y es = .inr ck →
    let from' := noteFootprint ck.x f.r f.idx f.off f.n 1
    let puts := ck.done.flatMap fun q => putsOf q.1 q.2 (elementBytes x.g codes (recSize f.r) q.1.lane q.1.j)
    let log := puts.map (fun q => (q.key, q.lane)) ++ (match x.f.replay with | some r => r.written | none => [])
    Quiet from'.s → (∀ q ∈ ck.done, watched q.2 = []) →
    (∀ tr, ck.trap = some tr → Completes f.i s fun t => PutsDone from' (replayPuts x puts) t ∧ ∃ z, envAt t x.k x.e = some z ∧ z.g.vregs = x.g.vregs ∧ Unfinished from'.s x tr left log z) ∧
    (ck.trap = none → ck.parked ≠ 0 → Completes f.i s fun t => PutsDone from' (replayPuts x puts) t ∧ ∃ z, envAt t x.k x.e = some z ∧ z.g.vregs = x.g.vregs ∧ parked [] log z))

/-- R71 to R73: an element whose index lies outside its record, by mode: trap, mask, clamp, wrap; with an empty record every mode but trap
masks. -/
def Claims.BoundsModes : Prop :=
  ∀ (ext : Nat) (i : Int),
  (0 ≤ i → i < ext → ∀ bm, resolve bm ext i = some (some i.toNat)) ∧
  ((i < 0 ∨ (ext : Int) ≤ i) →
    resolve 0 ext i = none ∧ resolve 1 ext i = some none ∧
    resolve 2 ext i = (if ext = 0 then some none else some (some (if i < 0 then 0 else ext - 1))) ∧
    resolve 3 ext i = (if ext = 0 then some none else some (some (i % ext).toNat)))

/-- R396: a translation changes no byte of memory but the accessed and dirty bits of the entry it ends in, which it only sets. -/
def Claims.TranslationMarksOnly : Prop :=
  ∀ (s t : State) (core p va : Nat) (lvl : Level) (acc : Acc) (r : Xlate), translate s core p lvl acc va = (r, t) →
  t.hostMem = s.hostMem ∧
  (∀ a, a ≠ (walk s p va).path.headD 0 + 1 → mget t.mem a = mget s.mem a) ∧
  (let a := (walk s p va).path.headD 0 + 1
   mget t.mem a = mget s.mem a ∨ mget t.mem a = mget s.mem a ||| 0x20#8 ∨ mget t.mem a = mget s.mem a ||| 0x60#8) ∧
  (∀ c u, r = .trap c u → t.mem = s.mem)


/-! ## Records and shadows (R236 to R243) -/

/-- R237 to R239: ldrec reads a root; rsub derives a narrower record or takes the record trap; rdrec writes a record's four words. -/
def Claims.RecordInstructions : Prop :=
  ∀ (s : State) (x : Env) (n d sr : BitVec 3) (c : BitVec 6) (e : BitVec 7), At s x →
  Completes (.ldrec n d) s (RecDone s x d.toNat (kget 0 x.b.roots n.toNat)) ∧
  (PlainOk x (c.toNat % 4 = 0 && c.toNat ≤ 60) ((List.range 4).map fun i => 128 + c.toNat + i) [] →
    let src := brec x.g sr.toNat
    let sub := subRec src (greg x.g c.toNat) (greg x.g (c.toNat + 1)) (greg x.g (c.toNat + 2)) (greg x.g (c.toNat + 3))
    (∀ r fr fc, validRec src = true → sub = some (r, fr, fc) → validRec r = true → narrower src r fr fc = true →
      Completes (.rsub c sr d) s (RecDone s x d.toNat r)) ∧
    (x.g.level = .user → (validRec src = false ∨ sub = none ∨ (∃ r fr fc, sub = some (r, fr, fc) ∧ (validRec r = false ∨ narrower src r fr fc = false))) →
      Completes (.rsub c sr d) s (TrapTaken s x 0x13 0 x.f.exec (BitVec.ofNat 32 sr.toNat) 0))) ∧
  (PlainOk x (e.toNat % 4 = 0 && e.toNat ≤ 60) [] ((List.range 4).map fun i => 128 + e.toNat + i) →
    Completes (.rdrec sr e) s (GrpsDone s x
      ((List.range 4).map fun i => (e.toNat + i, BitVec.ofNat 32 ((brec x.g sr.toNat).toNat / 2 ^ (32 * i)))) 4))

/-- R54, R67, R69, R240 to R242: iwiden widens by the hull and pins, an empty interval only pins; iunpin and itop; ishadow reads the view. None
of them reads the value of the register whose shadow it names, so an error in that value's words does not stop it. -/
def Claims.ShadowInstructions : Prop :=
  ∀ (s : State) (x : Env) (n f d : BitVec 7) (sel : BitVec 1) (c : Nat), At s x →
  let lo := (greg x.g n.toNat).toInt
  let hi := (greg x.g (n.toNat + 1)).toInt
  let old := shadow x.g c
  (namedDst x f sel = some c →
    (PlainOk x (n.toNat % 2 = 0 && n.toNat ≤ 62) [128 + n.toNat, 128 + (n.toNat + 1)] [c] →
      Completes (.iwiden n f sel) s (ShadowDone s x c (if lo ≤ hi then ⟨min old.lo lo, max old.hi hi, true⟩ else ⟨old.lo, old.hi, true⟩))) ∧
    (PlainOk x true [] [c] →
      Completes (.iunpin f sel) s (ShadowDone s x c ⟨old.lo, old.hi, false⟩) ∧
      Completes (.itop f sel) s (ShadowDone s x c ⟨-(2 ^ 31), 2 ^ 31 - 1, false⟩))) ∧
  (namedSrc x f sel = some c → PlainOk x (d.toNat % 4 = 0 && d.toNat ≤ 60) [] (c :: (List.range 3).map fun i => 128 + d.toNat + i) →
    Completes (.ishadow f d sel) s (GrpsDone s x [(d.toNat, BitVec.ofInt 32 (view x.g x.f c).lo), (d.toNat + 1, BitVec.ofInt 32 (view x.g x.f c).hi),
      (d.toNat + 2, if c = 127 then 0 else BitVec.ofNat 32 ((if old.pin then 1 else 0) + if c ≤ 95 ∧ x.f.narrow.any (·.reg == c) = true then 2 else 0))] 4))

/-- R243: ichk goes on when every tested value lies in the record, and otherwise takes the bounds trap. -/
def Claims.IndexCheck : Prop :=
  ∀ (s : State) (x : Env) (f : BitVec 7) (b : BitVec 3) (sel : BitVec 1) (c : Nat), At s x → namedSrc x f sel = some c → PlainOk x true [c] [] →
  let r := brec x.g b.toNat
  let inside := ∀ l, l < 32 → (if c ≤ 95 then inMask x.f.exec l = true else l = 0) →
    0 ≤ (codeVal x.g c l).toInt ∧ (codeVal x.g c l).toInt < extent r
  (validRec r = true → inside → Completes (.ichk f b sel) s (NopDone s x 4)) ∧
  (x.g.level = .user → validRec r = true → ¬ inside → Completes (.ichk f b sel) s (TrapTaken s x 3 0 x.f.exec (BitVec.ofNat 32 b.toNat) 0)) ∧
  (x.g.level = .user → validRec r = false → Completes (.ichk f b sel) s (TrapTaken s x 0x13 0 x.f.exec (BitVec.ofNat 32 b.toNat) 0))

/-! ## Matrix (R244 to R265) -/

/-- R245, R248, R260, R264, R265: gang writes the gang register; mzero, mrd, mrd's status form and mwr start an operation on their tile, with
the values that the tile or the registers hold at issue; mzero and mwr make the tile busy. mrd takes the stored bits of an FP32 tile, and the
widened value of a narrow one. -/
def Claims.TileInstructions : Prop :=
  ∀ (s : State) (x : Env) (sl : BitVec 1) (m : BitVec 5) (a d : BitVec 7) (q : BitVec 3), At s x →
  let acc := fAcc x.f
  let halves := tileHalves acc m.toNat
  (PlainOk x (gsOk a) [gcode a.toNat] [] → Completes (.gang a) s fun t => ∃ y, Near s t x y ∧ y.b = x.b ∧ FragMarks (x.f.after 4) y.f ∧
    y.g = { x.g with gang := gsrc x.g a.toNat, table := y.g.table }) ∧
  (TileOk x sl m.toNat true [] [] none → Completes (.mzero sl m) s fun t =>
    ∃ o, Started s x o t ∧ o.kind = .tile m.toNat true ∧ o.tiles = halves ∧ o.flag = flagOf x sl ∧ MemKept s t) ∧
  (TileOk x sl m.toNat (gdOk d) [] [128 + d.toNat] none → Completes (.mrdSt sl m d) s fun t =>
    ∃ o, Started s x o t ∧ o.kind = .tile m.toNat false ∧ o.tiles = [] ∧ o.pend = [128 + d.toNat] ∧ o.gshadow = [d.toNat] ∧ o.ws ≠ 0 ∧
      kget 0 o.vwrites (4096 + d.toNat) = kget 0 x.g.tstatus m.toNat ∧ MemKept s t) ∧
  (TileOk x sl m.toNat (d.toNat + 7 ≤ 95 && ((List.range 8).map (d.toNat + ·)).all (nameable x.g)) [] ((List.range 8).map (d.toNat + ·)) none →
    errorHalf x.g acc m.toNat (grid (lanesOf x.active) ((List.range 8).map (8 * q.toNat + ·))) = none →
    Completes (.mrd sl m d q) s fun t => ∃ o, Started s x o t ∧ o.kind = .tile m.toNat false ∧ o.tiles = [] ∧
      o.pend = (List.range 8).map (d.toNat + ·) ∧ o.vshadow = o.pend ∧ o.ws = x.f.exec ∧ o.zeroed = x.helpers ∧ MemKept s t ∧
      ∀ j l, j < 8 → l < 32 → inMask x.active l = true →
        kget 0 o.vwrites (32 * (d.toNat + j) + l) =
          if acc = 0 then BitVec.ofNat 32 (tileBits x.g acc m.toNat l (8 * q.toNat + j)) else toF32 0 (tileVal x.g acc m.toNat l (8 * q.toNat + j))) ∧
  (TileOk x sl m.toNat (decide (a.toNat + 7 ≤ 95) && ((List.range 8).map (a.toNat + ·)).all (nameable x.g)) ((List.range 8).map (a.toNat + ·)) [] none →
    Completes (.mwr sl m a q) s fun t => ∃ o, Started s x o t ∧ o.kind = .tile m.toNat false ∧ o.tiles = halves ∧ o.pend = [] ∧ MemKept s t ∧
      o.awrites = (grid (lanesOf x.f.exec) (List.range 8)).flatMap fun e =>
        tilePut acc m.toNat e.1 (8 * q.toNat + e.2) ((accFmt acc).encode 0 (f32 (vreg x.g (a.toNat + e.2) e.1))).1) ∧
  (TileOk x sl m.toNat true [127] [] none →
    Completes (.mwr sl m 127 q) s fun t => ∃ o, Started s x o t ∧ o.kind = .tile m.toNat false ∧ o.tiles = halves ∧ MemKept s t ∧
      o.awrites = (grid (lanesOf x.f.exec) (List.range 8)).flatMap fun e =>
        tilePut acc m.toNat e.1 (8 * q.toNat + e.2) ((accFmt acc).encode 0 (f32 0)).1)

/-- R261 to R263: mld and mst that pass their checks. mld takes each element from the record's tile, times the scale; mst writes each
element, times the scale, and with its add bit adds what stands there. Neither changes a byte of memory; mst changes no scratchpad byte
outside its elements. -/
def Claims.TileLoadsAndStores : Prop :=
  ∀ (s : State) (x : Env) (sl tr add : BitVec 1) (m c : BitVec 5) (b : BitVec 3) (v : BitVec 6) (r : Rec) (row0 col0 : Nat) (scale : FVal), At s x →
  let acc := fAcc x.f
  let e := efmtSize (tEfmt r)
  let rs := fun (i : Int) => resolveC (tRcirc r) (tRows r) (bmode r) i
  let cs := fun (j : Int) => resolveC (tCcirc r) (tCols r) (bmode r) j
  let pair := [128 + 2 * c.toNat, 128 + (2 * c.toNat + 1)]
  tileRecord x b.toNat c.toNat = some (r, row0, col0, scale) →
  (let cells := (grid lanes (List.range 64)).map fun (q : Nat × Nat) =>
      let ij := if tr = 1 then (q.2, q.1) else (q.1, q.2)
      (q.1, q.2, rs (row0 + ij.1 : Nat), cs (col0 + ij.2 : Nat))
   let addr := fun (q : Nat × Nat × Option (Option Nat) × Option (Option Nat)) =>
      match q.2.2.1, q.2.2.2 with | some (some i), some (some j) => some (tileAddr r i j) | _, _ => none
   TileOk x sl m.toNat true pair [] none → (∀ q ∈ cells, q.2.2.1 ≠ none ∧ q.2.2.2 ≠ none) → pread r = true →
   scratchBad (afterReads x pair) .load true (cells.filterMap fun q => (addr q).map fun a => ⟨q.1, q.2.1, (a : Int), e⟩) = none →
   Completes (.mld sl m b c tr) s fun t => ∃ o, Started s x o t ∧ o.kind = .tile m.toNat false ∧ o.tiles = tileHalves acc m.toNat ∧ MemKept s t ∧
     o.awrites = cells.flatMap fun q => tilePut acc m.toNat q.1 q.2.1 ((accFmt acc).encode 0 (mulExact
       (match addr q with | some a => elemVal (tEfmt r) (leVal (mreads x.b.scratch a e)) | none => .fin false 0 0) scale)).1) ∧
  (let idx := if v = 63 then none else some v.toNat
   let ms := if v = 63 then lanes else lanesOf x.f.exec
   let rows := ms.map fun l => (l, rs (if v = 63 then ((row0 + l : Nat) : Int) else (vreg x.g v.toNat l).toInt + row0))
   let cols := (List.range 64).map fun n => (n, cs (col0 + n : Nat))
   let cells := rows.flatMap fun (q : Nat × Option (Option Nat)) => cols.filterMap fun (w : Nat × Option (Option Nat)) =>
     match q.2, w.2 with | some (some i), some (some j) => some (q.1, w.1, tileAddr r i j) | _, _ => none
   TileOk x sl m.toNat (match idx with | some w => nameable x.g w | none => true) (pair ++ idx.toList) [] none →
   (∀ q ∈ rows, q.2 ≠ none) → (∀ q ∈ cols, q.2 ≠ none) → pwrite r = true → (add = 1 → pread r = true) →
   scratchBad (afterReads x (pair ++ idx.toList)) .store (add == 1) (cells.map fun q => ⟨q.1, q.2.1, (q.2.2 : Int), e⟩) = none →
   errorHalf x.g acc m.toNat (cells.map fun q => (q.1, q.2.1)) = none →
   Completes (.mst sl m b c add v) s fun t => ∃ o, Started s x o t ∧ o.kind = .tile m.toNat false ∧ o.tiles = [] ∧ MemKept s t ∧
     ∃ bl, kfind t.blocks x.g.block = some bl ∧
       bl.scratch = cells.foldl (fun (mem : List Host.Cell) q =>
         let w := mulExact (tileVal x.g acc m.toNat q.1 q.2.1) scale
         let w := if add = 1 then sumTerms 0 [elemVal (tEfmt r) (leVal (mreads mem q.2.2 e)), w] else w
         mputAll mem (cellsAt q.2.2 (leOut e (elemBits (tEfmt r) (x.f.fmt.getLsbD 2) w)))) x.b.scratch ∧
       ∀ a, (∀ q ∈ cells, a < q.2.2 ∨ q.2.2 + e ≤ a) → mget bl.scratch a = mget x.b.scratch a)

/-- R250, R252 to R257: mma and tmma outside a gang that pass their checks: the A rows, the scales and the B bytes are taken at issue, B's
hull is locked, and the operation is started. An invalid gang register traps. -/
def Claims.MatrixIssue : Prop :=
  ∀ (s : State) (x y : Env) (sl : BitVec 1) (m : BitVec 5) (b : BitVec 3) (c : BitVec 4) (v : BitVec 7) (a : KArrival), At s x →
  ∀ p ∈ ([(.mma sl m b c v, false), (.tmma sl m b c v, true)] : List (Instr × Bool)),
  let srcs := [vcode v.toNat, 128 + 2 * c.toNat, 128 + (2 * c.toNat + 1)]
  TileOk x sl m.toNat (srcOk x.g v && (shapeOf p.2 (fAf x.f) (fBf x.f) (fAcc x.f)).isSome) srcs [] (some p.2) →
  (x.g.gang.toNat % 8 = 0 → gather (afterReads x srcs) p.2 sl m.toNat b c v = .inr (y, a) → lockFree s x.core 1 = true → x.g.index < 16 → x.f.wait = .none →
    Completes p.1 s fun t => MemKept s t ∧ (∃ z, envAt t x.k x.e = some z ∧ z.f.pc = x.f.pc + 4 ∧ RegsKept x.g z.g ∧ z.b.scratch = x.b.scratch) ∧
      ∃ o bad, t.ops = s.ops ++ [o] ∧
        o.kind = .matrix a ((bAddrs a a.shape.2).flatMap fun l => l.flatMap fun q => mreads x.b.scratch q a.bSize) bad ∧
        o.group = x.k ∧ o.gid = x.g.gid ∧ o.flag = flagOf x sl ∧ o.tiles = tileHalves (fAcc x.f) m.toNat ∧
        ∃ l, (kget ({} : Core) t.cores x.core).locks = (kget ({} : Core) s.cores x.core).locks ++ [l] ∧ l.matrix = true ∧ l.owner = o.dest ∧ l.role = .matB) ∧
  (x.g.gang.toNat % 8 ≠ 0 → gangValid x = false → x.g.level = .user → Completes p.1 s (TrapTaken s x 0x0B 1 x.f.exec 0 0))

/-- R249, R250, R257: the first member to arrive waits at its instruction at a free keystone; once a keystone is due, the joint issue starts
one operation for each member and frees it; the end of B's stream ends its lock. -/
def Claims.GangArrivalAndJointIssue : Prop :=
  ∀ (s : State) (x y : Env) (sl : BitVec 1) (m : BitVec 5) (b : BitVec 3) (c : BitVec 4) (v : BitVec 7) (a : KArrival) (n : Nat),
  (At s x → ∀ p ∈ ([(.mma sl m b c v, false), (.tmma sl m b c v, true)] : List (Instr × Bool)),
    let srcs := [vcode v.toNat, 128 + 2 * c.toNat, 128 + (2 * c.toNat + 1)]
    let ms := gangMembers x.g.gang
    TileOk x sl m.toNat (srcOk x.g v && (shapeOf p.2 (fAf x.f) (fBf x.f) (fAcc x.f)).isSome) srcs [] (some p.2) →
    x.g.gang.toNat % 8 ≠ 0 → gangValid x = true → gather (afterReads x srcs) p.2 sl m.toNat b c v = .inr (y, a) →
    (∀ i ∈ ms, x.b.alive.getLsbD i = true) →
    (kget ({} : Core) s.cores x.core).keystones.all (fun q => q.2.block != x.g.block) = true →
    (List.range 4).find? (fun n => (kfind (kget ({} : Core) s.cores x.core).keystones n).isNone) = some n →
    Completes p.1 s fun t => MemKept s t ∧ t.ops = s.ops ∧
      (∃ z, envAt t x.k x.e = some z ∧ z.f.wait = .keystone ∧ z.f.pc = x.f.pc ∧ RegsKept x.g z.g) ∧
      ∃ q, kfind (kget ({} : Core) t.cores x.core).keystones n = some q ∧ q.members = [a] ∧ q.set = setMask ms ∧ q.jointDue = false) ∧
  (∀ core q, kfind (kget ({} : Core) s.cores core).keystones n = some q →
    (∀ r ∈ q.members, r.index < 16 ∧ (kfind s.groups r.group).isSome = true) → q.members ≠ [] →
    (q.jointDue = true → lockFree s core 1 = true → Completes (.keystoneJointIssue core n) s fun t => MemKept s t ∧
      kfind (kget ({} : Core) t.cores core).keystones n = none ∧ (∀ n, ∃ w, kget ({} : Block) t.blocks n = { kget ({} : Block) s.blocks n with spSingles := w }) ∧
      ∃ os, t.ops = s.ops ++ os ∧ os.map (·.group) = ((List.range 16).flatMap fun i => q.members.filter (·.index == i)).map (·.group) ∧
        ∀ o ∈ os, ∃ r ∈ q.members, ∃ bs bad, o.kind = .matrix r bs bad ∧ o.flag = r.flag ∧ o.next = r.pc + 4) ∧
    (q.jointDue = false → Answers (.keystoneJointIssue core n) s s)) ∧
  (∀ id, Completes (.bStreamEnd id) s fun t => t = { s with cores := t.cores } ∧
    ∀ k q, kfind s.cores k = some q → kfind t.cores k = some { q with locks := q.locks.filter fun l => !(l.matrix && l.owner == id) })

/-- R115 to R118, R258, R260: the completion of a matrix instruction writes every element of every row gathered; that of a tile operation
writes its elements, or zeroes the tile, and lands its registers. -/
def Obligations.TileCompletions : Prop :=
  ∀ (s : State) (o : Op) (g : Group), AtCompletion s o g →
  (∀ a bs bad, o.kind = .matrix a bs bad → o.vshadow = [] → o.gshadow = [] →
    (kget ({} : Core) s.cores (o.group / 64)).locks.any (fun l => l.matrix && l.owner == o.dest) = false →
    (earlier s o).any (fun q => overlap q.tiles o.tiles) = false →
    Completes (.matrixCompletion o.id) s fun t => MemKept s t ∧ t.ops = s.ops.filter (·.id != o.id) ∧
      ∃ h, kfind t.groups o.group = some h ∧ h.vregs = g.vregs ∧ (∀ r, greg (named o h) r = greg (named o g) r) ∧ h.preds = g.preds ∧
        let acc := bits a.fmt.toNat 10 9
        let len := a.bSize * a.shape.2
        (∀ m n row, n < 64 → a.rows[m]? = some (some row) → tileError g acc a.md m n = false → bad.contains n = false →
          tileBits h acc a.md m n =
            (if a.ternary then tmmaElem a.fmt (tileBits g acc a.md m n) row ((bs.drop (n * len)).take len) (a.sa.getD m 0) (a.sb.getD n 0)
             else mmaElem a.fmt (tileBits g acc a.md m n) row ((bs.drop (n * len)).take len)).1 % (if acc = 0 then 2 ^ 32 else 2 ^ 16)) ∧
        (∀ m n, n < 64 → a.rows[m]? = some none → tileBits h acc a.md m n = tileBits g acc a.md m n)) ∧
  (∀ md zero, o.kind = .tile md zero → Completes (.tileOpCompletion o.id) s fun t => MemKept s t ∧ t.ops = s.ops.filter (·.id != o.id) ∧
    ∃ h, kfind t.groups o.group = some h ∧ h.preds = g.preds ∧
      (∀ r l, l < 32 → vreg h r l = if r ∈ o.vshadow ∧ inMask (o.ws ||| o.zeroed) l then kget 0 o.vwrites (32 * r + l) else vreg g r l) ∧
      (∀ r, greg (named o h) r = if o.ws ≠ 0 ∧ r ∈ o.gshadow then kget 0 o.vwrites (4096 + r) else greg (named o g) r) ∧
      ∀ u, kget 0 h.acc u =
        if zero then (if o.tiles.contains (u / 2048) then 0 else kget 0 g.acc u)
        else ((o.awrites.reverse.find? fun w => w.1 == u).map (·.2)).getD (kget 0 g.acc u))

/-! ## Copies (R266 to R286) -/

/-- R75, R267 to R274: a copy that passes its checks is held by the engine under the lowest number its block has free, with its two locks and
its flag, its footprint is logged, and the fragment goes on; a false guard only advances; an engine without room holds the instruction. -/
def Claims.CopyIssue : Prop :=
  ∀ (s u : State) (x : Env) (sl : BitVec 1) (c : BitVec 7) (gp : BitVec 3) (cp : Copy) (n : Nat), At s x →
  let cw := (List.range 8).map fun i => greg x.g (c.toNat + i)
  OpOk x (gblockOk 8 c) ((List.range 8).map (fun i => 128 + c.toNat + i) ++ gguard gp) [] sl →
  (gpred x.g gp.toNat = false → Completes (.copy sl c gp) s (NopDone s x 4)) ∧
  (gpred x.g gp.toNat = true → releaseHeld x = false →
    copyCheck s x.k x.b x.g.level cw (brec x.g (cT cw)) (brec x.g (cG cw)) (brec x.g (cP cw)) (brec x.g (cC cw)) = (.ok cp, u) →
    dBytes cp.desc ≠ 0 → cp.group = x.k →
    (engineRoom u x.core x.b = false → Answers (.copy sl c gp) s { u with stalled := true }) ∧
    (engineRoom u x.core x.b = true → freeCopy x.b = some n →
      Completes (.copy sl c gp) s fun t => MemKept (copyFootprint u x.b.core x.b.part cp) t ∧ t.ops = u.ops ∧
        ∃ z, envAt t x.k x.e = some z ∧ z.f.pc = x.f.pc + 4 ∧ RegsKept x.g z.g ∧ z.b.scratch = x.b.scratch ∧
          kfind z.b.copies n = some { cp with flag := flagOf x sl } ∧
          (∀ m, m ≠ n → kfind z.b.copies m = kfind x.b.copies m) ∧
          (∀ f, kget 0 z.g.flags f = kget 0 x.g.flags f + if f = flagOf x sl ∧ f < 12 then 1 else 0) ∧
          (x.b.core = x.core → (kget ({} : Core) t.cores x.core).locks =
            (kget ({} : Core) u.cores x.core).locks ++ copyLocks x.b x.g.block n { cp with flag := flagOf x sl })))

/-- R161, R273, R275, R277, R449: a copy that has moved every byte ends, and its entry and locks with it; with a counter on a peer the addition is sent
first, and the copy ends once it is acknowledged; one that meets a failing page is suspended, one
that meets a bad source byte is aborted, each with a trap owed to its group. -/
def Claims.CopyEnds : Prop :=
  ∀ (s t : State) (bid n : Nat) (b : Block) (c : Copy),
  (movable s bid n = none → Answers (.copyCompletion bid n) s s ∧ Answers (.copySuspend bid n) s s ∧ Answers (.copyAbort bid n) s s) ∧
  (movable s bid n = some (b, c) →
    (copyNext s bid n b c = (.done, t) → Answers (.copyCompletion bid n) s t ∧
      (∀ q, kfind t.blocks bid = some q → kfind q.copies n = none) ∧
      (∀ l ∈ (kget ({} : Core) t.cores (c.group / 64)).locks, ¬(l.block = bid ∧ l.owner = n ∧ l.matrix = false))) ∧
    (copyNext s bid n b c = (.waits, t) → Answers (.copyCompletion bid n) s t ∧ Answers (.copySuspend bid n) s s ∧ Answers (.copyAbort bid n) s s) ∧
    (∀ u v g q d, copyRun s bid n { c with locked := true } = (.done, u) → c.locked = true → c.counted = false → counterPlace u c.group b c = (.inr g, v) →
      g.tier = 2 → kfind v.blocks bid = some q → kfind q.copies n = some d → Completes (.copyCompletion bid n) s fun w =>
        MemKept v w ∧ ∃ q d tag r, kfind w.blocks bid = some q ∧ kfind q.copies n = some d ∧ d.counted = true ∧ tag ∈ d.tags ∧
          kfind w.remotes tag = some r ∧ r.type = 3 ∧ r.dst = g.place ∧ r.pa = g.pa ∧ r.copy = some (bid, n)) ∧
    (∀ code u a, copyNext s bid n b c = (.fault code u a, t) → Answers (.copyCompletion bid n) s s ∧
      ∀ q d g, kfind t.blocks bid = some q → kfind q.copies n = some d → kfind t.groups d.group = some g →
        Completes (.copySuspend bid n) s fun w => MemKept t w ∧
          (∃ r, kfind w.blocks bid = some r ∧ kfind r.copies n = some { d with state := .suspended }) ∧
          ∃ h, kfind w.groups d.group = some h ∧ RegsKept g h ∧ ∃ tr, h.traps = g.traps ++ [tr] ∧ tr.code = code ∧ tr.cause = u ∧ tr.addr = a ∧ tr.slot = n) ∧
    (∀ a, copyNext s bid n b c = (.bad a, t) → Answers (.copyCompletion bid n) s s ∧
      ∀ q d g, kfind t.blocks bid = some q → kfind q.copies n = some d → kfind t.groups d.group = some g →
        Completes (.copyAbort bid n) s fun w => MemKept t w ∧
          (∃ r, kfind w.blocks bid = some r ∧ kfind r.copies n = some { d with state := .aborted, locked := false }) ∧
          ∃ h, kfind w.groups d.group = some h ∧ RegsKept g h ∧ ∃ tr, h.traps = g.traps ++ [tr] ∧ tr.code = 0x0D ∧ tr.cause = 1 ∧ tr.addr = a ∧ tr.slot = n))

/-- R281 to R283, R400, R402, R447: a counter on a peer. cwait and ctest ask for it, and do their work once the answer has come; cadd sends its
addition, and its completion point waits for the acknowledgement. That cwait asks again until the counter has reached its value is the model's
choice (log entry 117). -/
def Claims.PeerCounters : Prop :=
  ∀ (s : State) (x y : Env) (g : Seg) (sl : BitVec 1) (c : BitVec 7) (gp p : BitVec 3) (w : Nat), At s x →
  let want := (greg x.g (c.toNat + 2)).toNat + 2 ^ 32 * (greg x.g (c.toNat + 3)).toNat
  let codes := (List.range 4).map fun i => 128 + c.toNat + i
  (AccessOk x (gblockOk 4 c) (codes ++ gguard gp) [] → gpred x.g gp.toNat = true →
    PeerCounterAt (afterReads x (codes ++ gguard gp)) c.toNat .load pread y g →
    (x.f.peer = none → Completes (.cwait sl c gp) s (WordAsked x y g none)) ∧
    (WordHad x g w false → Completes (.cwait sl c gp) s fun t => MemKept y.s t ∧ ∃ z, envAt t x.k x.e = some z ∧ RegsKept x.g z.g ∧ z.f.peer = none ∧
      (if want ≤ w then z.f.wait = .none ∧ z.f.pc = x.f.pc + 4 ∧ z.f.arrive = .header
       else z.f.wait = .cwait ∧ z.f.pc = x.f.pc ∧ ∃ q, z.f.watch = some q ∧ q.tier = 2 ∧ q.addr = g.place * 2 ^ 52 + g.pa ∧ q.want = want))) ∧
  (AccessOk x (gblockOk 4 c) codes [gpcode p.toNat] → PeerCounterAt (afterReads x codes) c.toNat .load pread y g →
    (x.f.peer = none → Completes (.ctest sl c p) s (WordAsked x y g none)) ∧
    (WordHad x g w false → Completes (.ctest sl c p) s fun t => MemKept y.s t ∧ ∃ z, envAt t x.k x.e = some z ∧ z.f.pc = x.f.pc + 4 ∧ z.f.peer = none ∧
      z.g.vregs = x.g.vregs ∧ z.g.gregs = x.g.gregs ∧ z.g.preds = x.g.preds ∧
      ∀ q, q < 8 → gpred z.g q = if q = p.toNat ∧ p ≠ 0 then decide (want ≤ w) else gpred x.g q)) ∧
  (OpOk x (gblockOk 4 c) codes [] sl → PeerCounterAt (afterReads x codes) c.toNat .rmw patom y g →
    Completes (.cadd sl c) s fun t => MemKept y.s t ∧
      (∃ z, envAt t x.k x.e = some z ∧ z.f.pc = x.f.pc + 4 ∧ RegsKept x.g z.g ∧
        ∀ f, kget 0 z.g.flags f = kget 0 x.g.flags f + if f = flagOf x sl ∧ f < 12 then 1 else 0) ∧
      ∃ o tag r, t.ops = y.s.ops ++ [o] ∧ o.kind = .cadd false g.pa want ∧ o.flag = flagOf x sl ∧ o.tags = [tag] ∧
        kfind t.remotes tag = some r ∧ r.type = 3 ∧ r.dst = g.place ∧ r.pa = g.pa ∧ r.op = some o.id)

/-- R158, R281 to R283, R286: cwait goes on once the counter has reached the value, to an address that must hold a clause header, and waits otherwise; ctest tells which; cadd adds; cstep raises
the block's stage. -/
def Claims.LocalCounters : Prop :=
  ∀ (s : State) (x y : Env) (g : Seg) (sl : BitVec 1) (c a : BitVec 7) (gp p : BitVec 3), At s x →
  let want := (greg x.g (c.toNat + 2)).toNat + 2 ^ 32 * (greg x.g (c.toNat + 3)).toNat
  let codes := (List.range 4).map fun i => 128 + c.toNat + i
  let w := leVal (segRead y g)
  (AccessOk x (gblockOk 4 c) (codes ++ gguard gp) [] →
    (gpred x.g gp.toNat = false → Completes (.cwait sl c gp) s (NopDone s x 4)) ∧
    (gpred x.g gp.toNat = true → CounterAt (afterReads x (codes ++ gguard gp)) c.toNat .load pread y g →
      Completes (.cwait sl c gp) s fun t => MemKept y.s t ∧ ∃ z, envAt t x.k x.e = some z ∧ RegsKept x.g z.g ∧
        (if want ≤ w then z.f.wait = .none ∧ z.f.pc = x.f.pc + 4 ∧ z.f.arrive = .header else z.f.wait = .cwait ∧ z.f.pc = x.f.pc ∧
          z.f.watch = some ⟨g.tier == 3, g.tier, g.pa, want, (counterVa (brec x.g (wbits (greg x.g c.toNat) 2 0)) (greg x.g (c.toNat + 1))).toNat⟩))) ∧
  (AccessOk x (gblockOk 4 c) codes [gpcode p.toNat] → CounterAt (afterReads x codes) c.toNat .load pread y g →
    Completes (.ctest sl c p) s fun t => MemKept y.s t ∧ ∃ z, envAt t x.k x.e = some z ∧ z.f.pc = x.f.pc + 4 ∧
      z.g.vregs = x.g.vregs ∧ z.g.gregs = x.g.gregs ∧ z.g.preds = x.g.preds ∧
      (∀ q, q < 8 → gpred z.g q = if q = p.toNat ∧ p ≠ 0 then decide (want ≤ w) else gpred x.g q) ∧ (p = 0 → z.g.provs = x.g.provs)) ∧
  (OpOk x (gblockOk 4 c) codes [] sl → CounterAt (afterReads x codes) c.toNat .rmw patom y g →
    Completes (.cadd sl c) s fun t => WordWritten y g ((w + want) % 2 ^ 64) t ∧
      ∃ o, Started y.s x o t ∧ o.kind = .cadd (g.tier == 3) g.pa want ∧ o.flag = flagOf x sl ∧ o.pend = []) ∧
  (AccessOk x (gsOk a) ([gcode a.toNat] ++ gguard gp) [] →
    (gpred x.g gp.toNat = false → Completes (.cstep sl a gp) s (NopDone s x 4)) ∧
    (gpred x.g gp.toNat = true → releaseHeld x = false → Completes (.cstep sl a gp) s fun t => ∃ z, Near s t x z ∧ RegsKept x.g z.g ∧
      FragMarks (x.f.after 4) z.f ∧ z.b.stage = max x.b.stage (gsrc x.g a.toNat).toNat ∧
      z.b = { x.b with stage := z.b.stage, releasers := z.b.releasers }))

/-- R285: the engine issues the next released stage of a block's schedule as a copy of its own, and the entry moves on to its next one; in a
block being resumed, only once its restore 1 has run. -/
def Claims.StageIssues : Prop :=
  ∀ (s u : State) (bid n num : Nat) (b : Block) (cp : Copy), kfind s.blocks bid = some b →
  let j := kget 0 b.nextj n
  let k := stageGroup s b bid num
  let cw := stageCmd b (kget {} s.clusters b.cluster) (b.sched.getD n []) j
  let r := fun (q : Nat) => kget (0 : Rec) b.roots q
  ((nextStage b = none ∨ (∃ i, nextStage b = some (num, i) ∧ i ≠ n) ∨ b.preempting = true ∨ (b.resumed = true ∧ b.restored1 = false)) →
    Answers (.stageIssue bid n) s s) ∧
  (nextStage b = some (num, n) → engineRoom s b.core b = true → b.preempting = false → (b.resumed = true → b.restored1 = true) →
    copyCheck s k b .user cw (r (cT cw)) (r (cG cw)) (r (cP cw)) (r (cC cw)) = (.ok cp, u) → dBytes cp.desc ≠ 0 → kfind u.blocks bid = some b →
    Completes (.stageIssue bid n) s fun t => MemKept (copyFootprint u b.core b.part cp) t ∧ t.ops = u.ops ∧
      ∃ q, kfind t.blocks bid = some q ∧ kget 0 q.nextj n = j + 1 ∧ q.scratch = b.scratch ∧
        ∀ m, freeCopy b = some m → kfind q.copies m = some cp)


/-! ## Clause headers and traps that wait (R151 to R159, R342, R345, R364) -/

/-- R154, R155, R159, R345: a fragment at a clause header. A calli target must begin with a budget word, as its fetch returns it (two bytes of it, or four). The word the
fragment stands on is the header's own, whose wait mask decides; a pending trap is taken first, at user level, the watchdog's before a
pre-emption's; either ends the group's arrival at a keystone and its joins, and the watchdog's wakes its other fragments as well. -/
def Claims.ClauseHeaders : Prop :=
  ∀ (s : State) (x : Env) (sg y : BitVec 1) (b a : BitVec 4) (w : BitVec 12), At s x →
  let first := x.f.pc + (if sg = 1 then 8 else 4)
  let ok := (a.toNat ≤ 11 ∨ a = 15) ∧ (b.toNat ≤ 11 ∨ b = 15)
  let hword := BitVec.ofNat 32 (0xFF + 256 * w.toNat + 2 ^ 20 * a.toNat + 2 ^ 24 * b.toNat + 2 ^ 28 * y.toNat + 2 ^ 29 * sg.toNat)
  let i := Instr.clauseHeader sg y b a w
  (x.f.arrive = .calli → ∀ r z, firstAt x first = (r, z) →
    (∀ w0, r = .inr w0 → budgetOk z.g w0 = false → x.g.level = .user → Completes i s (TrapTaken z.s z 0x0A 0 x.f.exec 0 0)) ∧
    (∀ c u v, r = .inl (.trap c u v) → x.g.level = .user → Completes i s (TrapTaken z.s z c u x.f.exec 0 v)) ∧
    (r = .inl .waits → Answers i s (stall z)) ∧ (∀ p, r = .inl (.park p) → Answers i s (z.park p))) ∧
  (∀ z : Env, (x.f.arrive ≠ .calli → z = x) → (x.f.arrive = .calli → ∃ w0, firstAt x first = (.inr w0, z) ∧ budgetOk z.g w0 = true) →
    let zero := ∀ i, i < 12 → w.getLsbD i = true → kget 0 z.g.flags i = 0
    (¬ ok → x.g.level = .user → Completes i s (TrapTaken z.s z 1 0 x.f.exec 0 0)) ∧
    (ok → (x.g.level = .user → z.g.watchdog = false ∧ z.g.traps.any isCopyTrap = false ∧ z.g.preempt = none) →
      (zero → Completes i s (FragDone z.s z { z.f with header := x.f.pc, hword := hword, pc := first, arrive := .none, rewait := true })) ∧
      (¬ zero → Answers i s (stall z))) ∧
    (ok → x.g.level = .user → x.f.wait = .none →
      (z.g.watchdog = true → let base := rewaited (leaveWaits z.commit x.k) x.k
        Completes i s fun t => ∃ q, Near base t x q ∧ q.g.watchdog = false ∧
        Handled base x.b.part (BitVec.ofNat 32 (0x15 + 65536 * x.e + 2 ^ 19)) x.f.pc x.f.exec q) ∧
      (∀ c v own, z.g.watchdog = false → z.g.traps.any isCopyTrap = false → z.g.preempt = some (c, v, own) →
        let base := if c = 3 then z.s else leaveWaits z.commit x.k
        Completes i s fun t => ∃ q, Near base t x q ∧ q.g.preempt = none ∧ q.g.sgindex = own ∧ q.g.strec.getD 4 0 = BitVec.ofNat 32 v ∧
          Handled base x.b.part (BitVec.ofNat 32 (0x10 + 256 * c + 65536 * x.e + 2 ^ 19)) x.f.pc x.f.exec q)))

/-- R279, R342, R364, R385: a trap that waits for the handler to end is taken at user level in its own fragment; a waiting fragment, and one of a
group with no live lane, takes the watchdog's or a pre-emption's; a fragment that waits only to reconverge takes none. R364: a block that has issued nothing for its time, all of whose groups wait at user level, is marked. -/
def Claims.WaitingTraps : Prop :=
  ∀ (s : State) (k e n : Nat),
  (∀ x, envAt s k e = some x →
    ((x.g.level ≠ .user ∨ x.g.parked.isSome = true ∨ x.g.resuming.isSome = true ∨ x.g.left = true) → Answers (.trapEntry k e) s s) ∧
    (x.g.level = .user → x.g.parked = none → x.g.resuming = none → x.g.left = false →
      (∀ tr, x.g.traps.find? (fun t => !isCopyTrap t) = some tr → tr.entry = e → Completes (.trapEntry k e) s fun t => MemKept s t ∧
        ∃ z, envAt t k e = some z ∧ z.g.traps = x.g.traps.erase tr ∧
          Handled s x.b.part (BitVec.ofNat 32 (tr.code + 256 * tr.cause + 65536 * e + if tr.inWait then 2 ^ 19 else 0)) tr.pc tr.mask z) ∧
      (x.g.traps.find? (fun t => !isCopyTrap t) = none → (x.f.wait = .none ∨ x.f.wait = .reconv) → x.g.live ≠ 0 → Answers (.trapEntry k e) s s) ∧
      (x.g.traps.find? (fun t => !isCopyTrap t) = none → ((x.f.wait ≠ .none ∧ x.f.wait ≠ .reconv) ∨ x.g.live = 0) →
        let own := if x.f.wait = .keystone then dropArrival s k else dropWaiter s k x.f
        (x.g.watchdog = true → Completes (.trapEntry k e) s fun t => MemKept (leaveWaits s k) t ∧ ((∀ f ∈ groupFrags x.g, f.wait ≠ .join) → MemKept s t) ∧
          ∃ z, envAt t k e = some z ∧ z.g.watchdog = false ∧ (∀ q h, q ≠ e → kfind z.g.table q = some h → h.wait ≠ .keystone ∧ h.wait ≠ .mbar ∧ h.wait ≠ .cwait ∧ h.wait ≠ .join) ∧
          Handled s x.b.part (BitVec.ofNat 32 (0x15 + 65536 * e + 2 ^ 19)) x.f.pc x.f.exec z) ∧
        (∀ c i j, x.g.watchdog = false → x.g.traps = [] → x.g.preempt = some (c, i, j) → Completes (.trapEntry k e) s fun t =>
          MemKept (if c = 3 then own else leaveWaits s k) t ∧ ((∀ f ∈ groupFrags x.g, f.wait ≠ .join) → MemKept s t) ∧
          ∃ z, envAt t k e = some z ∧ z.g.preempt = none ∧ z.g.sgindex = j ∧
          Handled s x.b.part (BitVec.ofNat 32 (0x10 + 256 * c + 65536 * e + 2 ^ 19)) x.f.pc x.f.exec z)))) ∧
  (∀ b, kfind s.blocks n = some b →
    let w := (preg s b.part 0x21).toNat
    let all := ∀ k g, (k, g) ∈ s.groups → g.block = n → g.level = .user ∧ allWait g = true
    (w ≠ 0 → b.preempting = false → b.lastIssue + 65536 * w ≤ s.clock → all → Completes (.watchdogExpiry n) s fun t =>
      t = { s with groups := t.groups, blocks := t.blocks } ∧ kfind t.blocks n = some { b with lastIssue := s.clock } ∧
      ∀ k, kfind t.groups k = (kfind s.groups k).map fun g => if g.block = n then { g with watchdog := true } else g) ∧
    ((w = 0 ∨ b.preempting = true ∨ s.clock < b.lastIssue + 65536 * w ∨ ¬ all) → Answers (.watchdogExpiry n) s s))

/-! ## Tasks (R287 to R311) -/

/-- R293 to R295, R401: spawn and post start their operation with one record for each executing lane, in increasing order; with no lane they only
advance; a fault of the control's fields is the record trap, and a node that is not valid the task trap; a node whose entry is migrating is
waited for. -/
def Obligations.SpawnAndPost : Prop :=
  ∀ (s : State) (x : Env) (sl : BitVec 1) (c v : BitVec 7) (g : BitVec 3), At s x →
  let codes := (List.range 4).map (fun i => 128 + c.toNat + i) ++ (List.range 12).map (v.toNat + ·) ++ vguard g
  let act := x.f.exec &&& pmask x.g g.toNat
  let w := greg x.g c.toNat
  let w1 := greg x.g (c.toNat + 1)
  let bJ := wbits w1 2 0
  let node := wbits w 15 0
  let scope := wbits w 17 16
  let fieldsOk := wbits w 31 21 = 0 ∧ scope < 2 ∧ wbits w1 31 3 = 0 ∧ greg x.g (c.toNat + 3) = 0
  OpOk x (gblockOk 4 c && vblockOk x.g v 12) codes [] sl →
  ∀ p ∈ ([(.spawn sl c v g, 2, .spawn), (.post sl c v g, 1, .post)] : List (Instr × Nat × (List TaskRec → Option Nat → OpKind))),
  (act = 0 → Completes p.1 s (NopDone s x 4)) ∧
  (act ≠ 0 → releaseHeld x = false →
    (x.g.level = .user → (¬ fieldsOk ∨ (w.getLsbD 18 = true ∧ inScratch (brec x.g bJ) = true)) →
      Completes p.1 s (TrapTaken s x 0x13 0 x.f.exec (BitVec.ofNat 32 bJ) 0)) ∧
    (let n := nodeWalk s x.b.part (dieOf x.core) node
     fieldsOk → w.getLsbD 18 = false → nodeHeld n (dieOf x.core) x.b.part node = true → Answers p.1 s { s with stalled := true }) ∧
    (let n := nodeWalk s x.b.part (dieOf x.core) node
     fieldsOk → w.getLsbD 18 = false → nodeHeld n (dieOf x.core) x.b.part node = false →
      ((nodeFor n (dieOf x.core) x.b.part node).isSome = true → Completes p.1 s fun t => MemKept n t ∧ ∃ o, Started n x o t ∧ o.flag = flagOf x sl ∧
        o.pend = [] ∧ o.kind = p.2.2 ((lanesOf act).map fun l => { node := node, scope := scope, origin := p.2.1, pri := wbits w 20 19, stamp := releaseStamp x.g, args := (List.range 12).map fun i => vreg x.g (v.toNat + i) l }) none) ∧
      ((nodeFor n (dieOf x.core) x.b.part node) = none → x.g.level = .user → Completes p.1 s (TrapTaken n x 0x12 0 x.f.exec 0 0))) ∧
    (∀ y q, fieldsOk → w.getLsbD 18 = true → inScratch (brec x.g bJ) = false →
      controlWord (afterReads x codes) bJ (128 + (c.toNat + 2)) (greg x.g (c.toNat + 2)) .rmw 3 8 patom counterRec = .inr (y, q) →
      let n := nodeWalk y.s y.b.part (dieOf x.core) node
      nodeHeld n (dieOf x.core) y.b.part node = false →
      (nodeFor n (dieOf x.core) y.b.part node).isSome = true → Completes p.1 s fun t => MemKept n t ∧ ∃ o, Started n x o t ∧ o.flag = flagOf x sl ∧
        o.pend = [] ∧ o.kind = p.2.2 ((lanesOf act).map fun l => { node := node, scope := scope, jn := true, origin := p.2.1, pri := wbits w 20 19, join := (counterVa (brec x.g bJ) (greg x.g (c.toNat + 2))).toNat, stamp := releaseStamp x.g, args := (List.range 12).map fun i => vreg x.g (v.toNat + i) l }) (some q.key) ∧
        o.dest = q.pte))

/-- R294 to R296: at its completion point spawn adds its number of records to the join counter, then pushes one frame with them as the newest of
the core's quarry; post gives each record its place. With no room the task trap is raised, and nothing of it has happened. A join
counter on a peer is counted first, when there is room, and what is placed follows its acknowledgement (R161, R449; where the room is gone by then,
the wait is the model's choice: log entry 118). -/
def Obligations.SpawnAndPostCompletions : Prop :=
  ∀ (s : State) (o : Op) (g : Group) (recs : List TaskRec), AtCompletion s o g →
  let core := o.group / 64
  let part := o.part
  let frame : Frame := { recs := recs, part := part, gslot := o.group % 64, core := core }
  let full := fun (i : Instr) (u : State) => ∀ f, g.level = .user → kfind g.table o.entry = some f → Completes i s (LateTrap u o g 0x12 f.exec)
  let sent := fun (key : Nat) (u t : State) => MemKept u t ∧ ∃ q tag r, q ∈ t.ops ∧ q.id = o.id ∧ q.counted = true ∧ tag ∈ q.tags ∧
    kfind t.remotes tag = some r ∧ r.type = 3 ∧ r.dst = (joinSeg key o.dest).place ∧ r.pa = (joinSeg key o.dest).pa ∧ r.op = some o.id
  (∀ j, o.kind = .spawn recs j → o.counted = false →
    (j = none → sramUse s core + frameSize frame ≤ 32768 → Completes (.spawnCompletion o.id) s fun t => Landed s o g t ∧
      (kget ({} : Core) t.cores core).quarry = (kget ({} : Core) s.cores core).quarry ++ [frame]) ∧
    (∀ key, j = some key → key / 2 ^ 60 ≤ 1 → sramUse s core + frameSize frame ≤ 32768 → Quiet s → watched [joinSeg key o.dest] = [] →
      Completes (.spawnCompletion o.id) s fun t =>
      t.ops = s.ops.filter (·.id != o.id) ∧ (kget ({} : Core) t.cores core).quarry = (kget ({} : Core) s.cores core).quarry ++ [frame] ∧
      ∀ q a, q ≤ 1 → physByte t q a = if q = key / 2 ^ 60 ∧ key % 2 ^ 60 ≤ a ∧ a < key % 2 ^ 60 + 8 then
          BitVec.ofNat 8 ((leVal (physRead s q (key % 2 ^ 60) 8) + recs.length) / 256 ^ (a - key % 2 ^ 60)) else physByte s q a) ∧
    (pushWaits s core frame = true → Answers (.spawnCompletion o.id) s s) ∧
    (pushWaits s core frame = false → (∀ key, j = some key → key / 2 ^ 60 ≠ 2) →
      pushFrame (match j with | some key => bumpWord s o key recs.length | none => s) core frame = none → full (.spawnCompletion o.id) s) ∧
    (∀ key, pushWaits s core frame = false → j = some key → key / 2 ^ 60 = 2 →
      (pushFrame s core frame = none → full (.spawnCompletion o.id) s) ∧
      ((pushFrame s core frame).isSome = true → Completes (.spawnCompletion o.id) s (sent key s)))) ∧
  (∀ j, o.kind = .spawn recs j → o.counted = true →
    (sramUse s core + frameSize frame ≤ 32768 → Completes (.spawnCompletion o.id) s fun t => Landed s o g t ∧
      (kget ({} : Core) t.cores core).quarry = (kget ({} : Core) s.cores core).quarry ++ [frame]) ∧
    (pushFrame s core frame = none → Answers (.spawnCompletion o.id) s s)) ∧
  (∀ r rest j, o.kind = .post recs j → recs = r :: rest → nodeHeld s (dieOf core) part r.node = true → Answers (.postCompletion o.id) s s) ∧
  (∀ j r rest d u, o.kind = .post recs j → recs = r :: rest → nodeHeld s (dieOf core) part r.node = false → nodeFor s (dieOf core) part r.node = some d →
    let n := nodeWalk s part (dieOf core) r.node
    let done := fun (t : State) => t.dies = u.dies ∧ t.mem = u.mem ∧ t.ops = u.ops.filter (·.id != o.id)
    (o.counted = false → (∀ key, j = some key → key / 2 ^ 60 ≠ 2) →
      let c := match j with | some key => bumpWord n o key recs.length | none => n
      (placeAll c part (dieOf core) d recs = some u → Completes (.postCompletion o.id) s done) ∧
      (placeAll c part (dieOf core) d recs = none → full (.postCompletion o.id) n)) ∧
    (∀ key, o.counted = false → j = some key → key / 2 ^ 60 = 2 →
      (placeAll n part (dieOf core) d recs = none → full (.postCompletion o.id) n) ∧
      ((placeAll n part (dieOf core) d recs).isSome = true → Completes (.postCompletion o.id) s (sent key n))) ∧
    (o.counted = true → (placeAll n part (dieOf core) d recs = some u → Completes (.postCompletion o.id) s done) ∧
      (placeAll n part (dieOf core) d recs = none → Answers (.postCompletion o.id) s n)) ∧
    (let b := binAt s (dieOf core) part r.node
     j = none → o.counted = false → rest = [] → (binAt s (homeDie s part r.node) part r.node).ring = [] → b.hw = true → b.recs.length < 32 →
     Completes (.postCompletion o.id) s fun t => Landed (nodeWalk n part (dieOf core) r.node) o g t ∧ (binAt t (dieOf core) part r.node).recs = b.recs ++ [r]))

/-- R139, R299: exit.j checks every linked lane's join counter as a read-modify-write is checked, takes one from each as a release, then ends the
lanes; one that is not aligned traps, one whose page fails traps in the lanes that name it, each before any effect, and a lane without a link traps. R158, R300: join
goes on when its counter is zero, to an address that must hold a clause header, and otherwise waits as the counter's waiter; a counter that has a
waiter already traps. A counter on a peer is asked for first (the model's choice: log entry 117). -/
def Obligations.JoinAndExit : Prop :=
  ∀ (s : State) (x : Env) (sl : BitVec 1) (c : BitVec 7) (gp : BitVec 3), At s x →
  (AccessOk x true [] [] →
    (x.f.exec = 0 → Completes (.exitJ sl) s (NopDone s x 4)) ∧
    (releaseHeld x = false → x.g.level = .user → (∃ l, inMask x.f.exec l = true ∧ kfind x.g.links l = none) →
      Completes (.exitJ sl) s (TrapTaken s x 0x12 0 x.f.exec 0 0)) ∧
    (let ps := (lanesOf x.f.exec).map fun l => (⟨l, 0, (kget 0 x.g.links l : Nat), 8⟩ : Piece)
     ∀ a, x.f.exec ≠ 0 → releaseHeld x = false → x.g.level = .user → (∀ l, inMask x.f.exec l = true → (kfind x.g.links l).isSome = true) →
      lowestBad ps (outside x false) = none → lowestBad ps (fun p => p.addr.toNat % 8 != 0) = some a →
      Completes (.exitJ sl) s (TrapTaken s x 9 0 x.f.exec 0 a)) ∧
    (∀ ck : Checked, x.f.exec ≠ 0 → releaseHeld x = false → (∀ l, inMask x.f.exec l = true → (kfind x.g.links l).isSome = true) →
      check x false .rmw 3 8 false ((lanesOf x.f.exec).map fun l => (⟨l, 0, (kget 0 x.g.links l : Nat), 8⟩ : Piece)) = .inr ck →
      (∀ tr, ck.trap = some tr → x.g.level = .user → Completes (.exitJ sl) s (TrapTaken ck.x.s ck.x tr.code tr.cause ck.failed 0 tr.addr)) ∧
      (ck.trap = none → ck.parked ≠ 0 → Answers (.exitJ sl) s (ck.x.park ck.pte)) ∧
      (let sg := ck.segs.filterMap fun q => q.2.head?
       ck.trap = none → ck.parked = 0 → (∀ g ∈ sg, g.tier ≤ 1 ∧ watched [g] = []) → Still x ck.x.s → x.g.bank = none → Completes (.exitJ sl) s fun t =>
        (∀ q a, q ≤ 1 → physByte t q a = sg.foldl downOnce (physByte ck.x.s) q a) ∧
        ∃ h, kfind t.groups x.k = some h ∧ h.live = x.g.live &&& ~~~x.f.exec ∧ RegsKept x.g h))) ∧
  (let codes := (List.range 4).map fun i => 128 + c.toNat + i
   let b := wbits (greg x.g c.toNat) 2 0
   AccessOk x (gblockOk 4 c) (codes ++ gguard gp) [] →
    (gpred x.g gp.toNat = false → Completes (.join sl c gp) s (NopDone s x 4)) ∧
    (gpred x.g gp.toNat = true → x.f.crowded = true → x.g.level = .user →
      Completes (.join sl c gp) s (TrapTaken s { x with f := { x.f with crowded := false } } 0x12 0 x.f.exec 0 0)) ∧
    (gpred x.g gp.toNat = true → x.f.crowded = false → x.g.level = .user → inScratch (brec x.g b) = true →
      Completes (.join sl c gp) s (TrapTaken s x 0x13 0 x.f.exec (BitVec.ofNat 32 b) 0)) ∧
    (∀ y q, gpred x.g gp.toNat = true → x.f.crowded = false → inScratch (brec x.g b) = false → CounterAt (afterReads x (codes ++ gguard gp)) c.toNat .rmw patom y q →
      (leVal (segRead y q) = 0 → Completes (.join sl c gp) s fun t => MemKept y.s t ∧ ∃ z, envAt t x.k x.e = some z ∧ RegsKept x.g z.g ∧
        z.f.wait = .none ∧ z.f.pc = x.f.pc + 4 ∧ z.f.arrive = .header) ∧
      (leVal (segRead y q) ≠ 0 →
        Completes (.join sl c gp) s fun t => MemKept y.s t ∧
        (∃ z, envAt t x.k x.e = some z ∧ RegsKept x.g z.g ∧ z.f.wait = .join ∧ z.f.pc = x.f.pc ∧
          z.f.watch = some ⟨q.tier == 3, q.tier, q.pa, 0, (counterVa (brec x.g b) (greg x.g (c.toNat + 1))).toNat⟩) ∧
        kfind (kget ({} : Slice) t.slices (slotSlice y.s y.b.part q.tier q.pa)).waiters q.key = some (x.k, x.g.gid))) ∧
    (∀ y q, gpred x.g gp.toNat = true → x.f.crowded = false → inScratch (brec x.g b) = false → x.g.level = .user →
      counterOperand (afterReads x (codes ++ gguard gp)) c.toNat .rmw patom = .inr (y, q) → q.tier ≠ 2 → leVal (segRead y q) ≠ 0 →
      (∃ n ∈ y.s.slices, (kfind n.2.waiters q.key).isSome = true) → Completes (.join sl c gp) s (TrapTaken y.s y 0x12 0 x.f.exec 0 0)) ∧
    (∀ y q w, gpred x.g gp.toNat = true → x.f.crowded = false → inScratch (brec x.g b) = false →
      PeerCounterAt (afterReads x (codes ++ gguard gp)) c.toNat .rmw patom y q →
      (x.f.peer = none → Completes (.join sl c gp) s (WordAsked x y q none)) ∧
      (WordHad x q w false → w = 0 → Completes (.join sl c gp) s fun t => MemKept y.s t ∧ ∃ z, envAt t x.k x.e = some z ∧ RegsKept x.g z.g ∧
        z.f.wait = .none ∧ z.f.pc = x.f.pc + 4 ∧ z.f.arrive = .header) ∧
      (WordHad x q w false → w ≠ 0 → peerJoined y.s q = false → Completes (.join sl c gp) s fun t => MemKept y.s t ∧
        ∃ z, envAt t x.k x.e = some z ∧ RegsKept x.g z.g ∧ z.f.wait = .join ∧ z.f.pc = x.f.pc ∧ ∃ n, z.f.watch = some n ∧ n.tier = 2 ∧ n.addr = q.place * 2 ^ 52 + q.pa)))

/-- R140, R302 to R305, R449: rinv and rinv.t queue one beacon for each executing lane that names a device below 4,096; every other is refused; at system
scope they wait for the answers of remote accesses first. At the completion point the predicate tells which were accepted, and rinv.t traps in the refused lanes. -/
def Obligations.Beacons : Prop :=
  (∀ (s : State) (x : Env) (sl : BitVec 1) (n v : BitVec 7) (p : BitVec 3), At s x → releaseHeld x = false →
    OpOk x (gsOk n && vblockOk x.g v 13) (gcode n.toNat :: (List.range 13).map (v.toNat + ·)) (if p = 0 then [] else [pcode p.toNat]) sl →
    let w := gsrc x.g n.toNat
    let act := match x.f.resend with | some m => x.f.exec &&& m | none => x.f.exec
    let dev := fun (l : Nat) => (vreg x.g (v.toNat + 12) l).toNat
    let far := maskOf fun l => inMask act l && decide (4096 ≤ dev l)
    ∀ q ∈ ([(.rinv sl n v p, false), (.rinvT sl n v p, true)] : List (Instr × Bool)),
    (w.getLsbD 18 = true → remoteHeld x = true → Answers q.1 s { s with stalled := true }) ∧
    ((w.getLsbD 18 = true → remoteHeld x = false) →
    (wbits w 31 19 ≠ 0 → x.g.level = .user → Completes q.1 s (TrapTaken s x 0x13 0 x.f.exec 0 0)) ∧
    (wbits w 31 19 = 0 → Completes q.1 s fun t => MemKept s t ∧ ∃ o, Started s x o t ∧ o.kind = .beacon p.toNat q.2 ∧ o.flag = flagOf x sl ∧
      o.pend = (if p = 0 then [] else [pcode p.toNat]) ∧ o.sent = act &&& ~~~far ∧ o.refused = far ∧ o.accepted = 0 ∧
      (kget ({} : Core) t.cores x.core).beaconQ = (kget ({} : Core) s.cores x.core).beaconQ ++
        ((lanesOf act).filter fun l => decide (dev l < 4096)).map fun l => (o.id, l, dev l,
          { node := wbits w 15 0, scope := if w.getLsbD 18 then 2 else 1, origin := 3, pri := wbits w 17 16, args := (List.range 12).map fun i => vreg x.g (v.toNat + i) l, stamp := releaseStamp x.g })))) ∧
  (∀ (s : State) (o : Op) (g : Group) (f : Frag) (pd : Nat) (tr : Bool), AtCompletion s o g → o.kind = .beacon pd tr → o.sent = 0 →
    ((tr = false ∨ o.refused = 0) → Completes (.beaconCompletion o.id) s fun t => MemKept s t ∧ t.ops = s.ops.filter (·.id != o.id) ∧
      ∃ h, kfind t.groups o.group = some h ∧ h.pending = g.pending.filter (fun c => !o.pend.contains c) ∧
        ∀ q l, l < 32 → inMask (pmask h q) l = if q = pd ∧ pd ≠ 0 ∧ inMask (o.ws ||| o.zeroed) l then inMask (o.accepted &&& o.ws) l else inMask (pmask g q) l) ∧
    (tr = true → o.refused ≠ 0 → g.level = .user → kfind g.table o.entry = some f →
      Completes (.beaconCompletion o.id) s (LateTrap s o g 0x0C o.refused)))

/-- R306, R307, R311: arm and disarm start their operation; arm's completion point takes the lowest free entry of the home slice and a place
in each filter of the domain, and traps when there is none; disarm's frees an entry of the partition's own and tells whether there was one. -/
def Obligations.ArmAndDisarm : Prop :=
  (∀ (s : State) (x y : Env) (sl : BitVec 1) (c h d : BitVec 7) (pa size va : Nat) (task : Option TaskRec), At s x →
    let w := (List.range 8).map fun i => greg x.g (c.toNat + i)
    let codes := (List.range 8).map fun i => 128 + c.toNat + i
    let w0 := cmd w 0
    (OpOk x (gblockOk 8 c && gdOk d) codes [128 + d.toNat] sl →
      (x.g.level = .user → (wbits w0 31 12 ≠ 0 ∨ cmd w 6 ≠ 0 ∨ cmd w 7 ≠ 0 ∨ cmd w 1 = 0 ∨ (w0.getLsbD 9 = false ∧ w0.getLsbD 10 = false)) →
        Completes (.arm sl c d) s (TrapTaken s x 0x13 0 x.f.exec (BitVec.ofNat 32 (wbits w0 2 0)) 0)) ∧
      (armChecks (afterReads x codes) w = .inr (y, pa, size, va, task) → Completes (.arm sl c d) s fun t => MemKept y.s t ∧ ∃ o, Started y.s x o t ∧
        o.kind = .arm x.b.part pa size (cmd w 1).toNat va ((cmd w 4).toNat + 2 ^ 32 * (cmd w 5).toNat) (wbits w0 11 9) task ∧
        o.flag = flagOf x sl ∧ o.pend = [128 + d.toNat] ∧ o.dest = d.toNat)) ∧
    (OpOk x (gsOk h && gdOk d) [gcode h.toNat] [128 + d.toNat] sl → Completes (.disarm sl h d) s fun t => MemKept s t ∧ ∃ o, Started s x o t ∧
      o.kind = .disarm (gsrc x.g h.toNat).toNat ∧ o.flag = flagOf x sl ∧ o.pend = [128 + d.toNat] ∧ o.dest = d.toNat)) ∧
  (∀ (s : State) (o : Op) (g : Group) (f : Frag) (part base size total va value bits i : Nat) (task : Option TaskRec) (c : Cairn), AtCompletion s o g →
    let n := (homeSlice s base).getD 0
    let room := ∀ q ∈ domSlices s base, (kget ({} : Slice) s.slices q).filters.length < 256
    let own := o.part
    (o.kind = .arm part base size total va value bits task →
      (freeCairn s n = some i → room → Completes (.armCompletion o.id) s fun t =>
        Landed s { o with gshadow := [o.dest], ws := 1, vwrites := [(4096 + o.dest, BitVec.ofNat 32 (64 * n + i))] } g t ∧
        (∀ q ∈ domSlices s base, 64 * n + i ∈ (kget ({} : Slice) t.slices q).filters) ∧
        cairnAt t (64 * n + i) = some { part := part, base := base, size := size, total := total, write := bits.testBit 0, post := bits.testBit 1, rearm := bits.testBit 2, wordVa := va, value := value, task := task }) ∧
      ((freeCairn s n = none ∨ ¬ room) → g.level = .user → kfind g.table o.entry = some f →
        Completes (.armCompletion o.id) s (LateTrap s o g 0x14 f.exec))) ∧
    (∀ h, o.kind = .disarm h → o.vshadow = [] → o.gshadow = [] →
      let done := fun (v : Word) (t : State) => MemKept s t ∧ t.ops = s.ops.filter (·.id != o.id) ∧ ∃ z, kfind t.groups o.group = some z ∧
        z.vregs = g.vregs ∧ z.pending = g.pending.filter (fun c => !o.pend.contains c) ∧ ∀ r, greg (named o z) r = if r = o.dest then v else greg (named o g) r
      (ownCairn s own h = none → Completes (.disarmCompletion o.id) s (done 0)) ∧
      (ownCairn s own h = some c → Completes (.disarmCompletion o.id) s fun t => done 1 t ∧
        (if c.owed = 0 then cairnAt t h = none else ownCairn t own h = none) ∧ ∀ q, h ∉ (kget ({} : Slice) t.slices q).filters)))

/-- R308 to R310: a slice's held count joins its cairn's sum; below the total nothing else happens; at the total the cairn fires, and one
without rearm is spent. A post that found no room is tried again. -/
def Obligations.CairnCountsAndFirings : Prop :=
  ∀ (s u : State) (n h k tier at' frame pte : Nat) (c : Cairn) (r : TaskRec) (d : List Byte), cairnAt s h = some c →
  (kfind (kget ({} : Slice) s.slices n).notes h = none → Answers (.arrivalNote n h) s s) ∧
  (kfind (kget ({} : Slice) s.slices n).notes h = some k → c.spent = false →
    (c.sum + k < c.total → Completes (.arrivalNote n h) s fun t => t = { s with slices := t.slices } ∧
      cairnAt t h = some { c with sum := c.sum + k } ∧ kfind (kget ({} : Slice) t.slices n).notes h = none) ∧
    (c.total ≤ c.sum + k → c.total ≠ 0 → c.owed = 0 → c.write = true → c.post = false → c.rearm = false → c.wordVa + 8 ≤ 2 ^ 57 →
      (∀ q ∈ s.slices, q.2.sums = [] ∧ q.2.waiters = []) → (∀ q ∈ s.parts, q.2.held = []) → tier ≤ 1 →
      judge s c.part .supervisor .write c.wordVa (walk s c.part c.wordVa) = .ok tier at' frame pte →
      Completes (.arrivalNote n h) s fun t => cairnAt t h = some { c with sum := c.sum + k, spent := true } ∧
        leVal (physRead t tier (65536 * frame + c.wordVa % 65536) 8) = c.value % 2 ^ 64)) ∧
  (c.owed = 0 → Answers (.cairnPostRetry h) s s) ∧
  (c.owed = 2 → c.post = true → c.spent = true → c.total ≠ 0 → c.task = some r →
    let die := homeDie s c.part r.node
    nodeHeld s die c.part r.node = false → nodeFor s die c.part r.node = some d →
    (placeRec s c.part die d { r with stamp := stampNow s } = some u → Completes (.cairnPostRetry h) s fun t =>
      t.dies = u.dies ∧ t.mem = u.mem ∧ cairnAt t h = some { c with owed := 0 }) ∧
    (placeRec s c.part die d { r with stamp := stampNow s } = none → Completes (.cairnPostRetry h) s fun t => MemKept s t ∧ cairnAt t h = some c))


/-! ## The system instructions (R340, R346 to R356, R404) -/

/-- R349: at user level every instruction of the system major takes the privilege trap. -/
def Claims.SystemMajorTrapsAtUserLevel : Prop :=
  ∀ (s : State) (x : Env) (a d : BitVec 7) (h b : BitVec 3), At s x → x.g.level = .user →
  ∀ i ∈ ([.rteFix, .rteRetry, .rteSkip, .rteKill, .sread a d h, .swrite a d h, .saveGroup a b, .saveBlock a b, .restoreGroup a b,
      .restoreBlock a b, .pgrefRead a d, .pgrefInc a d, .pgrefDec a d, .cresume a d] : List Instr),
  Completes i s (TrapTaken s x 2 0 x.f.exec 0 0)
/-- R221, R346 to R348, R353, R354: rte puts back the banked registers and the fragment, at the trapped instruction or after it (after a trapped clause
header, at its clause), and with what a partly finished one has still to do; kill, and a pre-emption of a group that was not saved, end the block. Each waits for a save or restore of the group, and
in a resumed block for its restore 1. -/
def Claims.RteDispositions : Prop :=
  ∀ (s : State) (x : Env), At s x → x.g.level = .supervisor →
  (x.g.bank = none → ∀ i ∈ ([.rteFix, .rteRetry, .rteSkip, .rteKill] : List Instr), Completes i s fun t => BlockGone t x.g.block) ∧
  (∀ k, x.g.bank = some k →
    (rteHeld x = true → ∀ i ∈ ([.rteFix, .rteRetry, .rteSkip, .rteKill] : List Instr), Answers i s { s with stalled := true }) ∧
    (x.outstanding.any (fun o => match o.kind with | .saveRestore _ _ => true | _ => false) = false → (x.b.resumed = false ∨ x.b.restored1 = true) →
      Completes .rteKill s (fun t => BlockGone t x.g.block) ∧
      (k.trap.kind = .preempt → x.g.saved = false → ∀ i ∈ ([.rteFix, .rteRetry, .rteSkip] : List Instr), Completes i s fun t => BlockGone t x.g.block) ∧
      (k.trap.kind ≠ .preempt → k.trap.kind ≠ .resume → (∀ n, k.trap.kind ≠ .copy n) →
        k.gvals.map (·.1) = List.range' 56 8 → k.recs.map (·.1) = List.range' 4 4 →
        ∀ p ∈ ([(.rteFix, true, 1, 0), (.rteRetry, true, 0, 1), (.rteSkip, false, 0, 0)] : List (Instr × Bool × Nat × Nat)),
        Completes p.1 s fun t => MemKept s t ∧ (∀ j, j ≠ x.k → kfind t.groups j = kfind s.groups j) ∧
          (kget ({} : Partition) t.parts x.b.part).fixes = (kget ({} : Partition) s.parts x.b.part).fixes + p.2.2.1 ∧
          (kget ({} : Partition) t.parts x.b.part).retries = (kget ({} : Partition) s.parts x.b.part).retries + p.2.2.2 ∧
          ∃ z, envAt t x.k x.e = some z ∧ z.g.level = .user ∧ z.g.bank = none ∧
            z.f.members = k.frag.members ∧ z.f.exec = k.frag.exec ∧ z.f.fmt = k.frag.fmt ∧
            (k.trap.kind = .partly → z.f.replay = if p.2.1 then k.trap.replay else none) ∧
            z.f.pc = (match k.trap.kind with
              | .before => if p.2.1 then k.trap.pc
                  else if k.trap.word.toNat % 256 = 0xFF then k.trap.pc + (if k.trap.word.getLsbD 29 then 8 else 4) else k.trap.next
              | .partly | .late | .beacon => if p.2.1 then k.trap.pc else k.trap.next
              | _ => k.frag.pc) ∧
            (∀ r, greg z.g r = (kfind k.gvals r).getD (greg x.g r)) ∧ (∀ b, brec z.g b = (kfind k.recs b).getD (brec x.g b)) ∧
            z.g.gpreds = (x.g.gpreds &&& 0x3F#8) ||| (k.gpreds &&& 0xC0#8) ∧ z.g.vregs = x.g.vregs ∧ z.g.preds = x.g.preds)))
def Obligations.ReturnsFromTraps : Prop := Claims.SystemMajorTrapsAtUserLevel ∧ Claims.RteDispositions

/-- R340: sread reads a partition's or the group's own register; swrite takes effect for what begins 64 clocks later, and only in the bits the
register has; a number that names no register is illegal, which ends the block (R342). -/
def Claims.SystemRegisters : Prop :=
  ∀ (s : State) (x : Env) (n d : BitVec 7) (h : BitVec 3), At s x → x.g.level = .supervisor →
  let r := n.toNat + 128 * h.toNat
  let p := kget ({} : Partition) s.parts x.b.part
  let named := sysReg r || groupReg r
  (PlainOk x (named && gdOk d) [] [128 + d.toNat] → Completes (.sread n d h) s (GrpDone s x true d.toNat
    (if r < 0x100 then ((p.late.reverse.find? fun l => l.2.1 == r).map (·.2.2)).getD (preg s x.b.part r)
     else if r < 0x110 then x.g.strec.getD (r - 0x100) 0
     else if r = 0x110 then BitVec.ofNat 32 (x.slot + 64 * x.g.index + 1024 * x.b.index + 16384 * x.core)
     else if r = 0x111 then BitVec.ofNat 32 (5120 + 1024 * x.g.units + 4096 * x.g.acch)
     else BitVec.ofNat 32 x.g.sgindex) 4)) ∧
  (PlainOk x (named && gsOk d) [gcode d.toNat] [] →
    (sysReg r = false → Completes (.swrite n d h) s (NopDone s x 4)) ∧
    (sysReg r = true → Completes (.swrite n d h) s fun t => t = { s with parts := t.parts, groups := t.groups, blocks := t.blocks } ∧
      (∃ z, envAt t x.k x.e = some z ∧ z.f.pc = x.f.pc + 4 ∧ RegsKept x.g z.g) ∧
      (∀ q, q ≠ x.b.part → kfind t.parts q = kfind s.parts q) ∧
      kget ({} : Partition) t.parts x.b.part = { p with late := p.late ++ [(s.clock + 64, r,
        gsrc x.g d.toNat &&& (match r with | 0x20 => 1 | 0x3C => 0x1F | 0x44 => 0x3F | _ => 0xFFFFFFFF))] })) ∧
  (named = false → Completes (.sread n d h) s (fun t => BlockGone t x.g.block) ∧ Completes (.swrite n d h) s (fun t => BlockGone t x.g.block))
/-- R355, R403: pgref reads, raises or lowers a frame's count, which saturates and does not go below zero, and returns the new one; a frame
that is not the partition's ends the block; a count that would reach zero waits while the free list's page migrates (R401). -/
def Claims.FrameCounts : Prop :=
  ∀ (s : State) (x : Env) (a d : BitVec 7), At s x → x.g.level = .supervisor →
  PlainOk x (gdPairOk a && gdOk d) [gcode a.toNat, gcode (pairHi a.toNat)] [128 + d.toNat] →
  let f := (gsrc x.g a.toNat).toNat + 2 ^ 32 * ((gsrc x.g (pairHi a.toNat)).toNat % 16)
  let c := kget 0 s.mgmt.fcount f
  let inc := if c = 0xFFFFFFFF then c else c + 1
  let own := f < hbmFrames s.mgmt.config ∧ frameOwner s f = x.b.part
  ∀ p ∈ ([(.pgrefRead a d, c, false), (.pgrefInc a d, inc, decide (c = 0xFFFFFFFF)), (.pgrefDec a d, c - 1, decide (c = 0))] : List (Instr × Nat × Bool)),
  (¬ own → Completes p.1 s fun t => BlockGone t x.g.block) ∧
  (own → c = 1 → freeWaits s x.b.part = true → Answers (.pgrefDec a d) s { s with stalled := true }) ∧
  (own → (p.1 = .pgrefDec a d → c = 1 → freeWaits s x.b.part = false) → Completes p.1 s fun t => kget 0 t.mgmt.fcount f = p.2.1 ∧ (∀ q, q ≠ f → kfind t.mgmt.fcount q = kfind s.mgmt.fcount q) ∧
    (p.2.2 = true → (preg t x.b.part 0x21A).getLsbD 0 = true) ∧ (p.1 = .pgrefRead a d ∨ c ≠ 1 ∨ p.2.1 = 2 → MemKept s t) ∧
    ∃ z, envAt t x.k x.e = some z ∧ z.f.pc = x.f.pc + 4 ∧ z.g.vregs = x.g.vregs ∧ z.g.preds = x.g.preds ∧ z.g.gpreds = x.g.gpreds ∧
      ∀ r, greg z.g r = if r = d.toNat then BitVec.ofNat 32 p.2.1 else greg x.g r)
/-- R356: cresume answers 1 when it resumes a suspended copy that still owes its trap, which it drops; otherwise 0. -/
def Claims.CopyResume : Prop :=
  ∀ (s : State) (x : Env) (a d : BitVec 7), At s x → x.g.level = .supervisor → PlainOk x (gsOk a && gdOk d) [gcode a.toNat] [128 + d.toNat] →
  let n := wbits (gsrc x.g a.toNat) 4 0
  ((kfind x.b.copies n).all (fun c => c.state != .suspended) = true → Completes (.cresume a d) s (GrpDone s x true d.toNat 0 4)) ∧
  (∀ c tr, kfind x.b.copies n = some c → c.state = .suspended → c.group = x.k → c.locked = true → owedTrap x.g n = some tr →
    Completes (.cresume a d) s fun t => MemKept s t ∧ ∃ z, envAt t x.k x.e = some z ∧ z.f.pc = x.f.pc + 4 ∧ z.g.traps = x.g.traps.erase tr ∧
      (∃ q, kfind z.b.copies n = some q ∧ q.state = .running ∧ q.w = c.w ∧ q.command = c.command) ∧
      ∀ r, greg z.g r = if r = d.toNat then 1 else greg x.g r) ∧
  (∀ c, kfind x.b.copies n = some c → c.state = .suspended → c.group = x.k → owedTrap x.g n = none →
    Completes (.cresume a d) s (GrpDone s x true d.toNat 0 4))
def Obligations.SystemRegistersAndCounts : Prop := Claims.SystemRegisters ∧ Claims.FrameCounts ∧ Claims.CopyResume

/-- R350 to R353, R359, R362: save writes the group's or the block's image where the record and index place it; restore takes the state from
the image; each starts an operation, whose completion marks the group or the block. A restore from a peer's pages holds its fragment until their
bytes have come, and then takes the state from them (R402). Either restore empties the verdict caches (R74). A save of a group that holds a
double-bit error is a read of it: the data-error trap, at supervisor level (R54, R342; the model's choice: log entry 116). -/
def Obligations.SaveAndRestore : Prop :=
  (∀ (s : State) (x y : Env) (i : BitVec 7) (b : BitVec 3) (sg : List Seg), At s x → x.g.level = .supervisor →
    let src := afterReads x [gcode i.toNat]
    let started := fun (blk res : Bool) (t : State) => ∃ o z, t.ops = y.s.ops ++ [o] ∧ o.kind = .saveRestore blk res ∧ o.group = x.k ∧ o.gid = x.g.gid ∧
      o.flag = 15 ∧ envAt t x.k x.e = some z ∧ z.f.pc = x.f.pc + 4 ∧ (res = false → RegsKept x.g z.g)
    let asked := fun (blk : Bool) (t : State) => MemKept y.s t ∧ ∃ o z, o ∈ t.ops ∧ o.kind = .saveRestore blk true ∧ o.held = true ∧ o.dest = b.toNat ∧
      o.group = x.k ∧ o.gid = x.g.gid ∧ o.entry = x.e ∧ envAt t x.k x.e = some z ∧ z.f.pc = x.f.pc ∧ RegsKept x.g z.g
    let im := getImage y.s sg
    (PlainOk x (gsOk i) [gcode i.toNat] [] → x.outstanding = [] → x.g.pending = [] → copiesMove x.b (some x.k) = false →
      ((userState x.g x.e x.f).regErrors ≠ [] ∨ x.g.accErrors ≠ []) → Completes (.saveGroup i b) s fun t => BlockGone t x.g.block) ∧
    (PlainOk x (gsOk i) [gcode i.toNat] [] → x.outstanding = [] → x.g.pending = [] → copiesMove x.b (some x.k) = false →
      (userState x.g x.e x.f).regErrors = [] → x.g.accErrors = [] →
      imageAt src i b (5120 + 1024 * x.g.units + 4096 * x.g.acch) true = .inr (y, sg) → (∀ q ∈ sg, q.tier ≤ 1) → Still y y.s →
      Completes (.saveGroup i b) s fun t => started false false t ∧ PutsDone y (imagePuts sg (groupBytes x.b.part x.slot (userState y.g y.e y.f))) t) ∧
    (PlainOk x (gsOk i && x.g.index == 0) [gcode i.toNat] [] → (blockGroups s x.g.block).all (fun k => (kget {} s.groups k).saved) = true →
      copiesMove x.b none = false → imageAt src i b (0x2000 + x.b.spsize) true = .inr (y, sg) → (∀ q ∈ sg, q.tier ≤ 1) → Still y y.s →
      Completes (.saveBlock i b) s fun t => started true false t ∧ PutsDone y (imagePuts sg (blockBytes y.commit x.g.block y.b)) t) ∧
    (PlainOk x (gsOk i && x.g.resumed) [gcode i.toNat] [] → imageAt src i b (5120 + 1024 * x.g.units + 4096 * x.g.acch) false = .inr (y, sg) →
      (sg.any (·.tier == 2) = true → Completes (.restoreGroup i b) s (asked false)) ∧
      (sg.any (·.tier == 2) = false →
      let good := leAt im 0 1 = 3 ∧ leAt im 20 4 = x.b.part ∧ leAt im 4 4 = imageSize x.g
      (¬ good → Completes (.restoreGroup i b) s fun t => BlockGone t x.g.block) ∧
      (good → Completes (.restoreGroup i b) s fun t => started false true t ∧ MemKept y.s t ∧ ∃ z, envAt t x.k x.e = some z ∧
        z.g.live = word (leAt im 8 4) ∧ z.g.level = .supervisor ∧ z.g.verdicts = [] ∧
        (∀ r l, r < 8 * x.g.units → r ≠ 95 → l < 32 → vreg z.g r l = word (leAt im (0x1300 + 128 * r + 4 * l) 4)) ∧
        (∀ l, l < 32 → vreg z.g 95 l = word (leAt im (0x580 + 4 * l) 4)) ∧
        (∀ r, r < 64 → greg z.g r = if r < 56 then word (leAt im (0x280 + 4 * r) 4) else greg x.g r) ∧
        (∀ p, 1 ≤ p → p < 8 → pmask z.g p = word (leAt im (0x60 + 4 * (p - 1)) 4)) ∧
        ∀ k, x.g.bank = some k → ∃ q, z.g.bank = some q ∧ q.trap = k.trap ∧
          q.gvals = (List.range' 56 8).map fun r => (r, word (leAt im (0x280 + 4 * r) 4))))) ∧
    (PlainOk x (gsOk i && x.g.resumed && x.g.index == 0) [gcode i.toNat] [] → imageAt src i b (0x2000 + x.b.spsize) false = .inr (y, sg) →
      (sg.any (·.tier == 2) = true → Completes (.restoreBlock i b) s (asked true)) ∧
      (sg.any (·.tier == 2) = false →
      let good := leAt im 0 1 = 3 ∧ bits (leAt im 0 4) 22 17 = x.b.part ∧ leAt im 4 4 = x.b.spsize
      (¬ good → Completes (.restoreBlock i b) s fun t => BlockGone t x.g.block) ∧
      (good → engineCopies y.s y.core + leAt im 12 4 ≤ 32 → Completes (.restoreBlock i b) s fun t => started true true t ∧ MemKept y.s t ∧
        (∀ k g, kfind t.groups k = some g → g.block = x.g.block → g.verdicts = []) ∧
        ∃ q, kfind t.blocks x.g.block = some q ∧ q.stage = leAt im 8 4 ∧ (∀ a, a < x.b.spsize → mget q.scratch a = im.getD (0x2000 + a) 0) ∧
          ∀ n, n < 8 → kget 0 q.roots n = BitVec.ofNat 128 (leAt im (0x1D80 + 16 * n) 16))))) ∧
  (∀ (s : State) (o : Op) (g : Group) (blk : Bool) (y : Env), AtCompletion s o g → o.kind = .saveRestore blk true → o.held = true → o.sup = true →
    o.vshadow = [] → o.gshadow = [] → envAt s o.group o.entry = some y →
    let done := fun (t : State) => MemKept s t ∧ t.ops = s.ops.filter (·.id != o.id)
    (blk = false → let r := groupImage y o.dest (wordsImage (imageSize y.g) o.vwrites)
      (∀ z, r = .inr z → Completes (.saveRestoreCompletion o.id) s fun t => done t ∧ ∃ w, envAt t o.group o.entry = some w ∧ w.f.pc = o.next ∧
        w.g.restored = true ∧ w.g.live = z.g.live ∧ RegsKept z.g w.g) ∧
      (∀ u, r = .inl u → y.g.level = .supervisor → Completes (.saveRestoreCompletion o.id) s fun t => BlockGone t y.g.block)) ∧
    (blk = true → let r := blockImage y o.dest (wordsImage (0x2000 + y.b.spsize) o.vwrites)
      (r = none → Answers (.saveRestoreCompletion o.id) s s) ∧
      (∀ z, r = some (.inr z) → Completes (.saveRestoreCompletion o.id) s fun t => done t ∧ ∃ q, kfind t.blocks y.g.block = some q ∧
        q.restored1 = true ∧ q.resumeSlot = none ∧ q.scratch = z.b.scratch ∧ q.stage = z.b.stage ∧ q.roots = z.b.roots) ∧
      (∀ u, r = some (.inl u) → y.g.level = .supervisor → Completes (.saveRestoreCompletion o.id) s fun t => BlockGone t y.g.block))) ∧
  (∀ (s : State) (o : Op) (g : Group) (blk res : Bool) (b : Block), AtCompletion s o g → o.kind = .saveRestore blk res → o.held = false →
    kfind s.blocks g.block = some b → Completes (.saveRestoreCompletion o.id) s fun t => MemKept s t ∧ t.ops = s.ops.filter (·.id != o.id) ∧
      ∃ h q, kfind t.groups o.group = some h ∧ kfind t.blocks g.block = some q ∧
        (if blk then h.saved = g.saved ∧ h.restored = g.restored ∧ (if res then q.restored1 = true ∧ q.resumeSlot = none else q.saved1 = true)
         else q = b ∧ (if res then h.restored = true else h.saved = true)))

/-! ## Groups, fragments and launches (R12, R19, R21, R32, R292, R374, R387) -/

/-- R12, R292, R377, R387: what a group holds when it begins (a task group's fmt is that of the descriptor its bin kept): a launch's, a task's, whose
start is an acquire (R138, R432), and one that resumes. A group begun begins no more. -/
def Obligations.GroupStarts : Prop :=
  ∀ (s : State) (k : Nat) (g : Group), kfind s.groups k = some g →
  let b := kget ({} : Block) s.blocks g.block
  let cl := kget ({} : Cluster) s.clusters b.cluster
  let begun := fun (i : Instr) (u : State) (p : Group → Prop) => Completes i s fun t => t = { u with groups := t.groups } ∧
    (∀ j, j ≠ k → kfind t.groups j = kfind s.groups j) ∧ ∃ h, kfind t.groups k = some h ∧ h.started = true ∧ p h
  (g.started = true → ∀ i ∈ ([.groupStart k, .taskGroupStart k, .resumeStart k] : List Instr), Answers i s s) ∧
  (g.started = false → g.resumed = false → g.task = none → begun (.groupStart k) s fun h =>
    (∀ l, l < 32 → inMask h.live l = decide (32 * g.index + l < b.lanes)) ∧
    (∀ l, l < 32 → inMask h.helper l = (decide (b.lanes ≤ 32 * g.index + l) && decide (4 * ((32 * g.index + l) / 4) < b.lanes))) ∧
    h.brecs = b.roots ∧
    (∀ r l, l < 32 → vreg h r l = if r = 0 then BitVec.ofNat 32 l else if r = 1 then BitVec.ofNat 32 (32 * g.index + l) else 0) ∧
    (∀ r, r < 8 → greg h r = BitVec.ofNat 32 ([g.index, b.index, cl.x, cl.y, cl.z, b.groups, cl.blocks.length, b.lanes].getD r 0)) ∧
    (∀ r, 8 ≤ r → greg h r = greg g r) ∧
    ∃ f, h.table = [(0, f)] ∧ f.members = h.live ∧ f.exec = h.live ∧ f.pc = b.entry ∧ f.arrive = .header ∧
      f.fmt = (match cl.launch with | some l => BitVec.ofNat 11 (leAt (kget ({} : Launch) s.launches l).bytes 40 4) | none => 0)) ∧
  (∀ n node origin, g.started = false → g.resumed = false → g.task = some (n, node, origin) → begun (.taskGroupStart k) (l1Acquires s [k]) fun h =>
    h.live = g.live ∧ h.vregs = g.vregs ∧ h.brecs = b.roots ∧
    (∀ r, greg h r = if r < 3 then BitVec.ofNat 32 ([n, node, origin].getD r 0) else greg g r) ∧
    ∃ f, h.table = [(0, f)] ∧ f.members = g.live ∧ f.exec = g.live ∧ f.pc = b.entry ∧ f.arrive = .header ∧
      f.fmt = BitVec.ofNat 11 (nIfmt g.nodeDesc)) ∧
  (g.started = false → g.resumed = true → begun (.resumeStart k) s fun h =>
    h.level = .supervisor ∧ h.vregs = g.vregs ∧ h.strec.getD 0 0 = BitVec.ofNat 32 (0x10 + 256 * 3 + 2 ^ 19) ∧
    h.strec.getD 4 0 = BitVec.ofNat 32 (match b.resumeSlot with | some n => n * (preg s b.part 0x208).toNat * 65536 | none => 0) ∧
    ∃ f, h.table = [(0, f)] ∧ f.members = 0 ∧ f.exec = 0 ∧ f.pc = preg s b.part 0)

/-- R32, R279: a group with no live lane, no trap due and nothing outstanding ends; with the last of its block the block ends. R374: a
launch ends once its status has been written and its counter added to; while either page migrates, it waits. R18, R19, R21: arrivals settled, a
fragment that may proceed does, and a rotation brings in the longest-spilled one. -/
def Claims.EndsAndFragmentTurns : Prop :=
  (∀ (s : State) (k : Nat) (g : Group), kfind s.groups k = some g →
    let isOver := g.started = true ∧ g.live = 0 ∧ g.level = .user ∧ g.traps = [] ∧ g.parked = none ∧ ownCopies s k g = false ∧
      s.ops.any (fun o => o.gid == g.gid) = false
    let alone := (kget ({} : Core) s.cores (kget ({} : Block) s.blocks g.block).core).keystones.all (fun q => q.2.block != g.block) = true
    (¬ isOver → Answers (.groupEnd k) s s) ∧
    (isOver → alone → blockGroups s g.block = [k] → Completes (.groupEnd k) s fun t => MemKept s t ∧ BlockGone t g.block) ∧
    (isOver → alone → (blockGroups s g.block).any (· != k) = true → (kget ({} : Block) s.blocks g.block).preempting = false →
      Completes (.groupEnd k) s fun t => MemKept s t ∧ kfind t.groups k = none ∧
        (kget ({} : Block) t.blocks g.block).alive = (kget ({} : Block) s.blocks g.block).alive &&& ~~~(1#16 <<< g.index)) ∧
    (let g0 := settle g
     let due := g0.level = .user ∧ g0.spill ≠ [] ∧ freeEntry g0 = none ∧ g0.rotClock + Config.rotationClocks ≤ s.clock ∧
       s.ops.any (fun o => o.gid == g0.gid && o.held) = false ∧ g0.parked = none ∧ g0.resuming = none
     (¬ due → Answers (.fragmentRotation k) s s) ∧
     (∀ e f, due → rotationVictim g0 = some e → g0.spill.getLast? = some f → Completes (.fragmentRotation k) s fun t => t = { s with groups := t.groups } ∧
       ∃ h, kfind t.groups k = some h ∧ RegsKept g h ∧ h.rotClock = s.clock ∧ h.spill = kget {} g0.table e :: g0.spill.dropLast ∧
         kfind h.table e = some { f with rotated := true, rewait := true } ∧ ∀ q, q ≠ e → kfind h.table q = kfind g0.table q)) ∧
    (∀ e, let g0 := settle g
     (kfind g0.table e = none → Answers (.fragmentProceed k e) s s) ∧
     (∀ f, kfind g0.table e = some f →
       ((g0.level ≠ .user ∨ mayProceed g0 e f = false) → Answers (.fragmentProceed k e) s s) ∧
       (g0.level = .user → mayProceed g0 e f = true → Completes (.fragmentProceed k e) s fun t => t = { s with groups := t.groups } ∧
         (∀ j, j ≠ k → kfind t.groups j = kfind s.groups j) ∧ ∃ h, kfind t.groups k = some h ∧ RegsKept g h ∧
         kfind h.table e = some { f with wait := .none, reconv := f.encl, encl := none } ∧ ∀ q, q ≠ e → kfind h.table q = kfind g0.table q)))) ∧
  (∀ (s s1 s2 : State) (l : Nat) (q : Launch), kfind s.launches l = some q →
    let r := q.bytes
    (launchOver q s l = false → Answers (.launchEnd l) s s) ∧
    (launchOver q s l = true →
      ((leAt r 88 8 ≠ 0 ∧ releaseWrite s (lPart r) (leAt r 88 8) (.set (if q.killed then 3 else 1)) = none) → Answers (.launchEnd l) s s) ∧
      ((if leAt r 88 8 = 0 then s1 = s else releaseWrite s (lPart r) (leAt r 88 8) (.set (if q.killed then 3 else 1)) = some s1) →
      (leAt r 72 8 ≠ 0 → releaseWrite s1 (lPart r) (leAt r 72 8) (.add (leAt r 80 8)) = none → Answers (.launchEnd l) s s) ∧
      ((if leAt r 72 8 = 0 then s2 = s1 else releaseWrite s1 (lPart r) (leAt r 72 8) (.add (leAt r 80 8)) = some s2) →
      Completes (.launchEnd l) s fun t => kfind t.launches l = none ∧ MemKept s2 t ∧ ∀ n w, kfind t.queues n = some w → w.holds ≠ some l))))


/-- R18, R20, R21: the fragments of a group that stand at one address fuse in the lowest entry of theirs: members and exec are the unions, fmt is
one that arrived last, an ageing count of zero; a register narrowed in all of them is narrowed to the hull, and no other is. The fused fragment
waits on while a fragment elsewhere still has that address to reach, and otherwise proceeds. An entry that frees takes the most recently
ejected fragment. -/
def Claims.FusionAndReload : Prop :=
  (∀ (g : Group) (a : Word) (e : Nat) (f0 : Frag) (rest : List (Nat × Frag)),
    let here := g.table.filter fun q => q.2.pc == a && (q.2.wait == .none || q.2.wait == .reconv)
    let fs := here.map (·.2) ++ g.spill.filter fun f => f.pc == a && (f.wait == .none || f.wait == .reconv)
    let others := (groupFrags g).filter fun f => !(f.pc == a && (f.wait == .none || f.wait == .reconv))
    (g.table.map (·.1)).Nodup → here = (e, f0) :: rest → 2 ≤ fs.length → ∃ f, kfind (settleAt g a).table e = some f ∧ f.pc = a ∧ f.age = 0 ∧
      (∀ l, inMask f.members l = fs.any fun q => inMask q.members l) ∧ (∀ l, inMask f.exec l = fs.any fun q => inMask q.exec l) ∧
      (∃ q ∈ fs, f.fmt = q.fmt ∧ ∀ r ∈ fs, r.reached ≤ q.reached) ∧
      (∀ c, (∃ q ∈ fs, q.narrow.find? (·.reg == c) = none) → f.narrow.find? (·.reg == c) = none) ∧
      (∀ c, (∀ q ∈ fs, q.narrow.find? (·.reg == c) ≠ none) → ∃ n, f.narrow.find? (·.reg == c) = some n ∧
        (∀ q ∈ fs, ∀ m, q.narrow.find? (·.reg == c) = some m → n.lo ≤ m.lo ∧ m.hi ≤ n.hi) ∧
        (∃ q ∈ fs, ∃ m, q.narrow.find? (·.reg == c) = some m ∧ n.lo = m.lo) ∧ (∃ q ∈ fs, ∃ m, q.narrow.find? (·.reg == c) = some m ∧ n.hi = m.hi)) ∧
      (others.any (fun f => f.reconv == some a) = true → f.wait = .reconv ∧ f.reconv = some a) ∧
      (others.any (fun f => f.reconv == some a) = false → f.wait = .none ∧ f.encl = none ∧
        ((∃ q ∈ fs, q.reconv = some a) → ∃ q ∈ fs, q.reconv = some a ∧ f.reconv = q.encl ∧ ∀ r ∈ fs, r.reconv = some a → q.reached ≤ r.reached)) ∧
      (∀ q ∈ others, ∃ r ∈ groupFrags (settleAt g a), r = q ∨ r = { q with rewait := true }) ∧
      RegsKept g (settleAt g a)) ∧
  (∀ (g : Group) (e : Nat) (f : Frag) (rest : List Frag), g.spill = f :: rest → e < 8 → kfind g.table e = none → (∀ i, i < e → (kfind g.table i).isSome = true) →
    kfind (refill g).table e = some { f with rewait := true }) ∧
  (∀ g : Group, (g.spill = [] ∨ ∀ i, i < 8 → (kfind g.table i).isSome = true) → refill g = g)
/-- R18 to R21, R32, R279, R374: the ends of groups and launches, and the turns of fragments. -/
def Obligations.EndsAndFragments : Prop := Claims.EndsAndFragmentTurns ∧ Claims.FusionAndReload

/-! ## Placement, quarries and queues (R289, R296 to R298, R367 to R387, R441) -/

/-- R382 to R384: a distributor reserves cores for the first item of its list, all or none, or has others pre-empted for it and holds what they
free; where it can do neither, for the first item after it that can have cores. The item, a launch's cluster, a ready bin's task group or a saved cluster (R387), becomes resident when its time has come. R386: the
time slice of a core pair passes on, outside a reservation phase, as the old holder's blocks are pre-empted. R441: a host's request for
pre-emption is answered: with no resident block of the launch, with too few save slots, or busy until the blocks have left, those that leave already
among them. -/
def Obligations.PlacementAndPreemption : Prop :=
  ∀ (s u : State) (n : Nat) (v : Word),
  let d0 := kget ({} : Die) s.dies n
  let d := { d0 with claims := d0.claims.filter fun c => d0.waiting.any c.work.same }
  let z := if d0.claims = d.claims then s else { s with dies := kput s.dies n d }
  let can := fun (w : Waiting) => reserve z n (some w) (needsOf z n w) []
  let placed := fun (w : Waiting) (cores : List Nat) (t : State) => t = { s with dies := t.dies } ∧ (∀ q, q ≠ n → kfind t.dies q = kfind s.dies q) ∧
    kget ({} : Die) t.dies n = { d with waiting := d.waiting.erase w, claims := d.claims.filter (fun c => !c.work.same w)
                                        reservation := some { work := w, cores := cores, due := s.clock + 16 * cores.length + 8 } }
  ((d.reservation.isSome = true ∨ d.waiting = []) → Answers (.placementAttempt n) s z) ∧
  (∀ w ws, d.reservation = none → inOrder d.waiting = w :: ws →
    (∀ cores, can w = some cores → Completes (.placementAttempt n) s (placed w cores)) ∧
    (∀ cs cores, can w = none → victims z n w = some (cs, cores) → preemptAll z (w.part z) 0 (cs.flatMap (clusterBlocks z)) = some u →
      Answers (.placementAttempt n) s
        { u with dies := kput u.dies n { kget {} u.dies n with
            claims := (kget ({} : Die) u.dies n).claims.filter (fun c => !c.work.same w) ++ [{ work := w, victims := cs, cores := cores }] } }) ∧
    (can w = none → victims z n w = none →
      (∀ l r y cores, ws = l ++ y :: r → (∀ q ∈ l, can q = none) → can y = some cores → Completes (.placementAttempt n) s (placed y cores)) ∧
      ((∀ q ∈ ws, can q = none) → Answers (.placementAttempt n) s z))) ∧
  (d0.reservation.all (fun r => decide (s.clock < r.due) || workWaits s n r.work) = true → Answers (.clusterCommit n) s s) ∧
  (∀ r id pri, d0.reservation = some r → r.due ≤ s.clock → r.work = .launch id pri → workWaits s n r.work = false → Completes (.clusterCommit n) s fun t =>
    (kget ({} : Die) t.dies n).reservation = none ∧ (kget ({} : Launch) t.launches id).next = (kget ({} : Launch) s.launches id).next + 1 ∧
    ∀ c ∈ r.cores, ∃ q b, kfind t.blocks q = some b ∧ b.core = c ∧ b.part = lPart (kget ({} : Launch) s.launches id).bytes ∧
      b.entry = BitVec.ofNat 32 (leAt (kget ({} : Launch) s.launches id).bytes 16 4)) ∧
  (∀ r p node pri c, d0.reservation = some r → r.due ≤ s.clock → r.work = .bin p node pri → workWaits s n r.work = false → r.cores = [c] →
    freeGroupSlots s c 1 ≠ [] → Completes (.clusterCommit n) s fun t =>
      (kget ({} : Die) t.dies n).reservation = none ∧ TaskResident t c p node ((binAt s n p node).recs.take 32)) ∧
  (∀ r c pri, d0.reservation = some r → r.due ≤ s.clock → r.work = .saved c pri → ((savedOf s c).map (·.1)).Nodup → Completes (.clusterCommit n) s fun t =>
    (kget ({} : Die) t.dies n).reservation = none ∧ ∀ q ∈ (savedOf s c).zip r.cores, kfind t.saved q.1.1 = none ∧ ∃ b, kfind t.blocks q.1.1 = some b ∧
      b.core = q.2 ∧ b.resumeSlot = q.1.2.block.slot ∧ b.part = q.1.2.block.part ∧ b.index = q.1.2.block.index) ∧
  (let mask := kget 0 s.mgmt.mcpair n
   let e := kget ({} : Die) s.dies (dieOf (2 * n))
   ∀ h, holderOf s (2 * n) = some h →
    let len := (preg s h 0x20A).toNat
    let wants := fun p => bitOf mask p && p != h && e.waiting.any fun w => w.part s == p
    ((len = 0 ∨ s.clock < kget 0 s.mgmt.sliceStart n + 65536 * len ∨ popBits 64 mask < 2 ∨ e.reservation.isSome = true) → Answers (.timeSliceExpiry n) s s) ∧
    (len ≠ 0 → kget 0 s.mgmt.sliceStart n + 65536 * len ≤ s.clock → 2 ≤ popBits 64 mask → e.reservation = none →
      (((List.range 64).map fun i => (h + 1 + i) % 64).find? wants = none → Completes (.timeSliceExpiry n) s fun t =>
        t = { s with mgmt := { s.mgmt with sliceStart := t.mgmt.sliceStart } } ∧ kget 0 t.mgmt.sliceStart n = s.clock) ∧
      (∀ p, ((List.range 64).map fun i => (h + 1 + i) % 64).find? wants = some p →
        let cs := (s.blocks.filterMap fun (_, b) => if b.core / 2 = n ∧ b.part = h ∧ !b.preempting then some b.cluster else none).eraseDups
        Completes (.timeSliceExpiry n) s fun t => kget 0 t.mgmt.sliceStart n = s.clock ∧ kfind t.mgmt.holder n = some p ∧
          t = { cs.foldl (fun a c => (preemptAll a h 1 (clusterBlocks a c)).getD a) s with mgmt := t.mgmt } ∧ (cs = [] → MemKept s t)))) ∧
  (((kget ({} : Partition) s.parts n).state = .absent ∨ s.mgmt.hostUp = false) → Answers (.hostPreemptionRequest n v) s s) ∧
  (let a := setPreg s n 0x221 v
   let all := a.blocks.filter fun q => match (kget ({} : Cluster) a.clusters q.2.cluster).launch with
     | some l => q.2.part == n && (kget ({} : Launch) a.launches l).identity == preg2 a n 0x220
     | none => false
   let mine := all.filterMap fun q => if q.2.preempting then none else some q.1
   (kget ({} : Partition) s.parts n).state ≠ .absent → s.mgmt.hostUp = true →
   (all = [] → Completes (.hostPreemptionRequest n v) s fun t => preg t n 0x222 = 2 ∧ preg t n 0x221 = v ∧ t = { s with parts := t.parts }) ∧
   (all ≠ [] → preemptAll a n 2 mine = none → Completes (.hostPreemptionRequest n v) s fun t => preg t n 0x222 = 4 ∧ preg t n 0x221 = v ∧ t = { s with parts := t.parts }) ∧
   (all ≠ [] → preemptAll a n 2 mine = some u → Completes (.hostPreemptionRequest n v) s fun t => preg t n 0x222 = 1 ∧
     (kget ({} : Partition) t.parts n).preReq = some (preg2 a n 0x220) ∧ t = { u with parts := t.parts }))

/-- R289, R290: a bin that holds enough records, or whose timer has run, becomes ready once; the home die moves ring records into the bin in order
while it has room, once it holds a hardware bin, which goes to the node whose oldest record has waited longest. R296 to R298, R300: the owner
takes its newest frame, a continuation frame resumes the one fragment that parked first, and an idle core steals the oldest frame it may. -/
def Obligations.BinsAndQuarries : Prop :=
  ∀ (s : State) (die part node core : Nat),
  (let b := binAt s die part node
   let due := b.ready = false ∧ b.recs ≠ [] ∧ (nCoal b.desc ≤ b.recs.length ∨ b.since + 64 * nTimer b.desc ≤ s.clock)
   (¬ due → Answers (.binTimerExpiry die part node) s s) ∧
   (due → Completes (.binTimerExpiry die part node) s fun t => t = { s with dies := t.dies } ∧ binAt t die part node = { b with ready := true } ∧
     (kget ({} : Die) t.dies die).waiting = (kget ({} : Die) s.dies die).waiting ++ [.bin part node (binPri b)])) ∧
  (let b := binAt s (homeDie s part node) part node
   let n := min b.ring.length (32 - b.recs.length)
   (b.ring = [] → Answers (.ringDrain part node) s s) ∧
   (b.ring ≠ [] → nodeFor s (homeDie s part node) part node = none → Answers (.ringDrain part node) s (nodeWalk s part (homeDie s part node) node)) ∧
   (b.hw = false → (nodeFor s (homeDie s part node) part node).isSome = true → longestWait s (homeDie s part node) ≠ some (binKey part node) → Answers (.ringDrain part node) s s) ∧
   (b.hw = true → (nodeFor s (homeDie s part node) part node).isSome = true → Completes (.ringDrain part node) s fun t =>
     (b.ring ≠ [] → MemKept (nodeWalk s part (homeDie s part node) node) t) ∧
     (binAt t (homeDie s part node) part node).recs = b.recs ++ (b.ring.take n).map (·.2) ∧
     (binAt t (homeDie s part node) part node).ring = b.ring.drop n)) ∧
  (∀ f, (kget ({} : Core) s.cores core).quarry.reverse.find? (fun f => !f.transit) = some f →
    (f.cont = false → frameFits s core f = none → Answers (.quarryTake core) s (nodeRead s f.part ((f.recs.head?.map (·.node)).getD 0))) ∧
    (∀ d, f.cont = false → frameFits s core f = some d → Completes (.quarryTake core) s fun t =>
      (kget ({} : Core) t.cores core).quarry = ((kget ({} : Core) s.cores core).quarry.reverse.erase f).reverse ∧
      TaskResident t core f.part ((f.recs.head?.map (·.node)).getD 0) f.recs) ∧
    (∀ g e fr, f.cont = true → kfind s.groups (64 * core + f.slot) = some g → kfind g.table e = some fr → fr.wait = .join →
      (∃ w, fr.watch = some w ∧ w.tier = f.ctr / 2 ^ 56 ∧ w.addr % 2 ^ 56 = f.ctr % 2 ^ 56) →
      (∀ q ∈ groupFrags g, q ≠ fr → q.wait = .join → fr.reached < q.reached) → Completes (.quarryTake core) s fun t => MemKept s t ∧
        ∃ h, kfind t.groups (64 * core + f.slot) = some h ∧ RegsKept g h ∧
          (∀ q, kfind g.table q ≠ some fr → kfind h.table q = kfind g.table q) ∧
          kfind h.table e = some { fr with wait := .none, watch := none, pc := fr.pc + 4, arrive := .header, reached := s.clock })) ∧
  (((kget ({} : Core) s.cores core).steal.isSome = true ∨ framesOf s core ≠ [] ∨ victimOf s core = none) → Answers (.stealRequest core) s s) ∧
  (∀ v f ring, (kget ({} : Core) s.cores core).steal = none → framesOf s core = [] → victimOf s core = some v →
    (framesOf s v).find? (fun x => stealable s core v x.1) = some (f, ring) →
    let fs := spilled s v f.part
    let bit := storeSpilled s v f.part (match fs.findIdx? (· == f) with | some i => fs.set i { f with transit := true } | none => fs)
    (ring = true → bit = none → Answers (.stealRequest core) s s) ∧
    (ring = false ∨ bit.isSome = true → Completes (.stealRequest core) s fun t =>
      (kget ({} : Core) t.cores core).steal = some ⟨v, { f with transit := true }⟩ ∧ t.groups = s.groups ∧ t.blocks = s.blocks)) ∧
  ((kget ({} : Core) s.cores core).steal.all (fun t => (frameFits s core t.frame).isNone) = true → Answers (.stealArrival core) s s) ∧
  (∀ st d, (kget ({} : Core) s.cores core).steal = some st → (kget ({} : Core) s.cores st.victim).quarry.contains st.frame = true → st.victim ≠ core → frameFits s core st.frame = some d →
    Completes (.stealArrival core) s fun t =>
      (let n := (st.frame.recs.head?.map (·.node)).getD 0
       MemKept (rootWalk (nodeRead s st.frame.part n) st.frame.part d) t) ∧ (kget ({} : Core) t.cores core).steal = none ∧
      (kget ({} : Core) t.cores st.victim).quarry = (kget ({} : Core) s.cores st.victim).quarry.erase st.frame ∧
      TaskResident t core st.frame.part ((st.frame.recs.head?.map (·.node)).getD 0) st.frame.recs)

/-- R368, R371: a write to a queue's tail exposes entries, or halts a queue that would be overrun; a write to its control may resume it, past
the refused entry or to read it again, and after an overrun with what it had read. Nothing changes where the owner's window is not reached
(R439, R443). -/
def Claims.QueueRegisters : Prop :=
  ∀ (s : State) (q : Nat) (v : Word),
  let u := queueAt s q
  ((4096 ≤ q ∨ s.mgmt.hostUp = false ∨ (partAt s (qOwner s q)).state = .absent) → Answers (.sqTailWrite q v) s s ∧ Answers (.sqResume q v) s s) ∧
  (q < 4096 → s.mgmt.hostUp = true → (partAt s (qOwner s q)).state ≠ .absent →
    (Completes (.sqTailWrite q v) s fun t => (∀ j, j ≠ q → kfind t.queues j = kfind s.queues j) ∧ queueAt t q =
      if qRuns s q = true ∧ qCap u < (v - u.head).toNat then
        { u with tail := v, err := BitVec.ofNat 32 (2 ^ 31 + 0x0A * 65536 + u.head.toNat % 65536) }
      else { u with tail := v }) ∧
    (Completes (.sqResume q v) s fun t => t = { s with queues := t.queues } ∧ queueAt t q =
      if v.getLsbD 1 = true ∧ u.err.getLsbD 31 = true then
        { u with ctl := v &&& 5, err := 0, head := if bits u.err.toNat 23 16 ≠ 0x0A ∧ v.getLsbD 2 = false then u.head + 1 else u.head
                 held := if bits u.err.toNat 23 16 ≠ 0x0A then [] else u.held }
      else { u with ctl := v &&& 5 }))
/-- R368 to R371, R378, R379: the queue unit consumes the head entry of the queue it serves next, or halts the queue with the code of the first
fault. An entry and a launch's record are read once; the entry waits while a page it needs migrates. -/
def Claims.QueueEntries : Prop :=
  ∀ (s u : State) (q : Nat) (e r : List Byte),
  let w := queueAt s q
  let p := qOwner s q
  let place := headPlace s q
  let five : List Instr := [.queueEntryNop q, .queueEntryLaunch q, .queueEntryTask q, .queueEntryCairnArm q, .queueEntryCairnDisarm q]
  let haltedWith := fun (code : Nat) (t : State) => t.lastQueue = q ∧
    queueAt t q = { queueAt t q with head := w.head, err := BitVec.ofNat 32 (2 ^ 31 + code * 65536 + w.head.toNat % 65536), held := [], taskRetry := false }
  let consumed := fun (t : State) => t.lastQueue = q ∧
    queueAt t q = { queueAt t q with head := w.head + 1, err := w.err, held := [], taskRetry := false }
  let unread := w.held = [] ∧ deviceWaits s p .read place 64 = true
  (nextQueue s ≠ some q → ∀ i ∈ five, Answers i s s) ∧
  (nextQueue s = some q → overrun w = true → ∀ i ∈ five, Completes i s fun t => MemKept s t ∧ t.groups = s.groups ∧
    queueAt t q = { w with err := BitVec.ofNat 32 (2 ^ 31 + 0x0A * 65536 + w.head.toNat % 65536) }) ∧
  (nextQueue s = some q → overrun w = false → unread → ∀ i ∈ five, Answers i s s) ∧
  (nextQueue s = some q → overrun w = false → ¬ unread →
    (headEntry s q = none → Completes (.queueEntryNop q) s (haltedWith 2)) ∧
    (headEntry s q = some e → entryOk e = false →
      Completes (five.getD (if entryKind e ≤ 4 then entryKind e else 0) .yield) s (haltedWith 1)) ∧
    (headEntry s q = some e → entryOk e = true →
      let h := if w.held = [] then holdEntry (markRead s p place 64) q e else s
      (entryKind e = 0 → Completes (.queueEntryNop q) s consumed) ∧
      (entryKind e = 1 →
        let a := leAt e 0 8
        let first := (queueAt h q).held.length = 64
        let seen := if first then markRead h p a 256 else h
        (a % 256 ≠ 0 → Completes (.queueEntryLaunch q) s (haltedWith 3)) ∧
        (a % 256 = 0 → first → deviceWaits h p .read a 256 = true → Answers (.queueEntryLaunch q) s h) ∧
        (a % 256 = 0 → ¬ (first ∧ deviceWaits h p .read a 256 = true) →
          (headRecord h q e = none → Completes (.queueEntryLaunch q) s (haltedWith 2)) ∧
          (headRecord h q e = some r →
            let k := if first then holdEntry seen q (e ++ r) else seen
            (∀ code, launchCode k q r = some code →
              (refusedStatus k q code r = none → Answers (.queueEntryLaunch q) s k) ∧
              (refusedStatus k q code r = some u → Completes (.queueEntryLaunch q) s fun t => haltedWith code t ∧ MemKept u t)) ∧
            (launchCode k q r = none → Completes (.queueEntryLaunch q) s fun t => consumed t ∧ MemKept k t ∧ (queueAt t q).holds = some s.fresh ∧
              kfind t.launches s.fresh = some { identity := q + 65536 * w.head.toNat, queue := q, bytes := r } ∧
              ∃ d, (kget ({} : Die) t.dies d).waiting = (kget ({} : Die) h.dies d).waiting ++ [.launch s.fresh (lPri r)])))) ∧
      (entryKind e = 2 →
        let k := { recOf e with origin := 0, stamp := stampNow h }
        let die := homeDie h p k.node
        (nodeHeld h die p k.node = true → Answers (.queueEntryTask q) s h) ∧
        (nodeHeld h die p k.node = false →
          (nodeFor h die p k.node = none → Completes (.queueEntryTask q) s (haltedWith 7)) ∧
          (∀ d, nodeFor h die p k.node = some d →
            (placeRec h p die d k = some u → Completes (.queueEntryTask q) s fun t => consumed t ∧ t.dies = u.dies ∧ t.mem = u.mem) ∧
            (placeRec h p die d k = none → Completes (.queueEntryTask q) s fun t => MemKept h t ∧ queueAt t q = { queueAt h q with taskRetry := true })))) ∧
      (entryKind e = 3 →
        let answer := fun (s0 s1 : State) (v : Nat) (P : State → Prop) => (resultWrite s1 p (leAt e 40 8) v = none → Answers (.queueEntryCairnArm q) s s0) ∧
          (resultWrite s1 p (leAt e 40 8) v = some u → Completes (.queueEntryCairnArm q) s fun t => consumed t ∧ MemKept u t ∧ P t)
        (∀ s1, entryChecks h p e = (.inl none, s1) → Answers (.queueEntryCairnArm q) s s1) ∧
        (∀ code s1, entryChecks h p e = (.inl (some code), s1) → answer s1 s1 (65536 * code) fun _ => True) ∧
        (∀ pa task s1, entryChecks h p e = (.inr (pa, task), s1) →
          let full := (domSlices s1 pa).any (fun k => 256 ≤ (kget ({} : Slice) s1.slices k).filters.length) = true
          ((freeCairn s1 ((homeSlice s1 pa).getD 0) = none ∨ full) → answer s1 s1 (65536 * 0x14) fun _ => True) ∧
          (∀ i, freeCairn s1 ((homeSlice s1 pa).getD 0) = some i → ¬ full →
            let n := 64 * (homeSlice s1 pa).getD 0 + i
            let c : Cairn := { part := p, base := pa, size := leAt e 8 4, total := leAt e 12 4, write := (leAt e 48 4).testBit 0, post := (leAt e 48 4).testBit 1, rearm := (leAt e 48 4).testBit 2, wordVa := leAt e 16 8, value := leAt e 24 8, task := task }
            answer s1 ((domSlices s1 pa).foldl (fun s k => modSlice s k fun sl => { sl with filters := sl.filters ++ [n] }) (setCairn s1 n c)) (n + 2 ^ 31)
              fun t => cairnAt t n = some c))) ∧
      (entryKind e = 4 →
        let ends := fun (s1 : State) (v : Nat) (P : State → Prop) => (resultWrite s1 p (leAt e 40 8) v = none → Answers (.queueEntryCairnDisarm q) s h) ∧
          (resultWrite s1 p (leAt e 40 8) v = some u → Completes (.queueEntryCairnDisarm q) s fun t => consumed t ∧ MemKept u t ∧ P t)
        (∀ c, ownCairn h p (leAt e 0 4) = some c → ends (freeEntryOf h (leAt e 0 4) c) 1 fun t => ∀ n, leAt e 0 4 ∉ (kget ({} : Slice) t.slices n).filters) ∧
        (ownCairn h p (leAt e 0 4) = none → ends h 0 fun _ => True)))) ∧
  ((qRuns s q = false ∨ w.taskRetry = false) → Answers (.taskEntryRetry q) s s) ∧
  (qRuns s q = true → w.taskRetry = true →
    (overrun w = true → Completes (.taskEntryRetry q) s fun t => MemKept s t ∧ t.groups = s.groups ∧
      queueAt t q = { w with err := BitVec.ofNat 32 (2 ^ 31 + 0x0A * 65536 + w.head.toNat % 65536) }) ∧
    (∀ d, overrun w = false → headEntry s q = some e →
      let k := { recOf e with origin := 0, stamp := stampNow s }
      (nodeHeld s (homeDie s p k.node) p k.node = true → Answers (.taskEntryRetry q) s s) ∧
      (nodeHeld s (homeDie s p k.node) p k.node = false → nodeFor s (homeDie s p k.node) p k.node = some d → placeRec s p (homeDie s p k.node) d k = some u →
        Completes (.taskEntryRetry q) s fun t => consumed t ∧ t.dies = u.dies ∧ t.mem = u.mem)))
def Obligations.QueuesRun : Prop := Claims.QueueRegisters ∧ Claims.QueueEntries


/-! ## Migration, domains, directories and memory upkeep (R406 to R436) -/

/-- R407 to R410: a doorbell consumes one command, refused with its code or begun with its counter raised; a transfer that is done leaves the
list and ends its command; an abort puts the old entry back. Each waits while a page it writes migrates, and the write of an entry for accesses
through the old one that are still outstanding (R399). -/
def Obligations.Migrations : Prop :=
  ∀ (s u u1 : State) (p n : Nat),
  ((kget ({} : Partition) s.parts p).doorbell = false → Answers (.migrationDoorbell p) s s) ∧
  ((kget ({} : Partition) s.parts p).doorbell = true →
    (migRing s p = none → Answers (.migrationDoorbell p) s (modPart s p fun q => { q with doorbell := false })) ∧
    (∀ base cap, migRing s p = some (base, cap) →
      let rest := fun (t : State) => modPart t p fun q => { q with doorbell := false }
      let s' := markRead s p base 8
      (deviceWaits s p .read base 8 = true → Answers (.migrationDoorbell p) s s) ∧
      (deviceWaits s p .read base 8 = false →
        (deviceRead s p base 8 = none → Answers (.migrationDoorbell p) s (rest s')) ∧
        (∀ b, deviceRead s p base 8 = some b →
          let head := leAt b 0 4
          let place := base + 64 + 64 * (head % cap)
          let w := markRead s' p place 64
          let ahead := fun (t : State) => (devicePut t p base (leOut 4 ((head + 1) % 2 ^ 32))).getD t
          (head = leAt b 4 4 → Answers (.migrationDoorbell p) s (rest s')) ∧
          (head ≠ leAt b 4 4 → deviceWaits s' p .read place 64 = true → Answers (.migrationDoorbell p) s s') ∧
          (head ≠ leAt b 4 4 → deviceWaits s' p .read place 64 = false →
            (deviceRead s' p place 64 = none → Answers (.migrationDoorbell p) s (rest w)) ∧
            (∀ e, deviceRead s' p place 64 = some e →
              let pte := leAt e 0 8
              let old := leAt e 8 8
              let new := leAt e 16 8
              let refused := fun (code : Nat) => (engineWrite w p (leAt e 40 8) (.set code) = none → Answers (.migrationDoorbell p) s w) ∧
                (engineWrite w p (leAt e 40 8) (.set code) = some u → Answers (.migrationDoorbell p) s (ahead u))
              (leAt e 48 1 = 0 → Answers (.migrationDoorbell p) s (ahead w)) ∧
              (leAt e 48 1 ≠ 0 → commandOk w p e = false → refused 4) ∧
              (leAt e 48 1 ≠ 0 → commandOk w p e = true →
                ((migWaits w pte new || pteHeld w [pte / 128]) = true → Answers (.migrationDoorbell p) s w) ∧
                ((migWaits w pte new || pteHeld w [pte / 128]) = false →
                  (pTier old = 0 → cairnFrame w (pFrame old) = true → refused 5) ∧
                  ((pTier old ≠ 0 ∨ cairnFrame w (pFrame old) = false) →
                    (read8 w pte ≠ old → refused 1) ∧
                    (read8 w pte = old → engineWrite w p (leAt e 32 8) (.add 1) = none → Answers (.migrationDoorbell p) s w) ∧
                    (read8 w pte = old → engineWrite w p (leAt e 32 8) (.add 1) = some u1 →
                      let m : Migration := { id := u1.fresh, part := p, pte := pte, old := old, new := new, host := leAt e 24 8, ctr := leAt e 32 8, stat := leAt e 40 8, kind := leAt e 48 1 }
                      let b := beginTransfer (writePte { u1 with fresh := u1.fresh + 1 } pte (if old.testBit 15 then old else old + 2 ^ 15)) m
                      Answers (.migrationDoorbell p) s (ahead { b.2 with migrations := b.2.migrations ++ [b.1] }))))))))))) ∧
  (∀ m, s.migrations.find? (fun m => m.id == n) = some m →
    ((m.bad = true ∨ m.sent = false ∨ migPending s n = true ∨ finishMigration s m = none) → Answers (.migrationCopyDone n) s s) ∧
    (m.bad = false → m.sent = true → migPending s n = false → finishMigration s m = some u → Answers (.migrationCopyDone n) s u ∧
      u.migrations = s.migrations.filter (fun q => q.id != n) ∧
      (m.kind = 3 → (u.mgmt.fbias.contains (pFrame m.new) = m.new.testBit 10))) ∧
    (engineWrite (writePte { s with migrations := s.migrations.filter fun q => q.id != n } m.pte (if m.old.testBit 15 then m.old - 2 ^ 15 else m.old)) m.part m.stat (.set 2) = none →
      Answers (.migrationAbort n) s s) ∧
    (engineWrite (writePte { s with migrations := s.migrations.filter fun q => q.id != n } m.pte (if m.old.testBit 15 then m.old - 2 ^ 15 else m.old)) m.part m.stat (.set 2) = some u →
      Answers (.migrationAbort n) s u ∧ u.migrations = s.migrations.filter (fun q => q.id != n))) ∧
  (∀ a v, Quiet s → ∀ tier q, tier ≤ 1 → physByte (writePte s a v) tier q =
    if tier = 0 ∧ a ≤ q ∧ q < a + 8 then BitVec.ofNat 8 (v / 256 ^ (q - a)) else physByte s tier q)

/-- R434 to R436: a partition drains a domain of its own, after which no L1, no L2 and no LLC slice holds a line of it, and commits the staged copies of its
descriptors after the check. -/
def Claims.DomainChanges : Prop :=
  ∀ (s : State) (p d : Nat),
  let ctl := fun (v : Word) (t : State) => t = { s with mgmt := { s.mgmt with domStaged := t.mgmt.domStaged } } ∧ kget 0 t.mgmt.domStaged (16 * d + 5) = v ∧
    ∀ k, k ≠ 16 * d + 5 → kfind t.mgmt.domStaged k = kfind s.mgmt.domStaged k
  ((32 ≤ d ∨ dOwner s d ≠ p ∨ domBusy s p = true) → Answers (.domainDrain p d) s s ∧ Answers (.domainCommit p d) s s) ∧
  (d < 32 → dOwner s d = p → domBusy s p = false → Completes (.domainDrain p d) s (ctl 0x101) ∧
    Completes (.domainCommit p d) s (ctl (if commitCode s p = 0 then 0x102 else BitVec.ofNat 32 (65536 * commitCode s p)))) ∧
  ((dOwner s d ≠ p ∨ sdctl s d ≠ 0x101) → Answers (.domainDrainDone p d) s s) ∧
  (dOwner s d = p → sdctl s d = 0x101 → Completes (.domainDrainDone p d) s fun t => MemKept s t ∧ kget 0 t.mgmt.domStaged (16 * d + 5) = 0 ∧
    (∀ c q, kfind t.cores c = some q → ∀ l ∈ q.l1, domHolds (domWord s d) (128 * l.1) = false) ∧
    (∀ c q, kfind t.dies c = some q → ∀ l ∈ q.l2, domHolds (domWord s d) (128 * l.1) = false) ∧
    ∀ c q n v, kfind t.slices c = some q → kfind q.llc n = some v → ∀ l ∈ v, domHolds (domWord s d) (128 * l.line) = false) ∧
  ((dOwner s d ≠ p ∨ sdctl s d ≠ 0x102) → Answers (.domainCommitDone p d) s s) ∧
  (dOwner s d = p → sdctl s d = 0x102 → Completes (.domainCommitDone p d) s fun t => kget 0 t.mgmt.domStaged (16 * d + 5) = 0 ∧
    ∀ e i, e < 32 → i < 16 → i ≠ 5 → kget 0 t.mgmt.domActive (16 * e + i) =
      if dOwner s e = p then BitVec.ofNat 32 (domStagedWord s e i) else kget 0 s.mgmt.domActive (16 * e + i))
/-- R429 to R431: a conflicting write splits the line's entry and asks every other holder; the last answer grants it; a notice drops a pointer;
quiet siblings merge, unless a write waits in them. -/
def Claims.DirectoryMessages : Prop :=
  ∀ (s : State) (n line h base size : Nat),
  let d := (dirOf s n).1
  let cs := (dirOf s n).2
  (d.find? (fun e => e.covers line) = none → Answers (.directoryWriteConflict n line h) s s) ∧
  (∀ e, d.find? (fun e => e.covers line) = some e →
    let others := (allHolders n e).filter (· != h)
    ((others = [] ∨ cs.any (fun c => c.line == line) = true) → Answers (.directoryWriteConflict n line h) s s) ∧
    (others ≠ [] → cs.any (fun c => c.line == line) = false → Completes (.directoryWriteConflict n line h) s fun t => MemKept s t ∧
      (dirOf t n).2 = cs ++ [{ line := line, writer := h, waiting := others }] ∧ ∃ x ∈ (dirOf t n).1, x.base = line ∧ x.size = 0)) ∧
  (cs.find? (fun c => c.line == line) = none → Answers (.invalidationAnswer n line h) s s) ∧
  (∀ c, cs.find? (fun c => c.line == line) = some c →
    (c.waiting.contains h = false → Answers (.invalidationAnswer n line h) s s) ∧
    (c.waiting.contains h = true → Completes (.invalidationAnswer n line h) s fun t => MemKept s t ∧
      (n < 8 → kfind (kget ({} : Core) t.cores (64 * n + h)).l1 line = none) ∧
      (8 ≤ n → h < 8 → (kfind (kget ({} : Die) t.dies h).l2 line = none ∧
        ∀ k q v, kfind t.cores k = some q → k / 64 = h → kfind q.l1 line = some v → v.selfInv = true)) ∧
      (if c.waiting.filter (· != h) = [] then (dirOf t n).1 = dirOwn d (if n < 8 then 8 else 1) line c.writer c.late ∧ (dirOf t n).2 = cs.erase c
       else (dirOf t n).1 = d ∧ (dirOf t n).2 = cs.replace c { c with waiting := c.waiting.filter (· != h) }))) ∧
  (Completes (.evictionNotice n line h) s fun t => MemKept s t ∧ (dirOf t n).2 = cs ∧
    (dirOf t n).1 = dirLeave d line h) ∧
  ((cs.any fun c => base ≤ c.line && c.line < base + 2 ^ (size + 1)) = true → Answers (.regionMerge n base size) s s) ∧
  ((cs.any fun c => base ≤ c.line && c.line < base + 2 ^ (size + 1)) = false →
    Completes (.regionMerge n base size) s fun t => MemKept s t ∧ dirOf t n = (dirMerge d (dirGroup n) base size, cs))
/-- R421: a refresh is postponed, eight at most, or issued with every one owed; an alert issues eight owed ones first. R424: a host's snoop is
answered with the line's bytes, and the caches give up a line of the host's space (how its lines are numbered for the two hosts: log entry 120). -/
def Claims.RefreshAndSnoops : Prop :=
  ∀ (s : State) (n : Nat),
  let b := kget ({} : Bank2) s.banks n
  (Completes (.perBankRefresh n) s fun t => MemKept s t ∧ (∀ j, j ≠ n → kfind t.banks j = kfind s.banks j) ∧
    ((b.owed < 8 ∧ kget ({} : Bank2) t.banks n = { b with owed := b.owed + 1 }) ∨
     kget ({} : Bank2) t.banks n = { b with refreshes := b.refreshes + b.owed + 1, owed := 0 })) ∧
  (Completes (.activationAlert n) s fun t => t = { s with banks := t.banks } ∧ kget ({} : Bank2) t.banks n =
    if b.owed = 8 then { b with refreshes := b.refreshes + 8, owed := 0, alerts := b.alerts + 1, managed := b.managed + 1 }
    else { b with alerts := b.alerts + 1, managed := b.managed + 1 }) ∧
  (let a := 128 * n
   let hidden := s.mgmt.hostUp = false ∨ 3 * 2 ^ 52 ≤ a ∨ (a < 2 ^ 52 ∧ s.mgmt.fbias.contains (a / 65536) = false)
   (hidden → Answers (.hostSnoop n) s s) ∧
   (¬ hidden → Quiet s → a < 2 ^ 52 → Answers (.hostSnoop n) s { s with hostData := physRead s 0 a 128 }) ∧
   (¬ hidden → Quiet s → 2 ^ 52 ≤ a → Completes (.hostSnoop n) s fun t => MemKept s t ∧ t.hostData = physRead s 1 (a - 2 ^ 52) 128 ∧
     ∀ c q, kfind t.cores c = some q → ∀ l ∈ q.l1, 2 ^ 53 ≤ l.1 → l.1 % 2 ^ 46 ≠ (a - 2 ^ 52) / 128))
/-- R91, R397, R411, R426, R428, R429: what a group's reads and writes of device memory leave in the caches. No byte changes. A page that is
uncached or in host bias brings no line into an L1 or an L2; a page under race watch keeps none in an L1 (R145); a directory-tracked read brings one into
both, and a write leaves it modified in the L1, when the L1 has room beside the lines that loads have reserved (R75). An L1 holds at most 2,048 lines, a core's TLB at most 256 entries and a die's at most 16,384. -/
def Claims.CachesHoldLines : Prop :=
  ∀ (s : State) (core line pte : Nat) (granules : BitVec 8) (cells : List Host.Cell),
  let r := cacheRead s core line pte granules
  let w := cacheWrite s core line pte cells
  let l1 := fun (t : State) => (kget ({} : Core) t.cores core).l1
  let l2 := fun (t : State) => (kget ({} : Die) t.dies (core / 64)).l2
  MemKept s r ∧ MemKept s w ∧
  ((pte.testBit 10 = true ∨ pte / 256 % 4 = 2) → ∀ n l,
    (kfind (kget ({} : Core) s.cores n).l1 l = none → kfind (kget ({} : Core) r.cores n).l1 l = none ∧ kfind (kget ({} : Core) w.cores n).l1 l = none) ∧
    (pte.testBit 11 = false → kfind (kget ({} : Die) s.dies n).l2 l = none →
      kfind (kget ({} : Die) r.dies n).l2 l = none ∧ kfind (kget ({} : Die) w.dies n).l2 l = none)) ∧
  (pte.testBit 11 = true → pte.testBit 10 = false → pte / 256 % 4 ≠ 2 → kfind (l1 r) line = none ∧ kfind (l1 w) line = none) ∧
  (pte.testBit 10 = false → pte / 256 % 4 = 0 → pte.testBit 11 = false →
    ((l1 s).length < 2048 ∨ ((l1 s).length = 2048 ∧ ∃ q ∈ l1 s, (reservedLines s core).contains q.1 = false) ∨ (kfind (l1 s) line).isSome = true) →
    (kfind (l1 r) line).isSome = true ∧ (kfind (l1 s) line = none → (kfind (l2 r) line).isSome = true) ∧
    (kfind (l1 w) line).any (·.dirty) = true ∧ (kfind (l2 w) line).isSome = true) ∧
  ((l1 s).length ≤ 2048 → risingFrom 0 (l1 s) = true → (l1 r).length ≤ 2048 ∧ (l1 w).length ≤ 2048) ∧
  (∀ p va lvl acc, let t := (translate s core p lvl acc va).2
    ((kget ({} : Core) s.cores core).tlb.length ≤ 256 → (kget ({} : Core) t.cores core).tlb.length ≤ 256) ∧
    ((kget ({} : Die) s.dies (core / 64)).tlb.length ≤ 16384 → (kget ({} : Die) t.dies (core / 64)).tlb.length ≤ 16384))
def Obligations.DomainsDirectoriesAndUpkeep : Prop :=
  Claims.DomainChanges ∧ Claims.DirectoryMessages ∧ Claims.RefreshAndSnoops ∧ Claims.CachesHoldLines

/-! ## Packets, links and routes (R303, R444 to R450) -/

/-- R447 to R449: a packet that is not the first of its channel and path waits; one for another device goes on; a request is served at its
place, or refused with the status of the first check it fails; the packets of one request are served together, once the last has come (R227; how they
are told: log entry 97). A beacon packet's records, four at most, enter one after another, and the answers name those taken and those refused. A write
waits while accesses through a page's old entry in its line are outstanding (R399). -/
def Obligations.RequestsServed : Prop :=
  ∀ (s : State) (n port : Nat) (k : Packet),
  let r := { s with inbox := s.inbox.eraseIdx n }
  let all : List (Instr × Nat) := [(.remoteRead n, 0), (.remoteWrite n, 1), (.remoteAtomic n, 2), (.remoteReduction n, 3), (.beacon n, 4), (.refusal n, 5),
    (.readResponse n, 6), (.acknowledgement n, 7), (.atomicResponse n, 8)]
  let op := opOf k.body
  (∀ q ∈ all, takePacket s n (· == q.2) = none → Answers q.1 s s) ∧
  (∀ q ∈ all, takePacket s n (· == q.2) = some (port, k) → k.dst ≠ devNum s → Answers q.1 s (if q.2 ≤ 4 then sendPacket r k else sendAnswer (noteAnswer r k) k)) ∧
  (takePacket s n (9 ≤ ·) = none → Answers (.reservedPacket n) s s) ∧
  (takePacket s n (9 ≤ ·) = some (port, k) → Completes (.reservedPacket n) s fun t => t = { r with ports := t.ports } ∧
    (kget ({} : Port) t.ports port).dropped = if port < 16 then min 255 ((kget ({} : Port) s.ports port).dropped + 1) else (kget ({} : Port) s.ports port).dropped) ∧
  (∀ i ∈ ([(.remoteAtomic n, 2), (.remoteReduction n, 3)] : List (Instr × Nat)), takePacket s n (· == i.2) = some (port, k) → k.dst = devNum s →
    requestRun 64 s n = none → Answers i.1 s s) ∧
  (∀ q ∈ all.take 4, takePacket s n (· == q.2) = some (port, k) → k.dst = devNum s → moreFollows k = false →
    let low := if q.2 < 2 then 0 else op.2.2.2.1
    let len := if q.2 < 2 then 32 else max 1 op.2.1
    ∀ st, target r k low len = .inl st → Answers q.1 s (sendAnswer r (errorTo k st))) ∧
  (∀ p a, takePacket s n (· == 0) = some (port, k) → k.dst = devNum s → target r k 0 32 = .inr (p, a) →
    Answers (.remoteRead n) s (if poisoned r (a / 32 * 32) then sendAnswer r (errorTo k 6)
      else sendAnswer (homeRead r (a / 32 * 32 / 128)) (answerTo k 6 0 (physRead r 0 (a / 32 * 32) 32)))) ∧
  (∀ p a, takePacket s n (· == 1) = some (port, k) → k.dst = devNum s → target r k 0 32 = .inr (p, a) → pteHeld r [a / 32 * 32 / 128] = true →
    Answers (.remoteWrite n) s s) ∧
  (∀ p a, takePacket s n (· == 1) = some (port, k) → k.dst = devNum s → target r k 0 32 = .inr (p, a) → pteHeld r [a / 32 * 32 / 128] = false → Quiet s →
    Completes (.remoteWrite n) s fun t => ∀ tier q, tier ≤ 1 → physByte t tier q =
      if tier = 0 ∧ a / 32 * 32 ≤ q ∧ q < a / 32 * 32 + 32 ∧ (leAt k.body 32 4).testBit (q % 32) = true then k.body.getD (q % 32) 0 else physByte s tier q) ∧
  (∀ i ∈ ([(.remoteAtomic n, 2), (.remoteReduction n, 3)] : List (Instr × Nat)), takePacket s n (· == i.2) = some (port, k) → k.dst = devNum s → moreFollows k = false → Quiet s →
    ∀ p a, target r k op.2.2.2.1 (max 1 op.2.1) = .inr (p, a) → pteHeld r [a / 128] = false → (if i.2 = 2 then poisoned r a = false else ¬(op.2.2.1 = 1 ∧ 10 ≤ op.1 ∧ op.1 ≤ 12)) →
    let e := op.2.1
    let old := leVal (physRead s 0 a e)
    Completes i.1 s fun t => ∀ tier q, tier ≤ 1 → physByte t tier q =
      if tier = 0 ∧ a ≤ q ∧ q < a + e then
        BitVec.ofNat 8 (atomicVal op.1 e old (op.2.2.2.2.1 % 2 ^ (8 * e)) (op.2.2.2.2.2 % 2 ^ (8 * e)) / 256 ^ (q - a))
      else physByte s tier q) ∧
  (takePacket s n (· == 4) = some (port, k) → k.dst = devNum s →
    (keyPart r k.key = none → Answers (.beacon n) s (sendAnswer r (answerTo k 5 3 (leOut 4 (2 ^ min 4 (beaconCount k) - 1))))) ∧
    (∀ p, keyPart r k.key = some p →
      let c := min 4 (beaconCount k)
      let b := fun (i : Nat) (v : State) => let q := beaconOf ((k.body.drop (52 * i)).take 52); { q with stamp := beaconStamp v k q }
      let die := fun (i : Nat) (v : State) => homeDie v p (b i v).node
      ((∃ i, i < c ∧ nodeHeld r (die i r) p (b i r).node = true) → Answers (.beacon n) s s) ∧
      (∀ (vs : Nat → State) (taken noNode : Nat → Bool), (∀ i, i < c → nodeHeld r (die i r) p (b i r).node = false) → vs 0 = r →
        (∀ i, i < c → let v := vs i
          (nodeFor v (die i v) p (b i v).node = none ∧ taken i = false ∧ noNode i = true ∧ vs (i + 1) = nodeWalk v p (die i v) (b i v).node) ∨
          ∃ d, nodeFor v (die i v) p (b i v).node = some d ∧ noNode i = false ∧
            ((placeRec v p (die i v) d (b i v) = some (vs (i + 1)) ∧ taken i = true) ∨ (placeRec v p (die i v) d (b i v) = none ∧ taken i = false ∧ vs (i + 1) = v))) →
        let ok := ((List.range c).map fun i => if taken i then 2 ^ i else 0).sum
        let yes := if ok = 0 then vs c else sendAnswer (vs c) (answerTo k 7 0 (leOut 4 ok))
        Answers (.beacon n) s (if ok = 2 ^ c - 1 then yes else
          sendAnswer yes (answerTo k 5 (if (List.range c).any noNode then 2 else 1) (leOut 4 (2 ^ c - 1 - ok)))))))

/-- R402, R447, R449, R450: an answer with its request's tag ends the request. What it returns enters the registers of its operation, each lane of a combined atomic taking the value that stood
before its own operation; an error
fails the lanes that read and sets sfault for the others; a beacon's answer names the beacons it settles. A control word's answer lets its instruction go on
(log entry 117), a copy's and a migration's bring bytes or settle writes, a code fetch's bring a block, and a watched word's end the waits it meets. -/
def Obligations.AnswersTaken : Prop :=
  ∀ (s : State) (n port : Nat) (k : Packet) (q : Remote) (id : Nat) (o : Op) (bid num : Nat) (b : Block) (c : Copy) (g : Group) (f : Frag),
  let r := { s with inbox := s.inbox.eraseIdx n }
  let all : List (Instr × Nat) := [(.refusal n, 5), (.readResponse n, 6), (.acknowledgement n, 7), (.atomicResponse n, 8)]
  ∀ i ∈ all, takePacket s n (· == i.2) = some (port, k) → k.dst = devNum s →
  (kfind s.remotes k.tag = none → Answers i.1 s r) ∧
  (kfind s.remotes k.tag = some q → q.type ≠ 4 → i.2 ≠ (if q.type = 0 then 6 else if q.type = 2 then 8 else 7) → Answers i.1 s r) ∧
  (kfind s.remotes k.tag = some q → q.type ≠ 4 → i.2 = (if q.type = 0 then 6 else if q.type = 2 then 8 else 7) → q.watch = none → q.op = some id →
    s.ops.find? (fun o => o.id == id) = some o → (∀ key e, o.kind ≠ .peerWord key e) → Completes i.1 s fun t => MemKept s t ∧ t.groups = s.groups ∧ kfind t.remotes k.tag = none ∧
      let reads := q.type = 0 ∨ (q.type = 2 ∧ readsBack o = true)
      (k.status ≠ 0 → ¬ reads → (preg t q.part 0x21A).getLsbD 3 = true) ∧
      ∃ w, t.ops.find? (fun o => o.id == id) = some w ∧ w.tags = o.tags.filter (· != k.tag) ∧ w.kind = o.kind ∧
        (k.status = 0 → w.failed = o.failed ∧ w.trap = o.trap ∧
          w.vwrites = (let old := leVal (k.body.take q.fold.2)
            q.prior.foldl (fun m y => kputAll m (y.1.zipIdx.map fun z => (z.1, word (atomicVal q.fold.1 q.fold.2 old y.2 0 / 2 ^ (32 * z.2)))))
              (q.patches.foldl (fun m p => patchByte m p.2.1 p.2.2 (k.body.getD p.1 0)) o.vwrites))) ∧
        (k.status ≠ 0 → ¬ reads → w.failed = o.failed ∧ w.trap = o.trap ∧ w.vwrites = o.vwrites) ∧
        (k.status ≠ 0 → reads → w.failed = o.failed ||| maskOf (fun l => q.lanes.contains l) ∧ w.trap.isSome = true)) ∧
  (kfind s.remotes k.tag = some q → q.type ≠ 4 → i.2 = (if q.type = 0 then 6 else if q.type = 2 then 8 else 7) →
    (∀ x key e, q.watch = none → q.op = some id → s.ops.find? (fun o => o.id == id) = some o → o.kind = .peerWord key e → o.tags = [k.tag] → o.trap = none →
      (q.type = 0 ∨ q.type = 2) → q.prior = [] → envAt s o.group o.entry = some x → x.g.gid = o.gid → Completes i.1 s fun t => MemKept s t ∧ t.ops = s.ops.filter (·.id != id) ∧
        let vw := q.patches.foldl (fun m p => patchByte m p.2.1 p.2.2 (k.body.getD p.1 0)) o.vwrites
        let v := (kget 0 vw 0).toNat + 2 ^ 32 * (kget 0 vw 1).toNat
        ∃ z, envAt t o.group o.entry = some z ∧
          (k.status = 0 → z.g = { x.g with table := z.g.table } ∧ z.f = { x.f with peer := some ⟨key, v, e == some v⟩ }) ∧
          (k.status ≠ 0 → x.g.level = .user → Handled s x.b.part (word (7 + 65536 * o.entry)) o.pc o.lanes z)) ∧
    (q.watch = none → q.op = none → q.copy = some (bid, num) → kfind s.blocks bid = some b → kfind b.copies num = some c → Completes i.1 s fun t =>
      MemKept s t ∧ t.groups = s.groups ∧ kfind t.remotes k.tag = none ∧ (k.status ≠ 0 → q.type ≠ 0 → (preg t q.part 0x21A).getLsbD 3 = true) ∧
      ∃ w d, kfind t.blocks bid = some w ∧ kfind w.copies num = some d ∧ d.tags = c.tags.filter (· != k.tag) ∧
        (q.type ≠ 0 → d.got = c.got ∧ d.lost = c.lost) ∧
        (q.type = 0 → k.status = 0 → d.lost = c.lost ∧ d.got = q.patches.foldl (fun m p => kput m p.2.1 (k.body.getD p.1 0)) c.got) ∧
        (q.type = 0 → k.status ≠ 0 → d.got = c.got ∧ ∀ e, e ∈ d.lost ↔ (e ∈ c.lost ∨ ∃ p ∈ q.patches, e = p.2.1 / 16))) ∧
    (∀ m, q.watch = none → q.op = none → q.copy = none → q.mig = some id → s.migrations.find? (fun m => m.id == id) = some m →
      let at' := pageAt s m.part m.new m.host (q.pa % 65536)
      (k.status ≠ 0 → ¬(q.type = 0 ∧ k.status = 6) → Completes i.1 s fun t => MemKept s t ∧
        t.migrations = s.migrations.map fun x => if x.id = id then { x with bad := true } else x) ∧
      (k.status = 0 → q.type ≠ 0 → Completes i.1 s fun t => MemKept s t ∧ t.migrations = s.migrations) ∧
      ((k.status = 0 ∨ k.status = 6) → q.type = 0 → at'.1 ≤ 1 → Quiet s → Completes i.1 s fun t =>
        (∀ x, t.migrations.find? (fun m => m.id == id) = some x → (k.status = 6 → q.pa % 65536 / 64 ∈ x.poisoned) ∧ (k.status = 0 → x = m)) ∧
        ∀ tier a, tier ≤ 1 → physByte t tier a = if tier = at'.1 ∧ at'.2 ≤ a ∧ a < at'.2 + 32 then k.body.getD (a - at'.2) 0 else physByte s tier a)) ∧
    (q.watch = none → q.op = none → q.copy = none → q.mig = none → q.code = some (bid, num) → kfind s.groups bid = some g →
      (kget ({} : Block) s.blocks g.block).part = q.part → Completes i.1 s fun t => MemKept s t ∧ ∃ h, kfind t.groups bid = some h ∧ RegsKept g h ∧
        kfind h.fetched num = some (if k.status = 0 then (k.body ++ List.replicate 32 0).take 32 else [])) ∧
    (q.watch = some id → s.groups.find? (fun x => x.2.gid == id) = some (bid, g) → kfind s.groups bid = some g → kfind g.table num = some f →
      ∀ w, f.watch = some w → w.tier = 2 → q.dst * 2 ^ 52 + q.pa ≤ w.addr → w.addr < q.dst * 2 ^ 52 + q.pa + 32 → Completes i.1 s fun t => MemKept s t ∧
        ∃ h, kfind t.groups bid = some h ∧ RegsKept g h ∧
          let v := leAt k.body (w.addr - (q.dst * 2 ^ 52 + q.pa)) 8
          (k.status ≠ 0 → f.wait ≠ .none → kfind h.table num = some { f with wait := .none, watch := none }) ∧
          (k.status = 0 → ((f.wait = .cwait ∧ w.want ≤ v) ∨ (f.wait = .mbar ∧ v / 2 ^ 63 ≠ w.want)) →
            kfind h.table num = some { f with wait := .none, watch := none, pc := f.pc + 4, arrive := .header, reached := s.clock }) ∧
          (k.status = 0 → ((f.wait = .cwait ∧ v < w.want) ∨ (f.wait = .mbar ∧ v / 2 ^ 63 = w.want)) → kfind h.table num = some f))) ∧
  (kfind s.remotes k.tag = some q → q.type = 4 → (i.2 = 5 ∨ i.2 = 7) → q.op = some id → s.ops.find? (fun o => o.id == id) = some o →
    Completes i.1 s fun t => MemKept s t ∧ t.groups = s.groups ∧
      let ls := maskOf fun l => q.lanes.zipIdx.any fun x => x.1 == l && (leAt k.body 0 4).testBit x.2 && decide (x.2 < 4)
      ∃ w, t.ops.find? (fun o => o.id == id) = some w ∧ w.sent = o.sent &&& ~~~ls ∧
        (if i.2 = 7 then w.accepted = o.accepted ||| ls ∧ w.refused = o.refused else w.refused = o.refused ||| ls ∧ w.accepted = o.accepted))

/-- R445, R446, R448: a port trains, comes up with its peer, goes down; a nak replays what is unacknowledged, and the ninth in a row trains the
port again; a flit is accepted in sequence with a good CRC, its acknowledgement or nak with it, and otherwise
discarded whole; a port that is closing sends no more; a route changes once nothing sent toward its device, by this one or through it, is unanswered. -/
def Obligations.PortsAndRoutes : Prop :=
  ∀ (s : State) (p n : Nat) (b : List Byte) (v : Word),
  let q := kget ({} : Port) s.ports p
  let now := fun (i : Instr) (w : Port) => Completes i s fun t => t = { s with ports := t.ports } ∧ kget ({} : Port) t.ports p = w ∧
    ∀ j, j ≠ p → kfind t.ports j = kfind s.ports j
  (∀ m, q.closing = true → sendFlits m s p = s) ∧
  (4096 ≤ n → Answers (.mrouteWrite n v) s s) ∧
  (n < 4096 → (s.remotes.any (fun r => r.2.dst == n) || s.mgmt.forwarded.any fun r => r.2.1 == n) = false → Completes (.mrouteWrite n v) s fun t => MemKept s t ∧ kget 0 t.mgmt.mroute n = v &&& 0x8F) ∧
  (n < 4096 → (s.remotes.any (fun r => r.2.dst == n) || s.mgmt.forwarded.any fun r => r.2.1 == n) = true → Completes (.mrouteWrite n v) s fun t => MemKept s t ∧
    kget 0 t.mgmt.mroute n = kget 0 s.mgmt.mroute n ∧ (n, v &&& 0x8F) ∈ t.mgmt.mrouteLate) ∧
  ((portOff s p = true ∨ q.enable = true) → Answers (.portEnable p) s s) ∧
  (portOff s p = false → q.enable = false → now (.portEnable p) { q with enable := true, closing := false, state := if q.state = .up then .up else .training }) ∧
  ((portOff s p = true ∨ q.enable = false ∨ q.state ≠ .down) → Answers (.portRetrain p) s s) ∧
  (portOff s p = false → q.enable = true → q.state = .down → now (.portRetrain p) { q with state := .training }) ∧
  ((portOff s p = true ∨ q.enable = false) → Answers (.portDisable p) s s) ∧
  (portOff s p = false → q.enable = true → q.unacked ≠ [] → now (.portDisable p) { q with enable := false, closing := true }) ∧
  (portOff s p = false → q.enable = true → q.unacked = [] → Completes (.portDisable p) s fun t => MemKept s t ∧
    (kget ({} : Port) t.ports p).state = .down ∧ (kget ({} : Port) t.ports p).enable = false ∧ (kget ({} : Port) t.ports p).txSeq = 0) ∧
  (q.state ≠ .training → Answers (.linkTrainingDone p n) s s ∧ Answers (.linkTrainingFail p) s s) ∧
  (q.state = .training →
    (Completes (.linkTrainingDone p n) s fun t => t = { s with ports := t.ports } ∧ (kget ({} : Port) t.ports p).state = .up ∧
      (kget ({} : Port) t.ports p).peer = n % 4096 ∧ (kget ({} : Port) t.ports p).replayed = min 65535 (q.replayed + q.unacked.length) ∧
      (kget ({} : Port) t.ports p).unacked = q.unacked) ∧
    (q.outq = [] → now (.linkTrainingFail p) { q with state := .down, closing := false, outq := [] })) ∧
  (q.state ≠ .up → Answers (.linkNakReplay p n) s s) ∧
  (q.state = .up → q.closing = false →
    let w := ackTo q n
    (w.unacked = [] → now (.linkNakReplay p n) w) ∧
    (w.unacked ≠ [] → w.replays = 8 → now (.linkNakReplay p n) { w with state := .training, replays := 0, retrains := min 255 (w.retrains + 1) }) ∧
    (w.unacked ≠ [] → w.replays ≠ 8 → now (.linkNakReplay p n) { w with replays := w.replays + 1, replayed := min 65535 (w.replayed + w.unacked.length) })) ∧
  ((16 ≤ p ∨ q.state ≠ .up ∨ b.length ≠ 128) → Answers (.flit p b) s s) ∧
  (p < 16 → q.state = .up → b.length = 128 →
    (crc32c (b.take 124) ≠ leAt b 124 4 → now (.flit p b) { q with nakOwed := true }) ∧
    (crc32c (b.take 124) = leAt b 124 4 → leAt b 120 2 % 4096 ≠ (q.rxSeq + 1) % 4096 → now (.flit p b) { q with nakOwed := true }) ∧
    (crc32c (b.take 124) = leAt b 124 4 → leAt b 120 2 % 4096 = (q.rxSeq + 1) % 4096 → q.closing = false → (leAt b 122 2).testBit 15 = true →
      let w := ackTo q (leAt b 122 2 % 4096)
      w.unacked ≠ [] → w.replays ≠ 8 → Completes (.flit p b) s fun t => (kget ({} : Port) t.ports p).replays = w.replays + 1 ∧
        (kget ({} : Port) t.ports p).unacked = w.unacked ∧ (kget ({} : Port) t.ports p).rxSeq = leAt b 120 2 % 4096) ∧
    (crc32c (b.take 124) = leAt b 124 4 → q.closing = false → (leAt b 122 2).testBit 15 = false →
      let w := ackTo q (leAt b 122 2 % 4096)
      let seq := leAt b 120 2 % 4096
      let vc := bits (leAt b 120 2) 13 12
      let got := parsePackets 8 (kget [] q.rxBytes vc ++ b.take 116)
      (seq = (q.rxSeq + 1) % 4096 → (leAt b 120 2).testBit 15 = false → Completes (.flit p b) s fun t => t = { s with ports := t.ports, inbox := t.inbox } ∧
        t.inbox = s.inbox ++ got.1.map (fun k => (p, k)) ∧ (kget ({} : Port) t.ports p).rxSeq = seq ∧
        kget [] (kget ({} : Port) t.ports p).rxBytes vc = got.2 ∧ (kget ({} : Port) t.ports p).unacked = w.unacked) ∧
      (seq = (q.rxSeq + 1) % 4096 → (leAt b 120 2).testBit 15 = true → Completes (.flit p b) s fun t => t = { s with ports := t.ports } ∧
        (kget ({} : Port) t.ports p).rxSeq = seq ∧ (kget ({} : Port) t.ports p).unacked = w.unacked)))

/-! ## Partitions, module reset and hosts (R438 to R463) -/

/-- R443: a partition's state changes by the table, and no other partition's with it; every other request is answered with result 1. R442:
frames change owner when neither owner runs, after a scrub where one is asked for. -/
def Obligations.PartitionStates : Prop :=
  ∀ (s : State) (p : Nat) (v : Word),
  let q := partAt s p
  let four : List Instr := [.partitionConfigure p, .partitionAbandon p, .partitionActivate p, .partitionDrain p]
  let refused := fun (i : Instr) => Completes i s fun t => t = { s with parts := t.parts } ∧ partAt t p = { q with result := 1 } ∧ ∀ j, j ≠ p → kfind t.parts j = kfind s.parts j
  let unique := s.parts.all (fun x => x.1 == p || !(x.2.state == .configuring || x.2.state == .active) || x.2.key != q.key) = true
  (64 ≤ p → ∀ i ∈ four, Answers i s s) ∧
  (p < 64 →
    (q.state = .absent → Completes (.partitionConfigure p) s fun t => MemKept s t ∧ partAt t p = { state := .configuring, key := q.key, port := q.port } ∧
      ∀ j, j ≠ p → kfind t.parts j = kfind s.parts j) ∧
    (q.state ≠ .absent → refused (.partitionConfigure p)) ∧
    (q.state = .configuring → Completes (.partitionAbandon p) s fun t => t = { s with parts := t.parts } ∧ partAt t p = { q with state := .absent, result := 0 } ∧
      ∀ j, j ≠ p → kfind t.parts j = kfind s.parts j) ∧
    (q.state ≠ .configuring → refused (.partitionAbandon p)) ∧
    (q.state = .configuring → q.key ≠ 0 → unique → holdsPair s p = true → Completes (.partitionActivate p) s fun t =>
      t = { s with parts := t.parts } ∧ partAt t p = { q with state := .active, result := 0 } ∧ ∀ j, j ≠ p → kfind t.parts j = kfind s.parts j) ∧
    ((q.state ≠ .configuring ∨ q.key = 0 ∨ ¬ unique ∨ holdsPair s p = false) → refused (.partitionActivate p)) ∧
    (q.state = .active → Completes (.partitionDrain p) s fun t => (partAt t p).state = .draining ∧ (partAt t p).result = 2 ∧
      (∀ j, j ≠ p → (partAt t j).state = (partAt s j).state) ∧ ∀ n b, kfind t.blocks n = some b → b.part ≠ p) ∧
    (q.state ≠ .active → refused (.partitionDrain p))) ∧
  (let isOver := q.state = .draining ∧ s.blocks.any (fun x => x.2.part == p) = false ∧ s.launches.any (fun x => lPart x.2.bytes == p) = false ∧
     s.remotes.any (fun r => r.2.part == p) = false
   (isOver → Completes (.partitionDrained p) s fun t => t = { s with parts := t.parts } ∧ partAt t p = { q with state := .absent, result := 0 } ∧
     ∀ j, j ≠ p → kfind t.parts j = kfind s.parts j) ∧
   (¬ isOver → Answers (.partitionDrained p) s s)) ∧
  (let f := (namedFrames s).1
   let n := (namedFrames s).2
   let w := wbits v 7 0
   let busyOld := s.parts.any (fun x => partBusy s x.1 && s.mgmt.fowner.any fun o => f ≤ o.1 && o.1 < f + n && o.2 == x.1)
   ((s.mgmt.scrub.isSome = true ∨ v.getLsbD 9 = false) → Answers (.frameOwnershipGo v) s s) ∧
   (s.mgmt.scrub = none → v.getLsbD 9 = true →
     ((busyOld = true ∨ partBusy s w = true) → Completes (.frameOwnershipGo v) s fun t => MemKept s t ∧ t.mgmt.fowner = s.mgmt.fowner ∧ t.mgmt.scrub = none ∧
       (kget 0 t.mgmt.pf 0x14).getLsbD 0 = true) ∧
     (busyOld = false → partBusy s w = false → v.getLsbD 8 = true → Completes (.frameOwnershipGo v) s fun t => MemKept s t ∧
       t.mgmt.fowner = s.mgmt.fowner ∧ t.mgmt.scrub = some (f, n, w)) ∧
     (busyOld = false → partBusy s w = false → v.getLsbD 8 = false → Completes (.frameOwnershipGo v) s fun t => MemKept s t ∧
       ∀ a, kfind t.mgmt.fowner a = if f ≤ a ∧ a < f + n ∧ a < hbmFrames s.mgmt.config then some w else kfind s.mgmt.fowner a))) ∧
  (s.mgmt.scrub = none → Answers .frameScrubDone s s) ∧
  (∀ f n w, s.mgmt.scrub = some (f, n, w) → Completes .frameScrubDone s fun t => t.mgmt.scrub = none ∧
    (∀ a, mget t.mem a = if 65536 * f ≤ a ∧ a < 65536 * (f + n) then 0 else mget s.mem a) ∧
    ∀ a, kfind t.mgmt.fowner a = if f ≤ a ∧ a < f + n ∧ a < hbmFrames s.mgmt.config then some w else kfind s.mgmt.fowner a)

/-- R443: nothing else changes a partition's state: an instruction or event that is no row of the table, no write to the PF's window and no
reset or stop of the module keeps the state of every partition. -/
def Obligations.PartitionStatesStep : Prop :=
  ∀ (i : Instr) (s t : State) (p : Nat), exec i s = .next t →
    (∀ n, i ≠ .partitionConfigure n ∧ i ≠ .partitionAbandon n ∧ i ≠ .partitionActivate n ∧ i ≠ .partitionDrain n ∧ i ≠ .partitionDrained n) →
    (∀ w off v, w = 64 → i ≠ .registerWrite w off v) → (∀ port a b, i ≠ .hostWrite port a b) →
    i ≠ .moduleReset → i ≠ .recoveryEnter → (∀ n temp, i ≠ .thermalThrottle n temp ∧ i ≠ .thermalShutdown n temp) →
    (partAt t p).state = (partAt s p).state

/-- R452 to R457: module reset leaves nothing in the machine, and in seven steps boots the image and the record the boot ROM accepts, or is
held, or enters recovery; recovery writes a verified image, record or token's minimum to flash, and resets, and refuses any other. -/
def Claims.ResetAndRecovery : Prop :=
  ∀ (s : State),
  let m := s.mgmt
  let empty := fun (t : State) => t.mem = [] ∧ t.groups = [] ∧ t.blocks = [] ∧ t.parts = [] ∧ t.queues = [] ∧ t.ops = [] ∧ t.ports = [] ∧ t.hostMem = s.hostMem ∧
    t.mgmt.imageA = m.imageA ∧ t.mgmt.imageB = m.imageB ∧ t.mgmt.configA = m.configA ∧ t.mgmt.configB = m.configB
  let begun := fun (t : State) => empty t ∧ t.turns = s.turns ∧ t.mgmt.boot = .booting 1 ∧ t.mgmt.hostUp = false ∧ t.mgmt.minsvn = m.minsvn ∧ t.mgmt.storageOk = m.storageOk
  let img := bootImage m
  let rec' := bootRecord m
  let safe : BootState := if m.storageOk then .recovery else .locked
  let good := Config.powerGood s.free = true ∧ Config.powerGood (s.free + 1) = true
  let trains := fun (b : List Byte) (k : Nat) => channels (recordOf b) k = 0 ∨ Config.stackTrains (s.free + 2) k = true
  (Completes .moduleReset s fun t => begun t ∧
    let u := bootSteps 7 t
    empty u ∧ (¬ good → u.mgmt.boot = .held ∧ u.mgmt.faultPin = true) ∧
    (good → (img = none ∨ rec' = none) → u.mgmt.boot = safe ∧ u.mgmt.hostUp = true) ∧
    (∀ i b, good → img = some i → rec' = some b → (∀ k, k < 12 → trains b k) → u.mgmt.boot = .running ∧ u.mgmt.bootedImage = i ∧ u.mgmt.config = recordOf b ∧
      u.mgmt.bootedRecord = b ∧ u.mgmt.minsvn = max m.minsvn (leAt i 12 4) ∧ u.mgmt.hostUp = true) ∧
    (∀ i b, good → img = some i → rec' = some b → (∃ k, k < 12 ∧ ¬ trains b k) → u.mgmt.boot = .recovery ∧ u.mgmt.badStacks ≠ 0)) ∧
  (∀ n, s.turns = [] → m.boot = .booting n → step s = .next (bootStep s n)) ∧
  ((inRecovery m = true ∨ s.parts.any (fun p => p.2.state != .absent) = true) → Answers .recoveryEnter s s) ∧
  (inRecovery m = false → s.parts.any (fun p => p.2.state != .absent) = false → Completes .recoveryEnter s fun t => begun t ∧
    (good → (bootSteps 7 t).mgmt.boot = safe) ∧ (¬ good → (bootSteps 7 t).mgmt.boot = .held)) ∧
  (inRecovery m = true → m.resetDue = true → s.turns = [] → ∃ t, step s = .next t ∧ begun t) ∧
  ((inRecovery m = false ∨ m.resetDue = true) → Answers .recoveryGoImage s s ∧ Answers .recoveryGoRecord s s ∧ Answers .recoveryGoToken s s) ∧
  (m.boot = .locked → Answers .recoveryGoImage s s ∧ Answers .recoveryGoRecord s s) ∧
  (m.resetDue = false →
    let accepted := fun (t : State) => MemKept s t ∧ t.groups = s.groups ∧ t.mgmt.boot = m.boot ∧ t.mgmt.recState = 3 ∧ t.mgmt.resetDue = true
    let refused := fun (i : Instr) => Answers i s { s with mgmt := { m with recState := 2, verifying := none, resetDue := false } }
    (m.boot = .recovery →
      (let b := buffer m (8192 + leAt (buffer m 8) 4 4)
       let good := leAt (buffer m 8) 4 4 ≤ 2 ^ 24 - 8192 ∧ imageOk m b = true
       let inA := slotA (imageOk m m.imageA) (imageOk m m.imageB) (imgSvn m.imageA) (imgSvn m.imageB)
       (good → Completes .recoveryGoImage s fun t => accepted t ∧ t.mgmt.imageA = (if inA then b else m.imageA) ∧ t.mgmt.imageB = (if inA then m.imageB else b) ∧
         t.mgmt.configA = m.configA ∧ t.mgmt.configB = m.configB) ∧
       (¬ good → refused .recoveryGoImage)) ∧
      (let b := buffer m 10496
       let inA := slotA (recordOk m m.configA) (recordOk m m.configB) (recSvn m.configA) (recSvn m.configB)
       (recordOk m b = true → Completes .recoveryGoRecord s fun t => accepted t ∧ t.mgmt.configA = (if inA then b else m.configA) ∧
         t.mgmt.configB = (if inA then m.configB else b) ∧ t.mgmt.imageA = m.imageA ∧ t.mgmt.imageB = m.imageB) ∧
       (recordOk m b = false → refused .recoveryGoRecord))) ∧
    (inRecovery m = true →
      let b := buffer m 8192
      let good := Config.sha256 (slice b 32 32) = Config.fusedKeyHash ∧ Config.slhDsaVerify (slice b 32 32) (slice b 0 336) (slice b 336 7856) = true ∧
        slice b 4 8 = Config.fusedSerial ∧ slice b 12 16 = m.rnonce ∧ zerosAt b 64 272 = true
      (good → Completes .recoveryGoToken s fun t => accepted t ∧ t.mgmt.storageOk = true ∧ t.mgmt.minsvn = leAt b 28 4) ∧
      (¬ good → Completes .recoveryGoToken s fun t => MemKept s t ∧ t.groups = s.groups ∧ t.mgmt.recState = 2 ∧ t.mgmt.rnonce = leOut 16 (Config.random s.free).toNat ∧
        t.mgmt.minsvn = m.minsvn ∧ t.mgmt.storageOk = m.storageOk)))
/-- R460 to R462: the governor measures the module's power and moves a running island's clock by at most one step, never above fmax, never to a
stop, and not up while the power is over its limit; heat lowers a clock and, at 115 °C, shuts the module
down. R458: every attestation request is answered from the exchange so far, and keys are set only within a finished session. The answers are
the model's opaque function of the exchange. -/
def Claims.PowerHeatAndAttestation : Prop :=
  ∀ (s : State) (n mhz : Nat) (c : BitVec 3) (req : List Byte),
  let stopped := fun (t : State) => t.mgmt.boot = .shutdown ∧ t.mgmt.faultPin = true ∧ t.mgmt.islands = [] ∧ t.ports = [] ∧ t.mem = [] ∧
    t.groups = [] ∧ t.mgmt.imageA = s.mgmt.imageA
  (∀ i, kfind s.mgmt.islands n = some i →
    let ws := powerWindow s.mgmt (Config.modulePower s.free)
    let tooMuch := s.mgmt.config.plimit * ws.length < ws.sum
    let held := i.cause = 2 ∧ 100 < i.hottest
    let ok := n < 264 ∧ i.on = true ∧ mhz ≤ s.mgmt.config.fmax ∧ (mhz = i.clock ∨ (25 ≤ mhz ∧ (mhz = i.clock + 25 ∨ i.clock = mhz + 25))) ∧
      (tooMuch → mhz < i.clock ∨ (mhz = i.clock ∧ i.clock ≤ 25)) ∧ ¬(held ∧ i.clock < mhz)
    let measured := { s with free := s.free + 1, mgmt := { s.mgmt with power := ws } }
    let is := fun (e : Instr) (u : State) (w : Island) => Completes e s fun t => t = { u with mgmt := { u.mgmt with islands := t.mgmt.islands } } ∧ kfind t.mgmt.islands n = some w ∧
      ∀ j, j ≠ n → kfind t.mgmt.islands j = kfind s.mgmt.islands j
    (ok → is (.governorSample n mhz c) measured { i with clock := mhz, voltage := Config.voltage mhz % 4096, cause := if held then 2 else c.toNat }) ∧
    (¬ ok → Answers (.governorSample n mhz c) s measured) ∧
    (mhz < 115 →
      (i.on = false → is (.thermalThrottle n mhz) s i) ∧
      (i.on = true → (105 ≤ mhz ∨ (i.cause = 2 ∧ 100 < mhz)) →
        let clk := if 50 ≤ i.clock then i.clock - 25 else i.clock
        is (.thermalThrottle n mhz) s { i with hottest := mhz, cause := 2, clock := clk, voltage := Config.voltage clk % 4096 }) ∧
      (i.on = true → mhz < 105 → (i.cause ≠ 2 ∨ mhz ≤ 100) → is (.thermalThrottle n mhz) s { i with hottest := mhz, cause := if i.cause = 2 then 0 else i.cause }) ∧
      Answers (.thermalShutdown n mhz) s s) ∧
    (115 ≤ mhz → Completes (.thermalThrottle n mhz) s stopped ∧ Completes (.thermalShutdown n mhz) s stopped)) ∧
  (kfind s.mgmt.islands n = none → Answers (.governorSample n mhz c) s s ∧ Answers (.thermalThrottle n mhz) s s ∧ Answers (.thermalShutdown n mhz) s s) ∧
  (let q := s.mgmt.spdm
   ∀ p ∈ ([(.getVersion req, [], { q with version := true, capabilities := false, negotiated := false, session := none, finished := false, transcript := [] }),
     (.getCapabilities req, [], { q with capabilities := q.version }), (.negotiateAlgorithms req, [], { q with negotiated := q.capabilities }),
     (.getDigests req, [], q), (.getCertificate req, [], q), (.challenge req, [], q), (.getMeasurements req, (measurements s.mgmt).flatten, q),
     (.keyExchange req, [], if q.negotiated && q.session.isNone then { q with session := some (leAt req 4 2), finished := false } else q),
     (.finish req, [], if q.session.isSome && Config.spdmFinishOk q.transcript req then { q with finished := true } else q),
     (.endSession req, [], { q with session := none, finished := false })] : List (Instr × List Byte × Session)),
   let r := Config.spdmResponse s.mgmt.identity s.mgmt.certificate q.transcript (req ++ p.2.1)
   (s.mgmt.hostUp = false → Answers p.1 s s) ∧
   (s.mgmt.hostUp = true → Answers p.1 s { s with mgmt := { s.mgmt with mailbox := req, spdm := { p.2.2 with transcript := p.2.2.transcript ++ (req ++ p.2.1) ++ r, response := r } } })) ∧
  (let open' := s.mgmt.hostUp = true ∧ s.mgmt.spdm.session.isSome = true ∧ s.mgmt.spdm.finished = true
   (open' → Answers (.ideKm n req) s { s with mgmt := { s.mgmt with linkKeys := kput s.mgmt.linkKeys n req } }) ∧
   (¬ open' → Answers (.ideKm n req) s s))
def Obligations.ResetRecoveryPowerAndAttestation : Prop := Claims.ResetAndRecovery ∧ Claims.PowerHeatAndAttestation

/-- R142, R411, R424, R438 to R442: a host's write and read of device memory and of the host's own space, and the registers of the windows. -/
def Obligations.HostAccesses : Prop :=
  ∀ (s : State) (port a n w off : Nat) (b : List Byte) (v : Word),
  (portUsable s port = false → Answers (.hostWrite port a b) s s ∧ Answers (.hostRead port a n) s s) ∧
  (portUsable s port = true → inRecovery s.mgmt = false → Quiet s →
    (a < 2 ^ 52 → Completes (.hostWrite port a b) s fun t => ∀ tier q, tier ≤ 1 → physByte t tier q =
      if tier = 0 ∧ a ≤ q ∧ q < a + b.length ∧ q / 65536 < hbmFrames s.mgmt.config then b.getD (q - a) 0 else physByte s tier q) ∧
    (2 ^ 52 ≤ a → a < 2 ^ 56 → Completes (.hostWrite port a b) s fun t => ∀ tier q, tier ≤ 1 → physByte t tier q =
      let m := q - port * 2 ^ 52
      if tier = 1 ∧ port * 2 ^ 52 ≤ q ∧ m < 2 ^ 52 ∧ a ≤ m + 2 ^ 52 ∧ m + 2 ^ 52 < a + b.length then b.getD (m + 2 ^ 52 - a) 0 else physByte s tier q) ∧
    (a < 2 ^ 52 → Completes (.hostRead port a n) s fun t => MemKept s t ∧ t.hostData =
      if ((List.range n).map (a + ·)).any (poisoned s) then [] else (List.range n).map fun i => if (a + i) / 65536 < hbmFrames s.mgmt.config then physByte s 0 (a + i) else 0) ∧
    (2 ^ 52 ≤ a → a < 2 ^ 56 → Answers (.hostRead port a n) s { s with hostData := physRead s 1 (a - 2 ^ 52 + port * 2 ^ 52) n })) ∧
  ((s.mgmt.hostUp = false ∨ 65 ≤ w) → Answers (.registerWrite w off v) s s) ∧
  (s.mgmt.hostUp = true → w < 64 → ((partAt s w).state = .absent ∨ off % 4 ≠ 0) → Answers (.registerWrite w off v) s s) ∧
  (s.mgmt.hostUp = true → w < 64 → (partAt s w).state ≠ .absent → off % 4 = 0 → off < 0x2000 → plainReg (off / 4) = true →
    Completes (.registerWrite w off v) s fun t => MemKept s t ∧ preg t w (off / 4) = v &&& winMask (off / 4) ∧
      (∀ r, r ≠ off / 4 → preg t w r = preg s w r) ∧ ∀ j, j ≠ w → kfind t.parts j = kfind s.parts j) ∧
  (s.mgmt.hostUp = true → inRecovery s.mgmt = false →
    (Completes (.registerWrite 64 4 v) s fun t => pfSel t = v.toNat % 64 ∧ t = { s with mgmt := { s.mgmt with pf := t.mgmt.pf } }) ∧
    (Completes (.registerWrite 64 0xC v) s fun t => t = { s with parts := t.parts } ∧ partAt t (pfSel s) = { partAt s (pfSel s) with key := v }) ∧
    (∀ i, i < 256 → i % 32 < pairsOn s.mgmt.config (i / 32) →
      let old := kget 0 s.mgmt.mcpair i
      let new := old / 2 ^ 32 * 2 ^ 32 + v.toNat
      (List.range 64).any (fun p => bitOf old p != bitOf new p && partBusy s p) = false → old ≠ new →
      Completes (.registerWrite 64 (0x1000 + 8 * i) v) s fun t => kget 0 t.mgmt.mcpair i = new ∧ ∀ j, j ≠ i → kfind t.mgmt.mcpair j = kfind s.mgmt.mcpair j))

/-! ## Statements of several claims -/

/-- R171, R175 to R178, R180, R99: the two-source arithmetic, on vector and on group-wide registers. -/
def Obligations.ThreeRegisterResults : Prop := Claims.VectorThreeRegisterResults ∧ Claims.GroupThreeRegisterResults
/-- R175, R177, R179, R181: mad, bfi, sel and the 64-bit sums, on vector and on group-wide registers. -/
def Obligations.PairAndSelectResults : Prop := Claims.VectorPairAndSelectResults ∧ Claims.GroupPairAndSelectResults
/-- R152, R184, R191: the unary and the 16-bit instructions. -/
def Obligations.UnaryAndSixteenBitResults : Prop := Claims.UnaryResults ∧ Claims.SixteenBitResults
/-- R54, R57 to R61, R63 to R66, R68: result intervals, provenances, what a branch learns from them, and errors in the words read. -/
def Obligations.ShadowsAndProvenances : Prop := Claims.ResultIntervals ∧ Claims.CompareProvenances ∧ Claims.BranchRefinements ∧ Claims.WordErrors
/-- R136, R145, R219: the checks of an access, and which of its lanes they leave over. -/
def Obligations.AccessTraps : Prop := Claims.AccessTraps ∧ Claims.LaneChecks
/-- R71 to R73, R396: where an element out of its record lies, and what a translation changes. -/
def Obligations.BoundsAndTranslation : Prop := Claims.BoundsModes ∧ Claims.TranslationMarksOnly
/-- R153, R157, R182: immediates, and the joined immediate of a LIT pair. -/
def Obligations.ImmediateAndLitResults : Prop := Claims.ImmediateResults ∧ Claims.LitJoinsTheImmediate
/-- R37, R183, R185: compares, predicate operations and predicate zero. -/
def Obligations.CompareAndPredicateResults : Prop := Claims.CompareResults ∧ Claims.PredicateResults ∧ Claims.GroupPredicateResults ∧ Claims.PredicateZero
/-- R192 to R194, R198: values moved between lanes. -/
def Obligations.CrossLaneMoves : Prop := Claims.CrossLanePicks ∧ Claims.QuadExchanges ∧ Claims.LaneMoves
/-- R192, R195 to R197: polls, likeness and reductions. -/
def Obligations.VotesAndReductions : Prop := Claims.PollsAndLikeness ∧ Claims.ReductionResults
/-- R16, R22, R200, R201: bra, call and brc. -/
def Obligations.JumpsCallsAndBranches : Prop := Claims.JumpAndCall ∧ Claims.ConditionalBranches
/-- R20, R203, R204: ret and calli, uniform and divergent. -/
def Obligations.ReturnsAndIndirectCalls : Prop := Claims.UniformReturnsAndCalls ∧ Claims.DivergentReturnsAndCalls
/-- R22, R41 to R43, R154, R205 to R208: exit, yield, nop32, brk and trap; fmt and exec. -/
def Obligations.EndsTrapsFormatAndExec : Prop := Claims.EndsAndSoftwareTraps ∧ Claims.FormatAndExec
/-- R27, R28, R209, R210, R214: barrier arrivals and the block registers. -/
def Obligations.BarriersAndBlockRegisters : Prop := Claims.BarrierArrivals ∧ Claims.BlockRegisterResults
/-- the rules of spill and reload: spills and reloads, issued and completed. -/
def Obligations.SpillsReloadsAndTheirEnd : Prop := Claims.SpillsAndReloads ∧ Claims.SpillCompletion
/-- R212, R213, R230 to R233: fences, cache operations and memory barriers. -/
def Obligations.FencesCachesAndMemoryBarriers : Prop := Claims.FencesAndCacheOperations ∧ Claims.MemoryBarriers ∧ Claims.PeerMemoryBarriers
/-- R39, R44, R161: the completion points of loads, atomics, stores and fences. -/
def Obligations.AccessesComplete : Prop := Claims.AccessCompletions ∧ Claims.StoreAndFenceCompletions
/-- the atomic rules: atomic operations. -/
def Obligations.Atomics : Prop := Claims.OneAtomicOperation ∧ Claims.AtomicsStart
/-- R236 to R241: records, shadows and the index check. -/
def Obligations.RecordsAndShadows : Prop := Claims.RecordInstructions ∧ Claims.ShadowInstructions ∧ Claims.IndexCheck
/-- R244, R245 and the tile rules: tile registers and their loads and stores. -/
def Obligations.TileRegisterOperations : Prop := Claims.TileInstructions ∧ Claims.TileLoadsAndStores
/-- the matrix rules: matrix instructions, alone and as a gang. -/
def Obligations.MatrixIssues : Prop := Claims.MatrixIssue ∧ Claims.GangArrivalAndJointIssue
/-- The counter instructions, on this device's and the host's memory and on a peer's. -/
def Obligations.CounterInstructions : Prop := Claims.LocalCounters ∧ Claims.PeerCounters
/-- the copy-engine rules: copies from issue to end, and the stages of a header. -/
def Obligations.CopiesAndStages : Prop := Claims.CopyIssue ∧ Claims.CopyEnds ∧ Claims.StageIssues
/-- R154, R158, R161, R341: clause headers, and traps that waited. -/
def Obligations.HeadersAndWaitingTraps : Prop := Claims.ClauseHeaders ∧ Claims.WaitingTraps

/-! ## Decoding, the step, reset and the whole machine -/

/-- R148 to R166: decode of encode is the instruction, for every well-formed instruction that has a word, with every operand at every value
the encoding admits. -/
def Obligations.DecodeOfEncode : Prop :=
  ∀ (i : Instr) (n w : Nat), i.wellFormed = true → encode i = some (n, w) → decodeTableWord n w = some i
/-- R148, R164: no bit is dropped. Encode of decode is the word, for every 16-bit and every 32-bit word. -/
def Obligations.EncodeOfDecode : Prop :=
  (∀ w < 2 ^ 32, w % 2 = 1 → ∃ i, decodeTableWord 32 w = some i ∧ encode i = some (32, w)) ∧
  (∀ w < 2 ^ 16, w % 2 = 0 → ∃ i, decodeTableWord 16 w = some i ∧ encode i = some (16, w))
/-- Words written out from the formats of R149 to R155 decode to the instructions they stand for. -/
def Obligations.DecodeWords : Prop :=
  decodeTableWord 32 0xC8080801 = some (.add 100 2 1 0) ∧ decodeTableWord 32 0x08080881 = some (.addG 4 2 1 0) ∧
  decodeTableWord 32 0x5015903B = some (.cmpi 40 5 6 2 0) ∧ decodeTableWord 32 0x12083825 = some (.bfeI 9 2 7 0) ∧
  decodeTableWord 32 0x3018206B = some (.cvtE4m3F32 6 4 0)
/-- The state invariant: every step that answers a next state keeps memory in its canonical form. -/
def Obligations.StepKeepsInv : Prop := ∀ s t : State, s.Inv → step s = .next t → t.Inv
/-- R443, R452: after module reset every partition is absent, and no block, group, queue, operation or request is left; memory has its
canonical form. (That memory lists nothing is the model's choice, log entries 2 and 18.) -/
def Obligations.ResetState : Prop :=
  State.reset.Inv ∧ (∀ p, (kget ({} : Partition) State.reset.parts p).state = .absent) ∧ State.reset.groups = [] ∧ State.reset.blocks = [] ∧
  State.reset.queues = [] ∧ State.reset.ops = [] ∧ State.reset.inbox = [] ∧ State.reset.migrations = [] ∧
  State.reset.mgmt.boot = .running ∧ (∀ r, preg State.reset 0 r = 0)
/-- A turn fetches and decodes at the fragment's program counter and executes what it decodes, with what was noted of its fragment as the
instruction's own clause and loop leave it; after it the fragment's ageing count starts again (R24, R26), a yield is remembered for one clock
(R206), and its quadrant has had its turn in this clock (R10, R27). An instruction that waits at issue leaves its fragment as it was, and a
quadrant that has had its turn issues nothing more. A turn that is an event executes the event. -/
def Obligations.StepRunsDecodedInstruction : Prop :=
  (∀ (s t u : State) (core slot e : Nat) (rest : List Turn) (bytes after : List Byte) (i : Instr),
    let k := 64 * core + slot
    let q := 4 * core + slot % 4
    let before := { s with turns := rest }
    s.turns = .issue core slot e :: rest →
    (quadrantOpen s q = false → step s = .next { before with stalled := true }) ∧
    (quadrantOpen s q = true →
      (prepare before k e = .inl u → step s = .next (if u.stalled then u else passQuadrant u q)) ∧
      (prepare before k e = .inr (bytes, t) → decodeBytes bytes = some (i, after) → t.cur = (k, e) ∧ t.stalled = false ∧ (∃ x, At (opening t k e) x) ∧
        (exec i (opening t k e) = .next u →
          (u.stalled = true → step s = .next (reclosed t u k e)) ∧
          (u.stalled = false → step s = .next (passQuadrant (noteYield i k e (issued k e (kget ({} : Group) t.groups k) u)) q)))))) ∧
  (∀ (s : State) (rest : List Turn) (i : Instr), s.turns = .event i :: rest → step s = exec i { s with turns := rest })
/-- No instruction is refused, in any state; and where a fragment stands, every instruction and every event answers a next state. -/
def Obligations.NothingIsRefused : Prop :=
  (∀ (i : Instr) (s : State) (r : Refusal), exec i s ≠ .refused r) ∧
  (∀ (i : Instr) (s : State) (x : Env), At s x → ∃ t, exec i s = .next t)
/-- R342: at supervisor level every trap ends the block: a software trap, a word that is no instruction, a brc on a vector predicate that would
split, and a calli or ret with more than one target. -/
def Claims.SupervisorFaults : Prop :=
  ∀ (s : State) (x : Env) (c a : BitVec 7) (g : BitVec 3) (w : BitVec 32) (d : BitVec 8) (o : BitVec 12), At s x → x.g.level = .supervisor →
  let ends : Instr → Prop := fun i => Completes i s fun t => BlockGone t x.g.block
  ends (.brk c) ∧ ends (.reservedEncoding w) ∧
  (PlainOk x true (vguard g) [] → x.f.exec &&& pmask x.g g.toNat ≠ 0 → ends (.trap c g) ∧
    (x.f.exec &&& pmask x.g g.toNat ≠ x.f.exec → ends (.brcV d o g))) ∧
  (∀ p q rest, Ready x [95] [] (targetLanes x) → targetSets x.f.exec (vreg x.g 95) = p :: q :: rest → ends .ret) ∧
  (∀ p q rest, srcOk x.g a = true → Ready x [vcode a.toNat] [95] (targetLanes x) → targetSets x.f.exec (vsrc x.g a.toNat) = p :: q :: rest → ends (.calli a))
/-- R162, R165, R342, R349: words that no row describes, and traps at supervisor level. -/
def Obligations.ReservedWordsAndSupervisorFaults : Prop := Claims.ReservedWordsTrap ∧ Claims.SupervisorFaults
end

