-- ==== Sys2Proof/Laws/Map.lean ====
section
/-!
SUPPORT. What the sparse maps and memory do: a lookup after an update, and the canonical form that every memory operation keeps.
-/
namespace Sys2Proof.Machine

/-! ## Lookups -/

/-- A key put is found, and no other lookup changes. -/
theorem kfind_kput {α : Type} (m : KMap α) (k j : Nat) (v : α) : kfind (kput m k v) j = if j = k then some v else kfind m j := by
  induction m with
  | nil => simp [kput, kfind]
  | cons p t ih =>
    obtain ⟨i, w⟩ := p
    simp only [kput]
    split
    · subst_vars; simp only [kfind]; split <;> simp_all
    · split
      · simp [kfind]
      · simp only [kfind, ih]
        by_cases a : j = i <;> by_cases b : j = k <;> first | omega | (simp [a, b]; try omega)
@[simp] theorem kfind_kput_self {α : Type} (m : KMap α) (k : Nat) (v : α) : kfind (kput m k v) k = some v := by simp [kfind_kput]
/-- The same of a map with a default. -/
theorem kget_kput {α : Type} (d : α) (m : KMap α) (k j : Nat) (v : α) : kget d (kput m k v) j = if j = k then v else kget d m j := by
  simp only [kget, kfind_kput]; split <;> rfl
@[simp] theorem kget_kput_self {α : Type} (d : α) (m : KMap α) (k : Nat) (v : α) : kget d (kput m k v) k = v := by simp [kget_kput]
/-- A key deleted is not found, and no other lookup changes. -/
theorem kfind_kdel {α : Type} (m : KMap α) (k j : Nat) : kfind (kdel m k) j = if j = k then none else kfind m j := by
  induction m with
  | nil => simp [kdel, kfind]
  | cons p t ih =>
    obtain ⟨i, w⟩ := p
    simp only [kdel]
    split
    · subst_vars; rw [ih]; simp only [kfind]; split <;> simp_all
    · simp only [kfind, ih]
      by_cases a : j = i <;> by_cases b : j = k <;> first | omega | (simp [a, b]; try omega)
/-- Changing every value changes every lookup alike. -/
theorem kfind_kmap {α : Type} (f : Nat → α → α) (m : KMap α) (k : Nat) : kfind (kmap f m) k = (kfind m k).map (f k) := by
  induction m with
  | nil => rfl
  | cons p t ih =>
    obtain ⟨i, w⟩ := p
    simp only [kmap, kfind]; split <;> simp_all
/-- Changing the value at one key. -/
theorem kfind_kmod {α : Type} (m : KMap α) (k j : Nat) (f : α → α) :
    kfind (kmod m k f) j = if j = k then (kfind m k).map f else kfind m j := by
  unfold kmod
  split
  · rename_i h; split <;> simp_all
  · rename_i v h; rw [kfind_kput]; simp [h]
/-- Putting a value for each index of a list, under a key of it. -/
theorem kfind_kputAll_map {α : Type} (key : Nat → Nat) (inj : ∀ a b, key a = key b → a = b) (val : Nat → α) (ls : List Nat) (m : KMap α) (l : Nat) :
    kfind (kputAll m (ls.map fun i => (key i, val i))) (key l) = if l ∈ ls then some (val l) else kfind m (key l) := by
  induction ls generalizing m with
  | nil => simp [kputAll]
  | cons a t ih =>
    simp only [List.map_cons, kputAll, ih, kfind_kput, List.mem_cons]
    by_cases h : l ∈ t
    · simp [h]
    · by_cases e : l = a
      · subst e; simp [h]
      · have : key l ≠ key a := fun q => e (inj _ _ q)
        simp [h, e, this]
/-- Keys outside the list are as before. -/
theorem kfind_kputAll_out {α : Type} (ps : List (Nat × α)) (m : KMap α) (k : Nat) (h : ∀ p ∈ ps, p.1 ≠ k) : kfind (kputAll m ps) k = kfind m k := by
  induction ps generalizing m with
  | nil => rfl
  | cons p t ih =>
    obtain ⟨j, v⟩ := p
    simp only [kputAll]
    rw [ih _ fun q hq => h q (List.mem_cons_of_mem _ hq), kfind_kput, if_neg]
    exact fun e => h (j, v) (List.mem_cons_self ..) e.symm

/-! ## Memory reads after writes -/

/-- The byte written is read there, and every other byte is as before. -/
theorem mget_mput (m : List Host.Cell) (a c : Nat) (b : Byte) : mget (mput m a b) c = if c = a then b else mget m c := by
  unfold mget mput
  split
  · rename_i h; subst h; simp only [kget, kfind_kdel]; split <;> rfl
  · rw [kget_kput]
/-- Bytes outside the cells written are as before. -/
theorem mget_mputAll_out (cs : List Host.Cell) (m : List Host.Cell) (a : Nat) (h : ∀ c ∈ cs, c.1 ≠ a) : mget (mputAll m cs) a = mget m a := by
  induction cs generalizing m with
  | nil => rfl
  | cons c t ih =>
    obtain ⟨j, v⟩ := c
    simp only [mputAll]
    rw [ih _ fun q hq => h q (List.mem_cons_of_mem _ hq), mget_mput, if_neg]
    exact fun e => h (j, v) (List.mem_cons_self ..) e.symm
/-- The same for bytes at consecutive addresses. -/
theorem mget_mwrites_out (bs : List Byte) (m : List Host.Cell) (a c : Nat) (h : c < a ∨ a + bs.length ≤ c) : mget (mwrites m a bs) c = mget m c := by
  induction bs generalizing m a with
  | nil => rfl
  | cons b t ih =>
    simp only [mwrites, List.length_cons] at h ⊢
    rw [ih _ _ (by omega), mget_mput, if_neg (by omega)]

/-! ## The canonical form -/

theorem rising_le {α : Type} {m : List (Nat × α)} {a b : Nat} (h : a ≤ b) (r : risingFrom b m = true) : risingFrom a m = true := by
  cases m with
  | nil => rfl
  | cons p t => simp only [risingFrom, Bool.and_eq_true, decide_eq_true_eq] at r ⊢; exact ⟨by omega, r.2⟩
theorem rising_kput {α : Type} (m : KMap α) (n k : Nat) (v : α) (h : n ≤ k) (r : risingFrom n m = true) : risingFrom n (kput m k v) = true := by
  induction m generalizing n with
  | nil => simp [kput, risingFrom, h]
  | cons p t ih =>
    obtain ⟨j, w⟩ := p
    simp only [risingFrom, Bool.and_eq_true, decide_eq_true_eq] at r
    simp only [kput]
    split
    · subst_vars; simp [risingFrom, h, r.2]
    · split
      · simp only [risingFrom, Bool.and_eq_true, decide_eq_true_eq]; exact ⟨h, by omega, r.2⟩
      · simp only [risingFrom, Bool.and_eq_true, decide_eq_true_eq]; exact ⟨r.1, ih _ (by omega) r.2⟩
theorem rising_kdel {α : Type} (m : KMap α) (n k : Nat) (r : risingFrom n m = true) : risingFrom n (kdel m k) = true := by
  induction m generalizing n with
  | nil => rfl
  | cons p t ih =>
    obtain ⟨j, w⟩ := p
    simp only [risingFrom, Bool.and_eq_true, decide_eq_true_eq] at r
    simp only [kdel]
    split
    · exact ih _ (rising_le (by omega) r.2)
    · simp only [risingFrom, Bool.and_eq_true, decide_eq_true_eq]; exact ⟨r.1, ih _ r.2⟩
theorem rising_filter {α : Type} (p : Nat × α → Bool) (m : List (Nat × α)) (n : Nat) (r : risingFrom n m = true) : risingFrom n (m.filter p) = true := by
  induction m generalizing n with
  | nil => rfl
  | cons q t ih =>
    obtain ⟨j, w⟩ := q
    simp only [risingFrom, Bool.and_eq_true, decide_eq_true_eq] at r
    simp only [List.filter_cons]
    split
    · simp only [risingFrom, Bool.and_eq_true, decide_eq_true_eq]; exact ⟨r.1, ih _ r.2⟩
    · exact ih _ (rising_le (by omega) r.2)
theorem nonzero_kput (m : List Host.Cell) (k : Nat) (v : Byte) (hv : v ≠ 0) (h : m.all (fun c => c.2 != 0) = true) :
    (kput m k v).all (fun c => c.2 != 0) = true := by
  induction m with
  | nil => simpa [kput] using hv
  | cons p t ih =>
    obtain ⟨j, w⟩ := p
    simp only [List.all_cons, Bool.and_eq_true] at h
    simp only [kput]
    split
    · simp only [List.all_cons, Bool.and_eq_true]; exact ⟨by simpa using hv, h.2⟩
    · split
      · simp only [List.all_cons, Bool.and_eq_true]; exact ⟨by simpa using hv, h.1, h.2⟩
      · simp only [List.all_cons, Bool.and_eq_true]; exact ⟨h.1, ih h.2⟩
theorem nonzero_kdel (m : List Host.Cell) (k : Nat) (h : m.all (fun c => c.2 != 0) = true) : (kdel m k).all (fun c => c.2 != 0) = true := by
  induction m with
  | nil => rfl
  | cons p t ih =>
    obtain ⟨j, w⟩ := p
    simp only [List.all_cons, Bool.and_eq_true] at h
    simp only [kdel]
    split
    · exact ih h.2
    · simp only [List.all_cons, Bool.and_eq_true]; exact ⟨h.1, ih h.2⟩

/-- Writing a byte keeps the canonical form. -/
theorem mput_wf {m : List Host.Cell} (h : Memory.wf m) (a : Nat) (b : Byte) : Memory.wf (mput m a b) := by
  unfold mput
  split
  · exact ⟨rising_kdel _ _ _ h.1, nonzero_kdel _ _ h.2⟩
  · rename_i hb; exact ⟨rising_kput _ _ _ _ (Nat.zero_le _) h.1, nonzero_kput _ _ _ hb h.2⟩
/-- So does writing cells, in order, -/
theorem mputAll_wf (cs : List Host.Cell) {m : List Host.Cell} (h : Memory.wf m) : Memory.wf (mputAll m cs) := by
  induction cs generalizing m with
  | nil => exact h
  | cons c t ih => exact ih (mput_wf h _ _)
/-- writing consecutive bytes, -/
theorem mwrites_wf (bs : List Byte) {m : List Host.Cell} (h : Memory.wf m) (a : Nat) : Memory.wf (mwrites m a bs) := by
  induction bs generalizing m a with
  | nil => exact h
  | cons b t ih => exact ih (mput_wf h _ _) _
/-- and clearing the bytes a test names. -/
theorem filter_wf (p : Host.Cell → Bool) {m : List Host.Cell} (h : Memory.wf m) : Memory.wf (m.filter p) :=
  ⟨rising_filter _ _ _ h.1, List.all_eq_true.mpr fun c hc => List.all_eq_true.mp h.2 c (List.mem_of_mem_filter hc)⟩
/-- Memory with nothing listed has the form. -/
theorem nil_wf : Memory.wf [] := ⟨rfl, rfl⟩

/-! ## Lanes -/

/-- The lanes of a mask are those below 32 whose bit is set. -/
theorem mem_lanesOf (m : Mask) (l : Nat) : l ∈ lanesOf m ↔ l < 32 ∧ inMask m l = true := by
  simp [lanesOf, lanes, List.mem_filter]
@[simp] theorem inMask_and (a b : Mask) (l : Nat) : inMask (a &&& b) l = (inMask a l && inMask b l) := by simp [inMask]
@[simp] theorem inMask_or (a b : Mask) (l : Nat) : inMask (a ||| b) l = (inMask a l || inMask b l) := by simp [inMask]
@[simp] theorem inMask_zero (l : Nat) : inMask 0 l = false := by simp [inMask]

end Sys2Proof.Machine
end

