-- ==== Sys2Proof/Laws/State.lean ====
section
/-!
SUPPORT. What each update of the state leaves: one lemma per field, by computation. No proof need unfold a record update.
-/
namespace Sys2Proof.Machine

/-! ## modPart -/

@[simp] theorem modPart_clock (s : State) (p : Nat) (f : Partition → Partition) : (modPart s p f).clock = s.clock := rfl
@[simp] theorem modPart_cursor (s : State) (p : Nat) (f : Partition → Partition) : (modPart s p f).cursor = s.cursor := rfl
@[simp] theorem modPart_turns (s : State) (p : Nat) (f : Partition → Partition) : (modPart s p f).turns = s.turns := rfl
@[simp] theorem modPart_yields (s : State) (p : Nat) (f : Partition → Partition) : (modPart s p f).yields = s.yields := rfl
@[simp] theorem modPart_cur (s : State) (p : Nat) (f : Partition → Partition) : (modPart s p f).cur = s.cur := rfl
@[simp] theorem modPart_stalled (s : State) (p : Nat) (f : Partition → Partition) : (modPart s p f).stalled = s.stalled := rfl
@[simp] theorem modPart_free (s : State) (p : Nat) (f : Partition → Partition) : (modPart s p f).free = s.free := rfl
@[simp] theorem modPart_fresh (s : State) (p : Nat) (f : Partition → Partition) : (modPart s p f).fresh = s.fresh := rfl
@[simp] theorem modPart_mem (s : State) (p : Nat) (f : Partition → Partition) : (modPart s p f).mem = s.mem := rfl
@[simp] theorem modPart_hostMem (s : State) (p : Nat) (f : Partition → Partition) : (modPart s p f).hostMem = s.hostMem := rfl
@[simp] theorem modPart_poison (s : State) (p : Nat) (f : Partition → Partition) : (modPart s p f).poison = s.poison := rfl
@[simp] theorem modPart_marks (s : State) (p : Nat) (f : Partition → Partition) : (modPart s p f).marks = s.marks := rfl
@[simp] theorem modPart_past (s : State) (p : Nat) (f : Partition → Partition) : (modPart s p f).past = s.past := rfl
@[simp] theorem modPart_dram (s : State) (p : Nat) (f : Partition → Partition) : (modPart s p f).dram = s.dram := rfl
@[simp] theorem modPart_corrections (s : State) (p : Nat) (f : Partition → Partition) : (modPart s p f).corrections = s.corrections := rfl
@[simp] theorem modPart_badBlocks (s : State) (p : Nat) (f : Partition → Partition) : (modPart s p f).badBlocks = s.badBlocks := rfl
@[simp] theorem modPart_hostErrors (s : State) (p : Nat) (f : Partition → Partition) : (modPart s p f).hostErrors = s.hostErrors := rfl
@[simp] theorem modPart_hostPoison (s : State) (p : Nat) (f : Partition → Partition) : (modPart s p f).hostPoison = s.hostPoison := rfl
@[simp] theorem modPart_groups (s : State) (p : Nat) (f : Partition → Partition) : (modPart s p f).groups = s.groups := rfl
@[simp] theorem modPart_blocks (s : State) (p : Nat) (f : Partition → Partition) : (modPart s p f).blocks = s.blocks := rfl
@[simp] theorem modPart_clusters (s : State) (p : Nat) (f : Partition → Partition) : (modPart s p f).clusters = s.clusters := rfl
@[simp] theorem modPart_launches (s : State) (p : Nat) (f : Partition → Partition) : (modPart s p f).launches = s.launches := rfl
@[simp] theorem modPart_saved (s : State) (p : Nat) (f : Partition → Partition) : (modPart s p f).saved = s.saved := rfl
@[simp] theorem modPart_cores (s : State) (p : Nat) (f : Partition → Partition) : (modPart s p f).cores = s.cores := rfl
@[simp] theorem modPart_dies (s : State) (p : Nat) (f : Partition → Partition) : (modPart s p f).dies = s.dies := rfl
@[simp] theorem modPart_slices (s : State) (p : Nat) (f : Partition → Partition) : (modPart s p f).slices = s.slices := rfl
@[simp] theorem modPart_banks (s : State) (p : Nat) (f : Partition → Partition) : (modPart s p f).banks = s.banks := rfl
@[simp] theorem modPart_queues (s : State) (p : Nat) (f : Partition → Partition) : (modPart s p f).queues = s.queues := rfl
@[simp] theorem modPart_lastQueue (s : State) (p : Nat) (f : Partition → Partition) : (modPart s p f).lastQueue = s.lastQueue := rfl
@[simp] theorem modPart_ops (s : State) (p : Nat) (f : Partition → Partition) : (modPart s p f).ops = s.ops := rfl
@[simp] theorem modPart_remotes (s : State) (p : Nat) (f : Partition → Partition) : (modPart s p f).remotes = s.remotes := rfl
@[simp] theorem modPart_ports (s : State) (p : Nat) (f : Partition → Partition) : (modPart s p f).ports = s.ports := rfl
@[simp] theorem modPart_inbox (s : State) (p : Nat) (f : Partition → Partition) : (modPart s p f).inbox = s.inbox := rfl
@[simp] theorem modPart_migrations (s : State) (p : Nat) (f : Partition → Partition) : (modPart s p f).migrations = s.migrations := rfl
@[simp] theorem modPart_signals (s : State) (p : Nat) (f : Partition → Partition) : (modPart s p f).signals = s.signals := rfl
@[simp] theorem modPart_hostData (s : State) (p : Nat) (f : Partition → Partition) : (modPart s p f).hostData = s.hostData := rfl
@[simp] theorem modPart_mgmt (s : State) (p : Nat) (f : Partition → Partition) : (modPart s p f).mgmt = s.mgmt := rfl
/-! ## setPreg -/

@[simp] theorem setPreg_clock (s : State) (p n : Nat) (v : Word) : (setPreg s p n v).clock = s.clock := rfl
@[simp] theorem setPreg_cursor (s : State) (p n : Nat) (v : Word) : (setPreg s p n v).cursor = s.cursor := rfl
@[simp] theorem setPreg_turns (s : State) (p n : Nat) (v : Word) : (setPreg s p n v).turns = s.turns := rfl
@[simp] theorem setPreg_yields (s : State) (p n : Nat) (v : Word) : (setPreg s p n v).yields = s.yields := rfl
@[simp] theorem setPreg_cur (s : State) (p n : Nat) (v : Word) : (setPreg s p n v).cur = s.cur := rfl
@[simp] theorem setPreg_stalled (s : State) (p n : Nat) (v : Word) : (setPreg s p n v).stalled = s.stalled := rfl
@[simp] theorem setPreg_free (s : State) (p n : Nat) (v : Word) : (setPreg s p n v).free = s.free := rfl
@[simp] theorem setPreg_fresh (s : State) (p n : Nat) (v : Word) : (setPreg s p n v).fresh = s.fresh := rfl
@[simp] theorem setPreg_mem (s : State) (p n : Nat) (v : Word) : (setPreg s p n v).mem = s.mem := rfl
@[simp] theorem setPreg_hostMem (s : State) (p n : Nat) (v : Word) : (setPreg s p n v).hostMem = s.hostMem := rfl
@[simp] theorem setPreg_poison (s : State) (p n : Nat) (v : Word) : (setPreg s p n v).poison = s.poison := rfl
@[simp] theorem setPreg_marks (s : State) (p n : Nat) (v : Word) : (setPreg s p n v).marks = s.marks := rfl
@[simp] theorem setPreg_past (s : State) (p n : Nat) (v : Word) : (setPreg s p n v).past = s.past := rfl
@[simp] theorem setPreg_dram (s : State) (p n : Nat) (v : Word) : (setPreg s p n v).dram = s.dram := rfl
@[simp] theorem setPreg_corrections (s : State) (p n : Nat) (v : Word) : (setPreg s p n v).corrections = s.corrections := rfl
@[simp] theorem setPreg_badBlocks (s : State) (p n : Nat) (v : Word) : (setPreg s p n v).badBlocks = s.badBlocks := rfl
@[simp] theorem setPreg_hostErrors (s : State) (p n : Nat) (v : Word) : (setPreg s p n v).hostErrors = s.hostErrors := rfl
@[simp] theorem setPreg_hostPoison (s : State) (p n : Nat) (v : Word) : (setPreg s p n v).hostPoison = s.hostPoison := rfl
@[simp] theorem setPreg_groups (s : State) (p n : Nat) (v : Word) : (setPreg s p n v).groups = s.groups := rfl
@[simp] theorem setPreg_blocks (s : State) (p n : Nat) (v : Word) : (setPreg s p n v).blocks = s.blocks := rfl
@[simp] theorem setPreg_clusters (s : State) (p n : Nat) (v : Word) : (setPreg s p n v).clusters = s.clusters := rfl
@[simp] theorem setPreg_launches (s : State) (p n : Nat) (v : Word) : (setPreg s p n v).launches = s.launches := rfl
@[simp] theorem setPreg_saved (s : State) (p n : Nat) (v : Word) : (setPreg s p n v).saved = s.saved := rfl
@[simp] theorem setPreg_cores (s : State) (p n : Nat) (v : Word) : (setPreg s p n v).cores = s.cores := rfl
@[simp] theorem setPreg_dies (s : State) (p n : Nat) (v : Word) : (setPreg s p n v).dies = s.dies := rfl
@[simp] theorem setPreg_slices (s : State) (p n : Nat) (v : Word) : (setPreg s p n v).slices = s.slices := rfl
@[simp] theorem setPreg_banks (s : State) (p n : Nat) (v : Word) : (setPreg s p n v).banks = s.banks := rfl
@[simp] theorem setPreg_queues (s : State) (p n : Nat) (v : Word) : (setPreg s p n v).queues = s.queues := rfl
@[simp] theorem setPreg_lastQueue (s : State) (p n : Nat) (v : Word) : (setPreg s p n v).lastQueue = s.lastQueue := rfl
@[simp] theorem setPreg_ops (s : State) (p n : Nat) (v : Word) : (setPreg s p n v).ops = s.ops := rfl
@[simp] theorem setPreg_remotes (s : State) (p n : Nat) (v : Word) : (setPreg s p n v).remotes = s.remotes := rfl
@[simp] theorem setPreg_ports (s : State) (p n : Nat) (v : Word) : (setPreg s p n v).ports = s.ports := rfl
@[simp] theorem setPreg_inbox (s : State) (p n : Nat) (v : Word) : (setPreg s p n v).inbox = s.inbox := rfl
@[simp] theorem setPreg_migrations (s : State) (p n : Nat) (v : Word) : (setPreg s p n v).migrations = s.migrations := rfl
@[simp] theorem setPreg_signals (s : State) (p n : Nat) (v : Word) : (setPreg s p n v).signals = s.signals := rfl
@[simp] theorem setPreg_hostData (s : State) (p n : Nat) (v : Word) : (setPreg s p n v).hostData = s.hostData := rfl
@[simp] theorem setPreg_mgmt (s : State) (p n : Nat) (v : Word) : (setPreg s p n v).mgmt = s.mgmt := rfl
/-! ## setFault -/

@[simp] theorem setFault_clock (s : State) (p n : Nat) : (setFault s p n).clock = s.clock := rfl
@[simp] theorem setFault_cursor (s : State) (p n : Nat) : (setFault s p n).cursor = s.cursor := rfl
@[simp] theorem setFault_turns (s : State) (p n : Nat) : (setFault s p n).turns = s.turns := rfl
@[simp] theorem setFault_yields (s : State) (p n : Nat) : (setFault s p n).yields = s.yields := rfl
@[simp] theorem setFault_cur (s : State) (p n : Nat) : (setFault s p n).cur = s.cur := rfl
@[simp] theorem setFault_stalled (s : State) (p n : Nat) : (setFault s p n).stalled = s.stalled := rfl
@[simp] theorem setFault_free (s : State) (p n : Nat) : (setFault s p n).free = s.free := rfl
@[simp] theorem setFault_fresh (s : State) (p n : Nat) : (setFault s p n).fresh = s.fresh := rfl
@[simp] theorem setFault_mem (s : State) (p n : Nat) : (setFault s p n).mem = s.mem := rfl
@[simp] theorem setFault_hostMem (s : State) (p n : Nat) : (setFault s p n).hostMem = s.hostMem := rfl
@[simp] theorem setFault_poison (s : State) (p n : Nat) : (setFault s p n).poison = s.poison := rfl
@[simp] theorem setFault_marks (s : State) (p n : Nat) : (setFault s p n).marks = s.marks := rfl
@[simp] theorem setFault_past (s : State) (p n : Nat) : (setFault s p n).past = s.past := rfl
@[simp] theorem setFault_dram (s : State) (p n : Nat) : (setFault s p n).dram = s.dram := rfl
@[simp] theorem setFault_corrections (s : State) (p n : Nat) : (setFault s p n).corrections = s.corrections := rfl
@[simp] theorem setFault_badBlocks (s : State) (p n : Nat) : (setFault s p n).badBlocks = s.badBlocks := rfl
@[simp] theorem setFault_hostErrors (s : State) (p n : Nat) : (setFault s p n).hostErrors = s.hostErrors := rfl
@[simp] theorem setFault_hostPoison (s : State) (p n : Nat) : (setFault s p n).hostPoison = s.hostPoison := rfl
@[simp] theorem setFault_groups (s : State) (p n : Nat) : (setFault s p n).groups = s.groups := rfl
@[simp] theorem setFault_blocks (s : State) (p n : Nat) : (setFault s p n).blocks = s.blocks := rfl
@[simp] theorem setFault_clusters (s : State) (p n : Nat) : (setFault s p n).clusters = s.clusters := rfl
@[simp] theorem setFault_launches (s : State) (p n : Nat) : (setFault s p n).launches = s.launches := rfl
@[simp] theorem setFault_saved (s : State) (p n : Nat) : (setFault s p n).saved = s.saved := rfl
@[simp] theorem setFault_cores (s : State) (p n : Nat) : (setFault s p n).cores = s.cores := rfl
@[simp] theorem setFault_dies (s : State) (p n : Nat) : (setFault s p n).dies = s.dies := rfl
@[simp] theorem setFault_slices (s : State) (p n : Nat) : (setFault s p n).slices = s.slices := rfl
@[simp] theorem setFault_banks (s : State) (p n : Nat) : (setFault s p n).banks = s.banks := rfl
@[simp] theorem setFault_queues (s : State) (p n : Nat) : (setFault s p n).queues = s.queues := rfl
@[simp] theorem setFault_lastQueue (s : State) (p n : Nat) : (setFault s p n).lastQueue = s.lastQueue := rfl
@[simp] theorem setFault_ops (s : State) (p n : Nat) : (setFault s p n).ops = s.ops := rfl
@[simp] theorem setFault_remotes (s : State) (p n : Nat) : (setFault s p n).remotes = s.remotes := rfl
@[simp] theorem setFault_ports (s : State) (p n : Nat) : (setFault s p n).ports = s.ports := rfl
@[simp] theorem setFault_inbox (s : State) (p n : Nat) : (setFault s p n).inbox = s.inbox := rfl
@[simp] theorem setFault_migrations (s : State) (p n : Nat) : (setFault s p n).migrations = s.migrations := rfl
@[simp] theorem setFault_signals (s : State) (p n : Nat) : (setFault s p n).signals = s.signals := rfl
@[simp] theorem setFault_hostData (s : State) (p n : Nat) : (setFault s p n).hostData = s.hostData := rfl
@[simp] theorem setFault_mgmt (s : State) (p n : Nat) : (setFault s p n).mgmt = s.mgmt := rfl
/-! ## modCore -/

@[simp] theorem modCore_clock (s : State) (c : Nat) (f : Core → Core) : (modCore s c f).clock = s.clock := rfl
@[simp] theorem modCore_cursor (s : State) (c : Nat) (f : Core → Core) : (modCore s c f).cursor = s.cursor := rfl
@[simp] theorem modCore_turns (s : State) (c : Nat) (f : Core → Core) : (modCore s c f).turns = s.turns := rfl
@[simp] theorem modCore_yields (s : State) (c : Nat) (f : Core → Core) : (modCore s c f).yields = s.yields := rfl
@[simp] theorem modCore_cur (s : State) (c : Nat) (f : Core → Core) : (modCore s c f).cur = s.cur := rfl
@[simp] theorem modCore_stalled (s : State) (c : Nat) (f : Core → Core) : (modCore s c f).stalled = s.stalled := rfl
@[simp] theorem modCore_free (s : State) (c : Nat) (f : Core → Core) : (modCore s c f).free = s.free := rfl
@[simp] theorem modCore_fresh (s : State) (c : Nat) (f : Core → Core) : (modCore s c f).fresh = s.fresh := rfl
@[simp] theorem modCore_mem (s : State) (c : Nat) (f : Core → Core) : (modCore s c f).mem = s.mem := rfl
@[simp] theorem modCore_hostMem (s : State) (c : Nat) (f : Core → Core) : (modCore s c f).hostMem = s.hostMem := rfl
@[simp] theorem modCore_poison (s : State) (c : Nat) (f : Core → Core) : (modCore s c f).poison = s.poison := rfl
@[simp] theorem modCore_marks (s : State) (c : Nat) (f : Core → Core) : (modCore s c f).marks = s.marks := rfl
@[simp] theorem modCore_past (s : State) (c : Nat) (f : Core → Core) : (modCore s c f).past = s.past := rfl
@[simp] theorem modCore_dram (s : State) (c : Nat) (f : Core → Core) : (modCore s c f).dram = s.dram := rfl
@[simp] theorem modCore_corrections (s : State) (c : Nat) (f : Core → Core) : (modCore s c f).corrections = s.corrections := rfl
@[simp] theorem modCore_badBlocks (s : State) (c : Nat) (f : Core → Core) : (modCore s c f).badBlocks = s.badBlocks := rfl
@[simp] theorem modCore_hostErrors (s : State) (c : Nat) (f : Core → Core) : (modCore s c f).hostErrors = s.hostErrors := rfl
@[simp] theorem modCore_hostPoison (s : State) (c : Nat) (f : Core → Core) : (modCore s c f).hostPoison = s.hostPoison := rfl
@[simp] theorem modCore_groups (s : State) (c : Nat) (f : Core → Core) : (modCore s c f).groups = s.groups := rfl
@[simp] theorem modCore_blocks (s : State) (c : Nat) (f : Core → Core) : (modCore s c f).blocks = s.blocks := rfl
@[simp] theorem modCore_clusters (s : State) (c : Nat) (f : Core → Core) : (modCore s c f).clusters = s.clusters := rfl
@[simp] theorem modCore_launches (s : State) (c : Nat) (f : Core → Core) : (modCore s c f).launches = s.launches := rfl
@[simp] theorem modCore_saved (s : State) (c : Nat) (f : Core → Core) : (modCore s c f).saved = s.saved := rfl
@[simp] theorem modCore_dies (s : State) (c : Nat) (f : Core → Core) : (modCore s c f).dies = s.dies := rfl
@[simp] theorem modCore_slices (s : State) (c : Nat) (f : Core → Core) : (modCore s c f).slices = s.slices := rfl
@[simp] theorem modCore_banks (s : State) (c : Nat) (f : Core → Core) : (modCore s c f).banks = s.banks := rfl
@[simp] theorem modCore_parts (s : State) (c : Nat) (f : Core → Core) : (modCore s c f).parts = s.parts := rfl
@[simp] theorem modCore_queues (s : State) (c : Nat) (f : Core → Core) : (modCore s c f).queues = s.queues := rfl
@[simp] theorem modCore_lastQueue (s : State) (c : Nat) (f : Core → Core) : (modCore s c f).lastQueue = s.lastQueue := rfl
@[simp] theorem modCore_ops (s : State) (c : Nat) (f : Core → Core) : (modCore s c f).ops = s.ops := rfl
@[simp] theorem modCore_remotes (s : State) (c : Nat) (f : Core → Core) : (modCore s c f).remotes = s.remotes := rfl
@[simp] theorem modCore_ports (s : State) (c : Nat) (f : Core → Core) : (modCore s c f).ports = s.ports := rfl
@[simp] theorem modCore_inbox (s : State) (c : Nat) (f : Core → Core) : (modCore s c f).inbox = s.inbox := rfl
@[simp] theorem modCore_migrations (s : State) (c : Nat) (f : Core → Core) : (modCore s c f).migrations = s.migrations := rfl
@[simp] theorem modCore_signals (s : State) (c : Nat) (f : Core → Core) : (modCore s c f).signals = s.signals := rfl
@[simp] theorem modCore_hostData (s : State) (c : Nat) (f : Core → Core) : (modCore s c f).hostData = s.hostData := rfl
@[simp] theorem modCore_mgmt (s : State) (c : Nat) (f : Core → Core) : (modCore s c f).mgmt = s.mgmt := rfl
/-! ## modDie -/

@[simp] theorem modDie_clock (s : State) (d : Nat) (f : Die → Die) : (modDie s d f).clock = s.clock := rfl
@[simp] theorem modDie_cursor (s : State) (d : Nat) (f : Die → Die) : (modDie s d f).cursor = s.cursor := rfl
@[simp] theorem modDie_turns (s : State) (d : Nat) (f : Die → Die) : (modDie s d f).turns = s.turns := rfl
@[simp] theorem modDie_yields (s : State) (d : Nat) (f : Die → Die) : (modDie s d f).yields = s.yields := rfl
@[simp] theorem modDie_cur (s : State) (d : Nat) (f : Die → Die) : (modDie s d f).cur = s.cur := rfl
@[simp] theorem modDie_stalled (s : State) (d : Nat) (f : Die → Die) : (modDie s d f).stalled = s.stalled := rfl
@[simp] theorem modDie_free (s : State) (d : Nat) (f : Die → Die) : (modDie s d f).free = s.free := rfl
@[simp] theorem modDie_fresh (s : State) (d : Nat) (f : Die → Die) : (modDie s d f).fresh = s.fresh := rfl
@[simp] theorem modDie_mem (s : State) (d : Nat) (f : Die → Die) : (modDie s d f).mem = s.mem := rfl
@[simp] theorem modDie_hostMem (s : State) (d : Nat) (f : Die → Die) : (modDie s d f).hostMem = s.hostMem := rfl
@[simp] theorem modDie_poison (s : State) (d : Nat) (f : Die → Die) : (modDie s d f).poison = s.poison := rfl
@[simp] theorem modDie_marks (s : State) (d : Nat) (f : Die → Die) : (modDie s d f).marks = s.marks := rfl
@[simp] theorem modDie_past (s : State) (d : Nat) (f : Die → Die) : (modDie s d f).past = s.past := rfl
@[simp] theorem modDie_dram (s : State) (d : Nat) (f : Die → Die) : (modDie s d f).dram = s.dram := rfl
@[simp] theorem modDie_corrections (s : State) (d : Nat) (f : Die → Die) : (modDie s d f).corrections = s.corrections := rfl
@[simp] theorem modDie_badBlocks (s : State) (d : Nat) (f : Die → Die) : (modDie s d f).badBlocks = s.badBlocks := rfl
@[simp] theorem modDie_hostErrors (s : State) (d : Nat) (f : Die → Die) : (modDie s d f).hostErrors = s.hostErrors := rfl
@[simp] theorem modDie_hostPoison (s : State) (d : Nat) (f : Die → Die) : (modDie s d f).hostPoison = s.hostPoison := rfl
@[simp] theorem modDie_groups (s : State) (d : Nat) (f : Die → Die) : (modDie s d f).groups = s.groups := rfl
@[simp] theorem modDie_blocks (s : State) (d : Nat) (f : Die → Die) : (modDie s d f).blocks = s.blocks := rfl
@[simp] theorem modDie_clusters (s : State) (d : Nat) (f : Die → Die) : (modDie s d f).clusters = s.clusters := rfl
@[simp] theorem modDie_launches (s : State) (d : Nat) (f : Die → Die) : (modDie s d f).launches = s.launches := rfl
@[simp] theorem modDie_saved (s : State) (d : Nat) (f : Die → Die) : (modDie s d f).saved = s.saved := rfl
@[simp] theorem modDie_cores (s : State) (d : Nat) (f : Die → Die) : (modDie s d f).cores = s.cores := rfl
@[simp] theorem modDie_slices (s : State) (d : Nat) (f : Die → Die) : (modDie s d f).slices = s.slices := rfl
@[simp] theorem modDie_banks (s : State) (d : Nat) (f : Die → Die) : (modDie s d f).banks = s.banks := rfl
@[simp] theorem modDie_parts (s : State) (d : Nat) (f : Die → Die) : (modDie s d f).parts = s.parts := rfl
@[simp] theorem modDie_queues (s : State) (d : Nat) (f : Die → Die) : (modDie s d f).queues = s.queues := rfl
@[simp] theorem modDie_lastQueue (s : State) (d : Nat) (f : Die → Die) : (modDie s d f).lastQueue = s.lastQueue := rfl
@[simp] theorem modDie_ops (s : State) (d : Nat) (f : Die → Die) : (modDie s d f).ops = s.ops := rfl
@[simp] theorem modDie_remotes (s : State) (d : Nat) (f : Die → Die) : (modDie s d f).remotes = s.remotes := rfl
@[simp] theorem modDie_ports (s : State) (d : Nat) (f : Die → Die) : (modDie s d f).ports = s.ports := rfl
@[simp] theorem modDie_inbox (s : State) (d : Nat) (f : Die → Die) : (modDie s d f).inbox = s.inbox := rfl
@[simp] theorem modDie_migrations (s : State) (d : Nat) (f : Die → Die) : (modDie s d f).migrations = s.migrations := rfl
@[simp] theorem modDie_signals (s : State) (d : Nat) (f : Die → Die) : (modDie s d f).signals = s.signals := rfl
@[simp] theorem modDie_hostData (s : State) (d : Nat) (f : Die → Die) : (modDie s d f).hostData = s.hostData := rfl
@[simp] theorem modDie_mgmt (s : State) (d : Nat) (f : Die → Die) : (modDie s d f).mgmt = s.mgmt := rfl
/-! ## modSlice -/

@[simp] theorem modSlice_clock (s : State) (n : Nat) (f : Slice → Slice) : (modSlice s n f).clock = s.clock := rfl
@[simp] theorem modSlice_cursor (s : State) (n : Nat) (f : Slice → Slice) : (modSlice s n f).cursor = s.cursor := rfl
@[simp] theorem modSlice_turns (s : State) (n : Nat) (f : Slice → Slice) : (modSlice s n f).turns = s.turns := rfl
@[simp] theorem modSlice_yields (s : State) (n : Nat) (f : Slice → Slice) : (modSlice s n f).yields = s.yields := rfl
@[simp] theorem modSlice_cur (s : State) (n : Nat) (f : Slice → Slice) : (modSlice s n f).cur = s.cur := rfl
@[simp] theorem modSlice_stalled (s : State) (n : Nat) (f : Slice → Slice) : (modSlice s n f).stalled = s.stalled := rfl
@[simp] theorem modSlice_free (s : State) (n : Nat) (f : Slice → Slice) : (modSlice s n f).free = s.free := rfl
@[simp] theorem modSlice_fresh (s : State) (n : Nat) (f : Slice → Slice) : (modSlice s n f).fresh = s.fresh := rfl
@[simp] theorem modSlice_mem (s : State) (n : Nat) (f : Slice → Slice) : (modSlice s n f).mem = s.mem := rfl
@[simp] theorem modSlice_hostMem (s : State) (n : Nat) (f : Slice → Slice) : (modSlice s n f).hostMem = s.hostMem := rfl
@[simp] theorem modSlice_poison (s : State) (n : Nat) (f : Slice → Slice) : (modSlice s n f).poison = s.poison := rfl
@[simp] theorem modSlice_marks (s : State) (n : Nat) (f : Slice → Slice) : (modSlice s n f).marks = s.marks := rfl
@[simp] theorem modSlice_past (s : State) (n : Nat) (f : Slice → Slice) : (modSlice s n f).past = s.past := rfl
@[simp] theorem modSlice_dram (s : State) (n : Nat) (f : Slice → Slice) : (modSlice s n f).dram = s.dram := rfl
@[simp] theorem modSlice_corrections (s : State) (n : Nat) (f : Slice → Slice) : (modSlice s n f).corrections = s.corrections := rfl
@[simp] theorem modSlice_badBlocks (s : State) (n : Nat) (f : Slice → Slice) : (modSlice s n f).badBlocks = s.badBlocks := rfl
@[simp] theorem modSlice_hostErrors (s : State) (n : Nat) (f : Slice → Slice) : (modSlice s n f).hostErrors = s.hostErrors := rfl
@[simp] theorem modSlice_hostPoison (s : State) (n : Nat) (f : Slice → Slice) : (modSlice s n f).hostPoison = s.hostPoison := rfl
@[simp] theorem modSlice_groups (s : State) (n : Nat) (f : Slice → Slice) : (modSlice s n f).groups = s.groups := rfl
@[simp] theorem modSlice_blocks (s : State) (n : Nat) (f : Slice → Slice) : (modSlice s n f).blocks = s.blocks := rfl
@[simp] theorem modSlice_clusters (s : State) (n : Nat) (f : Slice → Slice) : (modSlice s n f).clusters = s.clusters := rfl
@[simp] theorem modSlice_launches (s : State) (n : Nat) (f : Slice → Slice) : (modSlice s n f).launches = s.launches := rfl
@[simp] theorem modSlice_saved (s : State) (n : Nat) (f : Slice → Slice) : (modSlice s n f).saved = s.saved := rfl
@[simp] theorem modSlice_cores (s : State) (n : Nat) (f : Slice → Slice) : (modSlice s n f).cores = s.cores := rfl
@[simp] theorem modSlice_dies (s : State) (n : Nat) (f : Slice → Slice) : (modSlice s n f).dies = s.dies := rfl
@[simp] theorem modSlice_banks (s : State) (n : Nat) (f : Slice → Slice) : (modSlice s n f).banks = s.banks := rfl
@[simp] theorem modSlice_parts (s : State) (n : Nat) (f : Slice → Slice) : (modSlice s n f).parts = s.parts := rfl
@[simp] theorem modSlice_queues (s : State) (n : Nat) (f : Slice → Slice) : (modSlice s n f).queues = s.queues := rfl
@[simp] theorem modSlice_lastQueue (s : State) (n : Nat) (f : Slice → Slice) : (modSlice s n f).lastQueue = s.lastQueue := rfl
@[simp] theorem modSlice_ops (s : State) (n : Nat) (f : Slice → Slice) : (modSlice s n f).ops = s.ops := rfl
@[simp] theorem modSlice_remotes (s : State) (n : Nat) (f : Slice → Slice) : (modSlice s n f).remotes = s.remotes := rfl
@[simp] theorem modSlice_ports (s : State) (n : Nat) (f : Slice → Slice) : (modSlice s n f).ports = s.ports := rfl
@[simp] theorem modSlice_inbox (s : State) (n : Nat) (f : Slice → Slice) : (modSlice s n f).inbox = s.inbox := rfl
@[simp] theorem modSlice_migrations (s : State) (n : Nat) (f : Slice → Slice) : (modSlice s n f).migrations = s.migrations := rfl
@[simp] theorem modSlice_signals (s : State) (n : Nat) (f : Slice → Slice) : (modSlice s n f).signals = s.signals := rfl
@[simp] theorem modSlice_hostData (s : State) (n : Nat) (f : Slice → Slice) : (modSlice s n f).hostData = s.hostData := rfl
@[simp] theorem modSlice_mgmt (s : State) (n : Nat) (f : Slice → Slice) : (modSlice s n f).mgmt = s.mgmt := rfl
/-! ## commit -/

@[simp] theorem commit_clock (x : Env) : (x.commit).clock = x.s.clock := rfl
@[simp] theorem commit_cursor (x : Env) : (x.commit).cursor = x.s.cursor := rfl
@[simp] theorem commit_turns (x : Env) : (x.commit).turns = x.s.turns := rfl
@[simp] theorem commit_yields (x : Env) : (x.commit).yields = x.s.yields := rfl
@[simp] theorem commit_cur (x : Env) : (x.commit).cur = x.s.cur := rfl
@[simp] theorem commit_stalled (x : Env) : (x.commit).stalled = x.s.stalled := rfl
@[simp] theorem commit_free (x : Env) : (x.commit).free = x.s.free := rfl
@[simp] theorem commit_fresh (x : Env) : (x.commit).fresh = x.s.fresh := rfl
@[simp] theorem commit_mem (x : Env) : (x.commit).mem = x.s.mem := rfl
@[simp] theorem commit_hostMem (x : Env) : (x.commit).hostMem = x.s.hostMem := rfl
@[simp] theorem commit_poison (x : Env) : (x.commit).poison = x.s.poison := rfl
@[simp] theorem commit_marks (x : Env) : (x.commit).marks = x.s.marks := rfl
@[simp] theorem commit_badBlocks (x : Env) : (x.commit).badBlocks = x.s.badBlocks := rfl
@[simp] theorem commit_hostErrors (x : Env) : (x.commit).hostErrors = x.s.hostErrors := rfl
@[simp] theorem commit_hostPoison (x : Env) : (x.commit).hostPoison = x.s.hostPoison := rfl
@[simp] theorem commit_clusters (x : Env) : (x.commit).clusters = x.s.clusters := rfl
@[simp] theorem commit_launches (x : Env) : (x.commit).launches = x.s.launches := rfl
@[simp] theorem commit_saved (x : Env) : (x.commit).saved = x.s.saved := rfl
@[simp] theorem commit_cores (x : Env) : (x.commit).cores = x.s.cores := rfl
@[simp] theorem commit_dies (x : Env) : (x.commit).dies = x.s.dies := rfl
@[simp] theorem commit_slices (x : Env) : (x.commit).slices = x.s.slices := rfl
@[simp] theorem commit_banks (x : Env) : (x.commit).banks = x.s.banks := rfl
@[simp] theorem commit_parts (x : Env) : (x.commit).parts = x.s.parts := rfl
@[simp] theorem commit_queues (x : Env) : (x.commit).queues = x.s.queues := rfl
@[simp] theorem commit_lastQueue (x : Env) : (x.commit).lastQueue = x.s.lastQueue := rfl
@[simp] theorem commit_ops (x : Env) : (x.commit).ops = x.s.ops := rfl
@[simp] theorem commit_remotes (x : Env) : (x.commit).remotes = x.s.remotes := rfl
@[simp] theorem commit_ports (x : Env) : (x.commit).ports = x.s.ports := rfl
@[simp] theorem commit_inbox (x : Env) : (x.commit).inbox = x.s.inbox := rfl
@[simp] theorem commit_migrations (x : Env) : (x.commit).migrations = x.s.migrations := rfl
@[simp] theorem commit_signals (x : Env) : (x.commit).signals = x.s.signals := rfl
@[simp] theorem commit_hostData (x : Env) : (x.commit).hostData = x.s.hostData := rfl
@[simp] theorem commit_mgmt (x : Env) : (x.commit).mgmt = x.s.mgmt := rfl

/-! ## What the updates write -/

@[simp] theorem modPart_parts (s : State) (p : Nat) (f : Partition → Partition) : (modPart s p f).parts = kput s.parts p (f (kget {} s.parts p)) := rfl
@[simp] theorem modCore_cores (s : State) (c : Nat) (f : Core → Core) : (modCore s c f).cores = kput s.cores c (f (kget {} s.cores c)) := rfl
@[simp] theorem modDie_dies (s : State) (d : Nat) (f : Die → Die) : (modDie s d f).dies = kput s.dies d (f (kget {} s.dies d)) := rfl
@[simp] theorem modSlice_slices (s : State) (n : Nat) (f : Slice → Slice) : (modSlice s n f).slices = kput s.slices n (f (kget {} s.slices n)) := rfl
@[simp] theorem commit_groups (x : Env) : x.commit.groups = kput x.s.groups x.k { x.g with table := kput x.g.table x.e x.f } := rfl
@[simp] theorem commit_blocks (x : Env) : x.commit.blocks = kput x.s.blocks x.g.block x.b := rfl

/-! ## The executing fragment -/

@[simp] theorem skip_s (x : Env) (n : Nat) : (x.skip n).s = x.s := rfl
@[simp] theorem skip_k (x : Env) (n : Nat) : (x.skip n).k = x.k := rfl
@[simp] theorem skip_e (x : Env) (n : Nat) : (x.skip n).e = x.e := rfl
@[simp] theorem skip_g (x : Env) (n : Nat) : (x.skip n).g = x.g := rfl
@[simp] theorem skip_b (x : Env) (n : Nat) : (x.skip n).b = x.b := rfl
@[simp] theorem skip_f (x : Env) (n : Nat) : (x.skip n).f = { x.f with pc := x.f.pc + word n } := rfl
/-- What is put back is found again. -/
theorem envAt_commit (x : Env) : envAt x.commit x.k x.e = some { x with s := x.commit, g := { x.g with table := kput x.g.table x.e x.f } } := by
  simp only [envAt, commit_groups, kfind_kput_self, commit_blocks, kget, Option.getD_some]
/-- A fragment taken apart stands in its group and block. -/
theorem envAt_some {s : State} {k e : Nat} {x : Env} (h : envAt s k e = some x) :
    x.s = s ∧ x.k = k ∧ x.e = e ∧ kfind s.groups k = some x.g ∧ kfind x.g.table e = some x.f ∧ x.b = kget {} s.blocks x.g.block := by
  unfold envAt at h
  split at h
  · simp at h
  · rename_i g hg
    split at h
    · simp at h
    · rename_i f hf; simp only [Option.some.injEq] at h; subst h; exact ⟨rfl, rfl, rfl, hg, hf, rfl⟩
/-- A meaning of the current fragment answers its next state. -/
theorem withFrag_at {s : State} {x : Env} (h : At s x) (m : Env → State) : withFrag s m = .next (m x) := by
  unfold withFrag; rw [show envAt s s.cur.1 s.cur.2 = some x from h]

end Sys2Proof.Machine
end

