-- ==== Sys2Proof/Laws/Memory.lean ====
section
/-!
SUPPORT. What the operations that write memory keep and leave: each keeps the canonical form of the two memories, and a byte no
write names reads as before. The proofs over a step cite these instead of unfolding a write.
-/
namespace Sys2Proof.Machine

/-! ## The canonical form is kept -/

/-- Equal memories have equal forms: an update that leaves both memories alone keeps the invariant. -/
theorem inv_of_eq {s t : State} (hm : t.mem = s.mem) (hh : t.hostMem = s.hostMem) (h : State.Inv s) : State.Inv t := by
  unfold State.Inv at *; rw [hm, hh]; exact h
theorem rawWrite_inv (tier : Nat) (cells : List Host.Cell) {s : State} (h : State.Inv s) : State.Inv (rawWrite s tier cells) := by
  unfold rawWrite; split
  · exact ⟨mputAll_wf _ h.1, h.2⟩
  · exact ⟨h.1, mputAll_wf _ h.2⟩
theorem mark_inv (a : Nat) (acc : Acc) {s : State} (h : State.Inv s) : State.Inv (mark s a acc) := ⟨mput_wf h.1 _ _, h.2⟩
theorem storeArea_inv (x : ExactSum) (a : Nat) (bs : List Byte) {s : State} (h : State.Inv s) : State.Inv (storeArea s x a bs) := by
  unfold storeArea; first | exact rawWrite_inv _ _ h | (split <;> first | exact h | exact rawWrite_inv _ _ h)
theorem closeSum_inv (tier slice key : Nat) (x : ExactSum) {s : State} (h : State.Inv s) : State.Inv (closeSum s tier slice key x) :=
  inv_of_eq rfl rfl (storeArea_inv _ _ _ (rawWrite_inv _ _ h))
theorem closeSums_inv (tier : Nat) (cells : List Host.Cell) {s : State} (h : State.Inv s) : State.Inv (closeSums s tier cells) := by
  induction cells generalizing s with
  | nil => exact h
  | cons c t ih =>
    obtain ⟨a, b⟩ := c
    unfold closeSums; split
    · exact ih h
    · exact ih (closeSum_inv _ _ _ _ h)
/-- A fold of updates that each keep the invariant keeps it. -/
theorem foldl_inv {α : Type} (f : State → α → State) (hf : ∀ s a, State.Inv s → State.Inv (f s a)) (l : List α) {s : State} (h : State.Inv s) :
    State.Inv (l.foldl f s) := by
  induction l generalizing s with
  | nil => exact h
  | cons a t ih => exact ih (hf _ _ h)
/-- Noting the bytes a write replaces leaves both memories. -/
theorem notePast_mem (tier : Nat) (cells : List Host.Cell) (s : State) :
    (notePast s tier cells).mem = s.mem ∧ (notePast s tier cells).hostMem = s.hostMem := by
  unfold notePast
  induction cells generalizing s with
  | nil => exact ⟨rfl, rfl⟩
  | cons c t ih =>
    rw [List.foldl_cons]
    obtain ⟨h, k⟩ := ih (if tierByte s tier c.1 = c.2 then s else
      { s with past := kput s.past (tkey tier c.1) ({ byte := tierByte s tier c.1, clock := s.clock, stamp := stampNow s } :: kget [] s.past (tkey tier c.1)) })
    refine ⟨h.trans ?_, k.trans ?_⟩ <;> split <;> rfl

/-! ## What an access does in the caches

Everything an access leaves there is in the lines of the L1s, L2s and slices, in the directories and their conflicts, and in the DRAM cache
layer. -/

/-- Two states that differ at most in the lines of the caches and in the directories. -/
def CachesOnly (s t : State) : Prop :=
  ∃ co di sl d, t = { s with cores := co, dies := di, slices := sl, dram := d } ∧
    (∀ k, ∃ l, kget ({} : Core) co k = { kget ({} : Core) s.cores k with l1 := l }) ∧
    (∀ k, ∃ l e c, kget ({} : Die) di k = { kget ({} : Die) s.dies k with l2 := l, dir := e, conflicts := c }) ∧
    ∀ k, ∃ l e c, kget ({} : Slice) sl k = { kget ({} : Slice) s.slices k with llc := l, dir := e, conflicts := c }
theorem CachesOnly.refl (s : State) : CachesOnly s s :=
  ⟨s.cores, s.dies, s.slices, s.dram, rfl, fun _ => ⟨_, rfl⟩, fun _ => ⟨_, _, _, rfl⟩, fun _ => ⟨_, _, _, rfl⟩⟩
theorem CachesOnly.trans {s t u : State} (h : CachesOnly s t) (k : CachesOnly t u) : CachesOnly s u := by
  obtain ⟨c1, d1, s1, r1, rfl, hc, hd, hs⟩ := h
  obtain ⟨c2, d2, s2, r2, rfl, kc, kd, ks⟩ := k
  dsimp only at kc kd ks
  refine ⟨c2, d2, s2, r2, rfl, fun n => ?_, fun n => ?_, fun n => ?_⟩
  · obtain ⟨l, hn⟩ := hc n; obtain ⟨l', kn⟩ := kc n
    exact ⟨l', by rw [kn, hn]⟩
  · obtain ⟨l, e, c, hn⟩ := hd n; obtain ⟨l', e', c', kn⟩ := kd n
    exact ⟨l', e', c', by rw [kn, hn]⟩
  · obtain ⟨l, e, c, hn⟩ := hs n; obtain ⟨l', e', c', kn⟩ := ks n
    exact ⟨l', e', c', by rw [kn, hn]⟩
theorem CachesOnly.foldl {α : Type} (f : State → α → State) (hf : ∀ s a, CachesOnly s (f s a)) (l : List α) (s : State) : CachesOnly s (l.foldl f s) := by
  induction l generalizing s with
  | nil => exact .refl s
  | cons a t ih => exact (hf s a).trans (ih _)
theorem CachesOnly.mem {s t : State} (h : CachesOnly s t) : t.mem = s.mem ∧ t.hostMem = s.hostMem := by
  obtain ⟨_, _, _, _, rfl, _⟩ := h; exact ⟨rfl, rfl⟩
/-- A core's own L1 lines may change. -/
theorem modCore_only (s : State) (n : Nat) (f : Core → Core) (hf : ∀ q, ∃ l, f q = { q with l1 := l }) : CachesOnly s (modCore s n f) := by
  refine ⟨_, s.dies, s.slices, s.dram, rfl, fun k => ?_, fun _ => ⟨_, _, _, rfl⟩, fun _ => ⟨_, _, _, rfl⟩⟩
  simp only [kget, kfind_kput]
  split
  · subst k; exact hf _
  · exact ⟨_, rfl⟩
/-- A die's own L2 lines, directory and conflicts may change. -/
theorem modDie_only (s : State) (n : Nat) (f : Die → Die) (hf : ∀ q, ∃ l e c, f q = { q with l2 := l, dir := e, conflicts := c }) :
    CachesOnly s (modDie s n f) := by
  refine ⟨s.cores, _, s.slices, s.dram, rfl, fun _ => ⟨_, rfl⟩, fun k => ?_, fun _ => ⟨_, _, _, rfl⟩⟩
  simp only [kget, kfind_kput]
  split
  · subst k; exact hf _
  · exact ⟨_, _, _, rfl⟩
/-- A slice's own lines, directory and conflicts may change. -/
theorem modSlice_only (s : State) (n : Nat) (f : Slice → Slice)
    (hf : ∀ q, ∃ l e c, f q = { q with llc := l, dir := e, conflicts := c }) : CachesOnly s (modSlice s n f) := by
  refine ⟨s.cores, s.dies, _, s.dram, rfl, fun _ => ⟨_, rfl⟩, fun _ => ⟨_, _, _, rfl⟩, fun k => ?_⟩
  simp only [kget, kfind_kput]
  split
  · subst k; exact hf _
  · exact ⟨_, _, _, rfl⟩
theorem dramTouch_only (s : State) (line : Nat) (new : Bool) (f : DramLine → DramLine) : CachesOnly s (dramTouch s line new f) := by
  have here (d : KMap (List DramLine)) : CachesOnly s { s with dram := d } :=
    ⟨s.cores, s.dies, s.slices, d, rfl, fun _ => ⟨_, rfl⟩, fun _ => ⟨_, _, _, rfl⟩, fun _ => ⟨_, _, _, rfl⟩⟩
  unfold dramTouch; dsimp only
  repeat' split
  all_goals exact here _
theorem dramBack_only (s : State) (line : Nat) : CachesOnly s (dramBack s line) := by
  unfold dramBack dramWrite; exact (dramTouch_only ..).trans (dramTouch_only ..)
theorem llcTouch_only (s : State) (line : Nat) (granules : BitVec 8) (dirty whole : Bool) : CachesOnly s (llcTouch s line granules dirty whole) := by
  have fill (b : Bool) : CachesOnly s (if b then s else dramRead s line granules) := by
    split; exacts [.refl s, dramTouch_only ..]
  have back (t : State) (h : CachesOnly s t) (o : Option LlcLine) :
      CachesOnly s (match o with | some l => if l.dirty then dramBack t l.line else t | none => t) := by
    split
    · split; exacts [h.trans (dramBack_only ..), h]
    · exact h
  unfold llcTouch; split
  · exact .refl s
  · split
    · split; exacts [dramBack_only .., dramTouch_only ..]
    · exact (back _ (fill _) _).trans (modSlice_only _ _ _ fun q => ⟨_, q.dir, q.conflicts, rfl⟩)
theorem l1Leave_only (s : State) (core line : Nat) : CachesOnly s (l1Leave s core line) := by
  unfold l1Leave; split
  · exact .refl s
  · dsimp only; split
    · exact (modCore_only _ _ _ fun q => ⟨_, rfl⟩).trans (modDie_only _ _ _ fun q => ⟨_, q.dir, q.conflicts, rfl⟩)
    · exact modCore_only _ _ _ fun q => ⟨_, rfl⟩
theorem kmapCores_only (s : State) (f : Nat → Core → Core) (hf : ∀ k q, ∃ l, f k q = { q with l1 := l }) :
    CachesOnly s { s with cores := kmap f s.cores } := by
  refine ⟨_, s.dies, s.slices, s.dram, rfl, fun k => ?_, fun _ => ⟨_, _, _, rfl⟩, fun _ => ⟨_, _, _, rfl⟩⟩
  simp only [kget, kfind_kmap]
  cases kfind s.cores k with
  | none => exact ⟨_, rfl⟩
  | some q => exact hf k q
theorem l2Leave_only (s : State) (die line : Nat) : CachesOnly s (l2Leave s die line) := by
  have drop (t : State) (f : Die → Die) (hf : ∀ q, ∃ l e c, f q = { q with l2 := l, dir := e, conflicts := c }) (b : Bool) :
      CachesOnly t (if b then llcTouch (modDie t die f) line 0xFF#8 true true else modDie t die f) := by
    split
    · exact (modDie_only _ _ _ hf).trans (llcTouch_only ..)
    · exact modDie_only _ _ _ hf
  unfold l2Leave
  refine (kmapCores_only s _ fun k q => ?_).trans (drop _ _ (fun q => ⟨_, _, q.conflicts, rfl⟩) _)
  split; exacts [⟨_, rfl⟩, ⟨_, rfl⟩]
theorem holderDrops_only (s : State) (dir line h : Nat) : CachesOnly s (holderDrops s dir line h) := by
  unfold holderDrops
  repeat' split
  all_goals first | exact l1Leave_only .. | exact l2Leave_only .. | exact .refl s
theorem setDir_only (s : State) (n : Nat) (d : List DirEntry) (c : List Conflict) : CachesOnly s (setDir s n d c) := by
  unfold setDir; split
  · exact modDie_only _ _ _ fun q => ⟨q.l2, _, _, rfl⟩
  · exact modSlice_only _ _ _ fun q => ⟨q.llc, _, _, rfl⟩
theorem freeRegion_only (s : State) (dir : Nat) (e : DirEntry) : CachesOnly s (freeRegion s dir e) := by
  unfold freeRegion
  exact (CachesOnly.foldl _ (fun _ _ => CachesOnly.foldl _ (fun _ _ => holderDrops_only ..) _ _) _ _).trans (setDir_only ..)
theorem makeEntries_only (s : State) (dir line : Nat) : CachesOnly s (makeEntries s dir line) := by
  unfold makeEntries; exact CachesOnly.foldl _ (fun _ _ => freeRegion_only ..) _ _
theorem writeDir_only (s : State) (n line w : Nat) : CachesOnly s (writeDir s n line w) := by
  have conflict (others : List Nat) : CachesOnly s (conflictAt s n line w others) := (makeEntries_only ..).trans (setDir_only ..)
  unfold writeDir; dsimp only
  repeat' split
  all_goals first | exact conflict _ | exact setDir_only ..
theorem homeWrites_only (s : State) (cells : List Host.Cell) (agent : Nat) : CachesOnly s (homeWrites s cells agent) := by
  unfold homeWrites
  refine CachesOnly.foldl _ (fun s line => ?_) _ _
  split
  · exact CachesOnly.foldl _ (fun _ _ => dramTouch_only ..) _ _
  · dsimp only; split
    · exact (llcTouch_only ..).trans (writeDir_only ..)
    · exact llcTouch_only ..

theorem physStore_inv (tier : Nat) (cells : List Host.Cell) {s : State} (h : State.Inv s) : State.Inv (physStore s tier cells) := by
  have r := rawWrite_inv tier cells (inv_of_eq (notePast_mem tier cells _).1 (notePast_mem tier cells _).2 (closeSums_inv tier cells h))
  unfold physStore; dsimp only; split
  · exact r
  · exact inv_of_eq rfl rfl r
theorem physWrite_inv (tier : Nat) (cells : List Host.Cell) (agent part : Nat) {s : State} (h : State.Inv s) :
    State.Inv (physWrite s tier cells agent part) :=
  inv_of_eq (homeWrites_only ..).mem.1 (homeWrites_only ..).mem.2 (physStore_inv tier cells h)
theorem partWrite_inv (p tier : Nat) (cells : List Host.Cell) {s : State} (h : State.Inv s) : State.Inv (partWrite s p tier cells) := by
  refine physWrite_inv _ _ _ _ ?_
  unfold hostFault; split
  · exact inv_of_eq rfl rfl h
  · exact h
theorem raceMark_inv (part k sc : Nat) (sectors : List Nat) {s : State} (h : State.Inv s) : State.Inv (raceMark s part k sc sectors) := by
  refine foldl_inv _ ?_ _ h
  intro s a hs
  split
  · exact hs
  · exact ⟨mwrites_wf _ hs.1 _, hs.2⟩

/-! ## What a write leaves -/

/-- A raw write to tier 0 leaves host memory, and every device byte whose address no cell names. -/
theorem rawWrite_mem_out (cells : List Host.Cell) (s : State) (a : Nat) (h : ∀ c ∈ cells, c.1 ≠ a) :
    mget (rawWrite s 0 cells).mem a = mget s.mem a := by
  simpa [rawWrite] using mget_mputAll_out cells s.mem a h
theorem rawWrite_host_out (tier : Nat) (ht : tier ≠ 0) (cells : List Host.Cell) (s : State) (a : Nat) (h : ∀ c ∈ cells, c.1 ≠ a) :
    mget (rawWrite s tier cells).hostMem a = mget s.hostMem a := by
  simpa [rawWrite, ht] using mget_mputAll_out cells s.hostMem a h
/-- Each tier's write leaves the other tier's memory. -/
theorem rawWrite_other (cells : List Host.Cell) (s : State) :
    (rawWrite s 0 cells).hostMem = s.hostMem ∧ ∀ t, t ≠ 0 → (rawWrite s t cells).mem = s.mem := by
  refine ⟨rfl, fun t ht => ?_⟩
  simp [rawWrite, ht]
/-- Marking a PTE changes one byte, the one that holds the accessed and dirty bits (R398). -/
theorem mark_mem (s : State) (a c : Nat) (acc : Acc) (h : c ≠ a + 1) : mget (mark s a acc).mem c = mget s.mem c := by
  simp [mark, mget_mput, h]
/-- A byte written reads back, and the last of two writes to one address is the one read. -/
theorem mget_mput_self (m : List Host.Cell) (a : Nat) (b : Byte) : mget (mput m a b) a = b := by simp [mget_mput]

end Sys2Proof.Machine
end

