-- ==== Sys2Proof/Laws/Operands.lean ====
section
/-!
SUPPORT. What each operand form leaves, once and for every operation: the lemmas that the statements about the arithmetic
instructions cite in place of the forms' definitions.
-/
namespace Sys2Proof.Machine

/-! ## Groups and fragments that differ in registers and marks only -/

theorem GroupRegs.refl (g : Group) : GroupRegs g g := rfl
theorem GroupRegs.trans {g h i : Group} (a : GroupRegs g h) (b : GroupRegs h i) : GroupRegs g i := by
  unfold GroupRegs at *; rw [b, a]
theorem FragMarks.refl (f : Frag) : FragMarks f f := rfl
theorem FragMarks.trans {f g h : Frag} (a : FragMarks f g) (b : FragMarks g h) : FragMarks f h := by
  unfold FragMarks at *; rw [b, a]
theorem touch_marks (f : Frag) (c : Nat) : FragMarks f (touch f c) := by
  unfold touch; split <;> rfl
theorem touches_marks (cs : List Nat) (f : Frag) : FragMarks f (cs.foldl touch f) := by
  induction cs generalizing f with
  | nil => rfl
  | cons c t ih => exact (touch_marks f c).trans (ih _)
theorem FragMarks.pc {f g : Frag} (h : FragMarks f g) : g.pc = f.pc := by rw [h]
theorem FragMarks.exec {f g : Frag} (h : FragMarks f g) : g.exec = f.exec := by rw [h]
theorem FragMarks.skip {f g : Frag} (h : FragMarks f g) (n : Nat) : FragMarks (f.after n) { g with pc := g.pc + word n } := by
  unfold FragMarks Frag.after at *; rw [h]
theorem dropIdx_regs (g : Group) (c : Nat) : GroupRegs g (dropIdx g c) := rfl
theorem dropRec_regs (g : Group) (c : Nat) : GroupRegs g (dropRec g c) := rfl
theorem shadowWrite_regs (g : Group) (c : Nat) (full : Bool) (i : Iv) : GroupRegs g (shadowWrite g c full i) := by
  unfold shadowWrite; dsimp only; split
  · split <;> rfl
  · rfl
theorem dropProv_regs (g : Group) (c : Nat) : GroupRegs g (dropProv g c) := rfl
theorem clearErrors_regs (g : Group) (c : Nat) (m : Mask) : GroupRegs g (clearErrors g c m) := rfl

/-- A shadow write leaves every register and predicate. -/
theorem shadowWrite_keeps (g : Group) (c : Nat) (full : Bool) (i : Iv) :
    (shadowWrite g c full i).vregs = g.vregs ∧ (shadowWrite g c full i).gregs = g.gregs ∧ (shadowWrite g c full i).preds = g.preds ∧
    (shadowWrite g c full i).gpreds = g.gpreds ∧ (shadowWrite g c full i).live = g.live := by
  unfold shadowWrite; dsimp only; split
  · split <;> exact ⟨rfl, rfl, rfl, rfl, rfl⟩
  · exact ⟨rfl, rfl, rfl, rfl, rfl⟩

/-! ## Register writes -/

/-- An environment that differs in registers and marks only. -/
structure RegsOf (x z : Env) : Prop where
  s : z.s = x.s
  k : z.k = x.k
  e : z.e = x.e
  b : z.b = x.b
  g : GroupRegs x.g z.g
  f : FragMarks x.f z.f
theorem RegsOf.refl (x : Env) : RegsOf x x := ⟨rfl, rfl, rfl, rfl, rfl, rfl⟩
theorem RegsOf.trans {x y z : Env} (a : RegsOf x y) (b : RegsOf y z) : RegsOf x z :=
  ⟨b.s.trans a.s, b.k.trans a.k, b.e.trans a.e, b.b.trans a.b, a.g.trans b.g, a.f.trans b.f⟩
theorem afterReads_regs (x : Env) (cs : List Nat) : RegsOf x (afterReads x cs) := ⟨rfl, rfl, rfl, rfl, rfl, touches_marks cs x.f⟩

theorem vwriteAt_regs (x : Env) (d : Nat) (m : Mask) (val : Nat → Word) (i : Iv) : RegsOf x (x.vwriteAt d m val i) := by
  unfold Env.vwriteAt
  split
  · exact RegsOf.refl x
  · refine ⟨rfl, rfl, rfl, rfl, ?_, ?_⟩
    · dsimp only
      split
      · exact rfl
      · refine GroupRegs.trans ?_ (shadowWrite_regs _ _ _ _); rfl
    · dsimp only
      split
      · split <;> rfl
      · rfl
/-- A vector write: the lanes of the mask take their values, and nothing else in the registers changes. -/
theorem vwriteAt_vreg (x : Env) (d : Nat) (m : Mask) (val : Nat → Word) (i : Iv) (r l : Nat) (hl : l < 32) :
    vreg (x.vwriteAt d m val i).g r l = if r = d ∧ inMask m l then val l else vreg x.g r l := by
  unfold Env.vwriteAt
  split
  · rename_i h; subst h; simp [inMask]
  · have key : vreg { x.g with vregs := kputAll x.g.vregs ((lanesOf m).map fun l => (32 * d + l, val l)) } r l =
        if r = d ∧ inMask m l then val l else vreg x.g r l := by
      simp only [vreg, kget]
      by_cases h : r = d
      · subst h
        have := kfind_kputAll_map (fun l => 32 * r + l) (fun a b q => by simpa using q) val (lanesOf m) x.g.vregs l
        rw [this]; simp only [mem_lanesOf]; split <;> simp_all
      · rw [kfind_kputAll_out]
        · simp [h]
        · simp only [List.mem_map, forall_exists_index, and_imp]
          rintro p q hq rfl; have := ((mem_lanesOf m q).mp hq).1; dsimp only; omega
    rw [← key]
    dsimp only
    split
    · rfl
    · simp only [vreg]; rw [(shadowWrite_keeps _ _ _ _).1]; rfl
theorem vwriteAt_others (x : Env) (d : Nat) (m : Mask) (val : Nat → Word) (i : Iv) :
    (x.vwriteAt d m val i).g.gregs = x.g.gregs ∧ (x.vwriteAt d m val i).g.preds = x.g.preds ∧ (x.vwriteAt d m val i).g.gpreds = x.g.gpreds := by
  unfold Env.vwriteAt
  split
  · exact ⟨rfl, rfl, rfl⟩
  · dsimp only
    split
    · exact ⟨rfl, rfl, rfl⟩
    · obtain ⟨-, a, b, c, -⟩ := shadowWrite_keeps (clearErrors (dropProv
        { x.g with vregs := kputAll x.g.vregs ((lanesOf m).map fun l => (32 * d + l, val l)) } d) d m) d ((m &&& x.g.live) == x.g.live) i
      exact ⟨a, b, c⟩
theorem helpers_regs {x z : Env} (h : RegsOf x z) : z.helpers = x.helpers := by
  have e := h.f.exec
  have g := h.g
  unfold Env.helpers Env.vwrite.helperExec
  rw [e, g]
theorem active_regs {x z : Env} (h : RegsOf x z) : z.active = x.active := by
  unfold Env.active; rw [helpers_regs h, h.f.exec]
/-- The lanes a guarded write reaches. -/
theorem vwrite_mask (x : Env) (d : Nat) (m : Mask) (val : Nat → Word) (i : Iv) : x.vwrite d m val i = x.vwriteAt d (x.active &&& m) val i := by
  have : x.f.exec &&& m ||| Env.vwrite.helperExec x &&& m = x.active &&& m := by
    unfold Env.active Env.helpers
    apply BitVec.eq_of_getLsbD_eq; intro j _; simp [Bool.and_or_distrib_right]
  unfold Env.vwrite; rw [this]
theorem gwrite_regs (x : Env) (d : Nat) (v : Word) (i : Iv) : RegsOf x (x.gwrite d v i) := by
  refine ⟨rfl, rfl, rfl, rfl, ?_, rfl⟩
  unfold Env.gwrite
  refine GroupRegs.trans ?_ (shadowWrite_regs _ _ _ _); rfl
theorem gwrite_greg (x : Env) (d : Nat) (v : Word) (i : Iv) (r : Nat) : greg (x.gwrite d v i).g r = if r = d then v else greg x.g r := by
  unfold Env.gwrite greg
  dsimp only
  rw [(shadowWrite_keeps _ _ _ _).2.1]
  exact kget_kput ..
theorem gwrite_others (x : Env) (d : Nat) (v : Word) (i : Iv) :
    (x.gwrite d v i).g.vregs = x.g.vregs ∧ (x.gwrite d v i).g.preds = x.g.preds ∧ (x.gwrite d v i).g.gpreds = x.g.gpreds := by
  unfold Env.gwrite
  dsimp only
  rw [(shadowWrite_keeps _ _ _ _).1, (shadowWrite_keeps _ _ _ _).2.2.1, (shadowWrite_keeps _ _ _ _).2.2.2.1]
  exact ⟨rfl, rfl, rfl⟩
theorem pwrite_regs (x : Env) (p : Nat) (m v : Mask) (pr : Prov) : RegsOf x (x.pwrite p m v pr) := by
  unfold Env.pwrite; split
  · exact RegsOf.refl x
  · exact ⟨rfl, rfl, rfl, rfl, rfl, rfl⟩
theorem pwrite_pmask (x : Env) (p : Nat) (m v : Mask) (pr : Prov) (q l : Nat) (hl : l < 32) :
    inMask (pmask (x.pwrite p m v pr).g q) l = if q = p ∧ p ≠ 0 ∧ inMask m l then inMask v l else inMask (pmask x.g q) l := by
  unfold Env.pwrite
  split
  · rename_i h
    obtain h | h := h
    · subst h; simp
    · subst h; simp [inMask]
  · rename_i h
    simp only [not_or] at h
    simp only [pmask, kget_kput]
    by_cases a : q = p
    · subst a
      simp only [h.1, if_false, if_true, ne_eq, not_false_eq_true, true_and]
      by_cases b : inMask m l
      · simp only [inMask] at b; simp only [inMask, BitVec.getLsbD_or, BitVec.getLsbD_and, BitVec.getLsbD_not, b]; simp
      · simp only [inMask, Bool.not_eq_true] at b; simp only [inMask, BitVec.getLsbD_or, BitVec.getLsbD_and, BitVec.getLsbD_not, b, hl]; simp
    · simp [a]
theorem pwrite_others (x : Env) (p : Nat) (m v : Mask) (pr : Prov) :
    (x.pwrite p m v pr).g.vregs = x.g.vregs ∧ (x.pwrite p m v pr).g.gregs = x.g.gregs ∧ (x.pwrite p m v pr).g.gpreds = x.g.gpreds := by
  unfold Env.pwrite; split <;> exact ⟨rfl, rfl, rfl⟩
theorem gpwrite_regs (x : Env) (p : Nat) (v : Bool) (pr : Prov) : RegsOf x (x.gpwrite p v pr) := by
  unfold Env.gpwrite; split
  · exact RegsOf.refl x
  · exact ⟨rfl, rfl, rfl, rfl, rfl, rfl⟩
theorem gpwrite_gpred (x : Env) (p : Nat) (v : Bool) (pr : Prov) (q : Nat) (hp : p < 8) (hq : q < 8) :
    gpred (x.gpwrite p v pr).g q = if q = p ∧ p ≠ 0 then v else gpred x.g q := by
  unfold Env.gpwrite
  split
  · rename_i h; subst h; simp
  · rename_i h
    have bit : (1#8 <<< p).getLsbD q = decide (q = p) := by
      have : ∀ a b : Fin 8, (1#8 <<< a.val).getLsbD b.val = decide (b.val = a.val) := by decide
      exact this ⟨p, hp⟩ ⟨q, hq⟩
    cases v
    · simp only [gpred, Bool.false_eq_true, if_false, BitVec.getLsbD_and, BitVec.getLsbD_not, bit]
      by_cases a : q = p
      · subst a; simp [h]
      · simp only [a, hq]; simp
    · simp only [gpred, if_true, BitVec.getLsbD_or, bit]
      by_cases a : q = p <;> simp [a, h]
theorem gpwrite_others (x : Env) (p : Nat) (v : Bool) (pr : Prov) :
    (x.gpwrite p v pr).g.vregs = x.g.vregs ∧ (x.gpwrite p v pr).g.gregs = x.g.gregs ∧ (x.gpwrite p v pr).g.preds = x.g.preds := by
  unfold Env.gpwrite; split <;> exact ⟨rfl, rfl, rfl⟩

/-! ## From registers to the whole state -/

/-- An environment that differs in registers, its fragment replaced and put back, changes nothing else. -/
theorem only_at {s : State} {x z : Env} (h : At s x) (r : RegsOf x z) (f : Frag) :
    Only s { z with f := f }.commit x { z with s := { z with f := f }.commit, g := { z.g with table := kput z.g.table z.e f }, f := f } f := by
  obtain ⟨hs, hk, he, hg, hf, hb⟩ := envAt_some h
  have rs := r.s; have rk := r.k; have re := r.e; have rb := r.b; have rg := r.g
  have gb : z.g.block = x.g.block := by rw [rg]
  have gt : z.g.table = x.g.table := by rw [rg]
  refine ⟨?_, ?_, ?_, ?_, rb, ?_, ?_, ?_, rfl⟩
  · have := envAt_commit { z with f := f }; rw [← rk, ← re]; exact this
  · simp only [Env.commit, rs, hs]
  · intro tier a
    simp only [Env.commit, rs, hs, physByte, findSum, tierByte]
  · intro k hne; simp only [commit_groups, kfind_kput, rk, hs, rs, if_neg hne]
  · intro n' hne; simp only [commit_blocks, kfind_kput, gb, hs, rs, if_neg hne]
  · exact rg.trans (by simp only [GroupRegs, gt])
  · intro e hne; simp only [kfind_kput, re, if_neg hne, gt]
/-- A fragment that differs from the one named in its marks only will do. -/
theorem Only.marks {s t : State} {x y : Env} {f h : Frag} (o : Only s t x y f) (m : FragMarks h f) : Only s t x y h :=
  ⟨o.here, o.rest, o.bytes, o.others, o.block, o.blocks, o.group, o.entries, m.trans o.frag⟩
/-- The same of one that advances. -/
theorem only_of {s : State} {x z : Env} (h : At s x) (r : RegsOf x z) (n : Nat) :
    Only s (z.skip n).commit x { z.skip n with s := (z.skip n).commit, g := { z.g with table := kput z.g.table z.e (z.skip n).f } } (x.f.after n) :=
  (only_at h r _).marks (r.f.skip n)

/-- An instruction whose registers are ready and sound runs its own meaning, its sources' views touched. -/
theorem issueReads_ready (x : Env) (ok : Bool) (srcs dsts : List Nat) (reads : Reads) (len : Nat) (m : Env → State)
    (h : ok = true) (r : ReadyFor x srcs dsts reads) : issueReads x ok srcs dsts reads len m = m (afterReads x srcs) := by
  unfold issueReads afterReads Env.correct; rw [r.1, r.2.1, r.2.2, h]; rfl
/-- An instruction whose fields, registers and words are in order runs its own meaning. -/
theorem issueWith_ready (x : Env) (ok : Bool) (srcs dsts : List Nat) (reads : Mask) (len : Nat) (m : Env → State)
    (h : ok = true) (r : Ready x srcs dsts reads) : issueWith x ok srcs dsts reads len m = m (afterReads x srcs) :=
  issueReads_ready x ok srcs dsts _ len m h r
theorem issue_ready (x : Env) (ok : Bool) (srcs dsts : List Nat) (m : Env → State) (h : PlainOk x ok srcs dsts) :
    issue x ok srcs dsts m = m (afterReads x srcs) := issueWith_ready x ok srcs dsts _ 4 m h.1 h.2

/-! ## The operand forms -/

theorem vec_done {s : State} {x z : Env} (h : At s x) (r : RegsOf x z) (d : Nat) (m : Mask) (val : Nat → Word) (i : Iv) (n : Nat)
    (same : z.g = x.g) : VecDone s x d m val n ((z.vwriteAt d m val i).skip n).commit := by
  refine ⟨_, only_of h (r.trans (vwriteAt_regs z d m val i)) n, ?_, ?_⟩
  · intro q l hl; rw [← same]; exact vwriteAt_vreg z d m val i q l hl
  · rw [← same]; exact vwriteAt_others z d m val i
theorem grp_done {s : State} {x z : Env} (h : At s x) (r : RegsOf x z) (d : Nat) (w : Bool) (v : Word) (i : Iv) (n : Nat)
    (same : z.g = x.g) : GrpDone s x w d v n ((if w = true then z.gwrite d v i else z).skip n).commit := by
  cases w with
  | false =>
    refine ⟨_, only_of h r n, ?_, ?_⟩
    · intro q; rw [← same]; simp [greg]
    · rw [← same]; exact ⟨rfl, rfl, rfl⟩
  | true =>
    refine ⟨_, only_of h (r.trans (gwrite_regs z d v i)) n, ?_, ?_⟩
    · intro q; rw [← same]; simp only [true_and]; exact gwrite_greg z d v i q
    · rw [← same]; exact gwrite_others z d v i
theorem pred_done {s : State} {x z : Env} (h : At s x) (r : RegsOf x z) (p : Nat) (m v : Mask) (pr : Prov) (n : Nat)
    (same : z.g = x.g) : PredDone s x p m (inMask v) n ((z.pwrite p m v pr).skip n).commit := by
  refine ⟨_, only_of h (r.trans (pwrite_regs z p m v pr)) n, ?_, ?_⟩
  · intro q l hl; rw [← same]; exact pwrite_pmask z p m v pr q l hl
  · rw [← same]; exact pwrite_others z p m v pr
theorem gpred_done {s : State} {x z : Env} (h : At s x) (r : RegsOf x z) (p : Nat) (hp : p < 8) (w v : Bool) (pr : Prov) (n : Nat)
    (same : z.g = x.g) : GPredDone s x w p v n ((if w = true then z.gpwrite p v pr else z).skip n).commit := by
  cases w with
  | false =>
    refine ⟨_, only_of h r n, ?_, ?_⟩
    · intro q _; rw [← same]; simp [gpred]
    · rw [← same]; exact ⟨rfl, rfl, rfl⟩
  | true =>
    refine ⟨_, only_of h (r.trans (gpwrite_regs z p v pr)) n, ?_, ?_⟩
    · intro q hq; rw [← same]; simp only [true_and]; exact gpwrite_gpred z p v pr q hp hq
    · rw [← same]; exact gpwrite_others z p v pr
theorem nop_done {s : State} {x z : Env} (h : At s x) (r : RegsOf x z) (n : Nat) (same : z.g = x.g) : NopDone s x n (z.skip n).commit := by
  refine ⟨_, only_of h r n, ?_⟩; rw [← same]; exact ⟨rfl, rfl, rfl, rfl⟩

/-- The same of a guarded write to the executing lanes. -/
theorem vecw_done {s : State} {x z : Env} (h : At s x) (r : RegsOf x z) (d : Nat) (m : Mask) (val : Nat → Word) (i : Iv) (n : Nat)
    (same : z.g = x.g) : VecDone s x d (x.active &&& m) val n ((z.vwrite d m val i).skip n).commit := by
  rw [vwrite_mask, active_regs r]; exact vec_done h r _ _ _ _ _ same
theorem active_all (x : Env) : x.active &&& allLanes = x.active := by
  apply BitVec.eq_of_getLsbD_eq; intro j hj
  have : ∀ q : Fin 32, allLanes.getLsbD q = true := by decide
  simp [this ⟨j, hj⟩]

theorem vec2_done {s : State} {x : Env} (h : At s x) (b a d : BitVec 7) (g : BitVec 3) (op : Word → Word → Word → Word)
    (iv : Iv → Iv → Iv → Iv) (prior : Bool) (ok : Vec2Ok x b a d g prior) :
    VecDone s x d.toNat (guarded x g) (fun l => op (vsrc x.g a.toNat l) (vsrc x.g b.toNat l) (vreg x.g d.toNat l)) 4
      (vec2 x b a d g op iv prior) := by
  unfold vec2 issue; erw [issueWith_ready _ _ _ _ _ _ _ ok.1 ok.2]
  exact vecw_done h (afterReads_regs x _) _ _ _ _ _ rfl
theorem grp2_done {s : State} {x : Env} (h : At s x) (b a d : BitVec 7) (g : BitVec 3) (op : Word → Word → Word → Word)
    (iv : Iv → Iv → Iv → Iv) (prior : Bool) (ok : Grp2Ok x b a d g prior) :
    GrpDone s x (gpred x.g g.toNat) d.toNat (op (gsrc x.g a.toNat) (gsrc x.g b.toNat) (greg x.g d.toNat)) 4 (grp2 x b a d g op iv prior) := by
  unfold grp2 issue; erw [issueWith_ready _ _ _ _ _ _ _ ok.1 ok.2]
  exact grp_done h (afterReads_regs x _) _ _ _ _ _ rfl
theorem vec1_done {s : State} {x : Env} (h : At s x) (a d : BitVec 7) (g : BitVec 3) (op : Word → Word) (iv : Iv → Iv) (ok : Vec1Ok x a d g) :
    VecDone s x d.toNat (guarded x g) (fun l => op (vsrc x.g a.toNat l)) 4 (vec1 x a d g op iv) := by
  unfold vec1 issue; erw [issueWith_ready _ _ _ _ _ _ _ ok.1 ok.2]
  exact vecw_done h (afterReads_regs x _) _ _ _ _ _ rfl
theorem grp1_done {s : State} {x : Env} (h : At s x) (a d : BitVec 7) (g : BitVec 3) (op : Word → Word) (iv : Iv → Iv) (ok : Grp1Ok x a d g) :
    GrpDone s x (gpred x.g g.toNat) d.toNat (op (gsrc x.g a.toNat)) 4 (grp1 x a d g op iv) := by
  unfold grp1 issue; erw [issueWith_ready _ _ _ _ _ _ _ ok.1 ok.2]
  exact grp_done h (afterReads_regs x _) _ _ _ _ _ rfl
theorem vecImm_done {s : State} {x : Env} (h : At s x) (imm : Word) (a d : BitVec 7) (g : BitVec 3) (len : Nat) (op : Word → Word → Word)
    (iv : Iv → Iv → Iv) (ok : Vec1Ok x a d g) :
    VecDone s x d.toNat (guarded x g) (fun l => op (vsrc x.g a.toNat l) imm) len (vecImm x imm a d g len op iv) := by
  unfold vecImm; erw [issueWith_ready _ _ _ _ _ _ _ ok.1 ok.2]
  exact vecw_done h (afterReads_regs x _) _ _ _ _ _ rfl
theorem grpImm_done {s : State} {x : Env} (h : At s x) (imm : Word) (a d : BitVec 7) (g : BitVec 3) (len : Nat) (op : Word → Word → Word)
    (iv : Iv → Iv → Iv) (ok : Grp1Ok x a d g) :
    GrpDone s x (gpred x.g g.toNat) d.toNat (op (gsrc x.g a.toNat) imm) len (grpImm x imm a d g len op iv) := by
  unfold grpImm; erw [issueWith_ready _ _ _ _ _ _ _ ok.1 ok.2]
  exact grp_done h (afterReads_regs x _) _ _ _ _ _ rfl
theorem half2_done {s : State} {x : Env} (h : At s x) (s2 : Option Nat) (imm : Word) (d : Nat) (readD : Bool) (op : Word → Word → Word)
    (iv : Iv → Iv → Iv) (ok : HalfOk x s2 d readD) :
    VecDone s x d x.active (fun l => op (vreg x.g d l) (s2.elim imm fun r => vreg x.g r l)) 2
      (half2 x s2 imm d readD op iv) := by
  rw [← active_all]
  cases s2 <;> (unfold half2; dsimp only; erw [issueWith_ready _ _ _ _ _ _ _ ok.1 ok.2]; exact vecw_done h (afterReads_regs x _) _ _ _ _ _ rfl)

/-! ## Predicates -/

theorem PredDone.congr {s : State} {x : Env} {p : Nat} {m n : Mask} {len : Nat} {t : State} {v w : Nat → Bool} (e : ∀ l, l < 32 → v l = w l)
    (i : m = n) (h : PredDone s x p m v len t) : PredDone s x p n w len t := by
  subst i
  obtain ⟨y, o, a, b⟩ := h
  exact ⟨y, o, fun q l hl => by rw [a q l hl, e l hl], b⟩
/-- The lanes of a mask built from a test are those that satisfy it. -/
theorem inMask_maskOf (p : Nat → Bool) (l : Nat) (h : l < 32) : inMask (maskOf p) l = p l := by
  have key : ∀ (ls : List Nat) (m : Mask), (∀ i ∈ ls, i < 32) →
      inMask (ls.foldl (fun m l => if p l then m ||| (1#32 <<< l) else m) m) l = (inMask m l || (ls.contains l && p l)) := by
    intro ls
    induction ls with
    | nil => simp
    | cons a t ih =>
      intro m hb
      rw [List.foldl_cons, ih _ fun i hi => hb i (List.mem_cons_of_mem _ hi)]
      have one : (1#32 <<< a).getLsbD l = decide (l = a) := by
        have : ∀ i j : Fin 32, (1#32 <<< i.val).getLsbD j.val = decide (j.val = i.val) := by decide
        exact this ⟨a, hb a (List.mem_cons_self ..)⟩ ⟨l, h⟩
      simp only [List.contains_cons, inMask]
      by_cases e : l = a
      · subst e
        cases q : p l <;> simp [one]
      · have e' : (l == a) = false := by simpa using e
        cases q : p a <;> simp [one, e, e']
  unfold maskOf
  rw [key lanes 0 (by simp [lanes])]
  simp [lanes, inMask, h]
/-- Both ways in which a compare leaves its provenance write the same predicate. -/
theorem pcmp_done {s : State} {x z : Env} (h : At s x) (r : RegsOf x z) (p : Nat) (m v : Mask) (a b : Prov) (n : Nat) (c : Prop) [Decidable c]
    (same : z.g = x.g) : PredDone s x p m (inMask v) n
      ((if c then ({ z with g := (z.pwrite p m v a).g } : Env) else z.pwrite p m v b).skip n).commit := by
  split
  · have q : RegsOf z { z with g := (z.pwrite p m v a).g } := ⟨rfl, rfl, rfl, rfl, (pwrite_regs z p m v a).g, rfl⟩
    refine ⟨_, only_of h (r.trans q) n, ?_, ?_⟩
    · intro q l hl; rw [← same]; exact pwrite_pmask z p m v a q l hl
    · rw [← same]; exact pwrite_others z p m v a
  · exact pred_done h r p m v b n same
theorem vecCmp_done {s : State} {x : Env} (h : At s x) (b : Option (BitVec 7)) (imm : Word) (a : BitVec 7) (c : BitVec 4) (p g : BitVec 3)
    (len : Nat) (ok : VecCmpOk x b a c p g) :
    PredDone s x p.toNat (guarded x g) (fun l => condHolds c.toNat (vsrc x.g a.toNat l) (b.elim imm fun r => vsrc x.g r.toNat l)) len
      (vecCmp x b imm a c p g len) := by
  cases b <;>
  · unfold vecCmp; dsimp only; erw [issueWith_ready _ _ _ _ _ _ _ ok.1 ok.2]
    refine PredDone.congr (fun l hl => ?_) (congrArg (· &&& pmask x.g g.toNat) (active_regs (afterReads_regs x _)))
      (pcmp_done h (afterReads_regs x _) _ _ _ _ _ _ _ rfl)
    rw [inMask_maskOf _ _ hl]; rfl
theorem grpCmp_done {s : State} {x : Env} (h : At s x) (b : Option (BitVec 7)) (imm : Word) (a : BitVec 7) (c : BitVec 4) (p g : BitVec 3)
    (len : Nat) (ok : GrpCmpOk x b a c p g) :
    GPredDone s x (gpred x.g g.toNat) p.toNat (condHolds c.toNat (gsrc x.g a.toNat) (b.elim imm fun r => gsrc x.g r.toNat)) len
      (grpCmp x b imm a c p g len) := by
  cases b <;>
  · unfold grpCmp; dsimp only; erw [issueWith_ready _ _ _ _ _ _ _ ok.1 ok.2]
    exact gpred_done h (afterReads_regs x _) _ p.isLt _ _ _ _ rfl
theorem vecPred_done {s : State} {x : Env} (h : At s x) (srcs : List Nat) (ok : Bool) (d : BitVec 3) (m val : Env → Mask)
    (r : PlainOk x ok srcs [pcode d.toNat]) :
    PredDone s x d.toNat (m (afterReads x srcs)) (inMask (val (afterReads x srcs))) 4 (vecPred x srcs ok d m val) := by
  unfold vecPred; rw [issue_ready _ _ _ _ _ r]
  exact pred_done h (afterReads_regs x _) _ _ _ _ _ rfl
theorem grpPred2_done {s : State} {x : Env} (h : At s x) (a d b : BitVec 3) (op : Bool → Bool → Bool)
    (r : PlainOk x true [gpcode a.toNat, gpcode b.toNat] [gpcode d.toNat]) :
    GPredDone s x true d.toNat (op (gpred x.g a.toNat) (gpred x.g b.toNat)) 4 (grpPred2 x a d b op) := by
  unfold grpPred2; rw [issue_ready _ _ _ _ _ r]
  exact gpred_done h (afterReads_regs x _) _ d.isLt true _ {} 4 rfl
theorem grpPred1_done {s : State} {x : Env} (h : At s x) (a d g : BitVec 3) (op : Bool → Bool)
    (r : PlainOk x true ([gpcode a.toNat] ++ gguard g) [gpcode d.toNat]) :
    GPredDone s x (gpred x.g g.toNat) d.toNat (op (gpred x.g a.toNat)) 4 (grpPred1 x a d g op) := by
  unfold grpPred1; erw [issue_ready _ _ _ _ _ r]
  exact gpred_done h (afterReads_regs x _) _ d.isLt _ _ _ 4 rfl
theorem grpPset_done {s : State} {x : Env} (h : At s x) (a : BitVec 7) (d g : BitVec 3)
    (r : PlainOk x (gsOk a) ([gcode a.toNat] ++ gguard g) [gpcode d.toNat]) :
    GPredDone s x (gpred x.g g.toNat) d.toNat (gsrc x.g a.toNat != 0) 4 (grpPset x a d g) := by
  unfold grpPset; erw [issue_ready _ _ _ _ _ r]
  exact gpred_done h (afterReads_regs x _) _ d.isLt _ _ _ 4 rfl

end Sys2Proof.Machine
end

