-- ==== Sys2Proof/Laws/Words.lean ====
section
/-!
SUPPORT. The word operations of the arithmetic instructions in the terms in which the spec states them.
-/
namespace Sys2Proof.Machine

theorem word_eq (n : Nat) : word n = BitVec.ofNat 32 n := rfl
/-- A left shift of 32 or more gives 0 (R176). -/
theorem shlW_eq (a b : Word) : shlW a b = if b.toNat < 32 then BitVec.ofNat 32 (a.toNat * 2 ^ b.toNat) else 0 := by
  unfold shlW shAmt
  split
  · rename_i h
    rw [Nat.min_eq_left (by omega)]
    apply BitVec.eq_of_toNat_eq; simp [Nat.shiftLeft_eq]
  · rename_i h
    rw [Nat.min_eq_right (by omega)]
    apply BitVec.eq_of_toNat_eq; simp
/-- A logical right shift of 32 or more gives 0 (R176). -/
theorem shrW_eq (a b : Word) : shrW a b = if b.toNat < 32 then BitVec.ofNat 32 (a.toNat / 2 ^ b.toNat) else 0 := by
  unfold shrW shAmt
  split
  · rename_i h
    rw [Nat.min_eq_left (by omega)]
    apply BitVec.eq_of_toNat_eq
    simp only [BitVec.toNat_ushiftRight, Nat.shiftRight_eq_div_pow, BitVec.toNat_ofNat]
    exact (Nat.mod_eq_of_lt (lt_of_le_of_lt (Nat.div_le_self _ _) a.isLt)).symm
  · rename_i h
    rw [Nat.min_eq_right (by omega)]
    apply BitVec.eq_of_toNat_eq
    simp only [BitVec.toNat_ushiftRight, Nat.shiftRight_eq_div_pow]
    exact Nat.div_eq_of_lt a.isLt
/-- An arithmetic right shift of 32 or more leaves copies of the sign (R176). -/
theorem sarW_eq (a b : Word) : sarW a b =
    if b.toNat < 32 then BitVec.ofInt 32 (a.toInt / 2 ^ b.toNat) else if a.toInt < 0 then 0xFFFFFFFF else 0 := by
  unfold sarW shAmt
  have hi := BitVec.toInt_lt (x := a)
  have lo := BitVec.le_toInt (x := a)
  split
  · rename_i h
    rw [Nat.min_eq_left (by omega)]
    apply BitVec.eq_of_toInt_eq
    rw [BitVec.toInt_sshiftRight, Int.shiftRight_eq_div_pow, BitVec.toInt_ofInt]
    have e : ((2 : Nat) ^ b.toNat : Nat) = ((2 : Int) ^ b.toNat) := by push_cast; rfl
    have p : (0 : Int) < 2 ^ b.toNat := by positivity
    have u : a.toInt / 2 ^ b.toNat ≤ 2147483647 := by
      have := Int.ediv_le_ediv p (show a.toInt ≤ 2147483647 by omega)
      exact le_trans this (Int.ediv_le_self _ (by norm_num))
    have l : -2147483648 ≤ a.toInt / 2 ^ b.toNat := by
      rw [Int.le_ediv_iff_mul_le p]; norm_num at lo; nlinarith [show (1 : Int) ≤ 2 ^ b.toNat by omega]
    push_cast
    rw [Int.bmod_def]; split <;> omega
  · rename_i h
    rw [Nat.min_eq_right (by omega)]
    apply BitVec.eq_of_toInt_eq
    rw [BitVec.toInt_sshiftRight, Int.shiftRight_eq_div_pow]
    norm_num at hi lo ⊢
    split
    · simp; omega
    · simp; omega
theorem minIW_eq (a b : Word) : minIW a b = if b.toInt < a.toInt then b else a := by
  unfold minIW; split <;> split <;> first | rfl | omega
theorem maxIW_eq (a b : Word) : maxIW a b = if a.toInt < b.toInt then b else a := by
  unfold maxIW; split
  · split
    · rfl
    · exact (BitVec.eq_of_toInt_eq (by omega))
  · split
    · omega
    · rfl
theorem minNW_eq (a b : Word) : minNW a b = if b.toNat < a.toNat then b else a := by
  unfold minNW; split <;> split <;> first | rfl | omega
theorem maxNW_eq (a b : Word) : maxNW a b = if a.toNat < b.toNat then b else a := by
  unfold maxNW; split
  · split
    · rfl
    · exact (BitVec.eq_of_toNat_eq (by omega))
  · split
    · omega
    · rfl
theorem bfeNW_eq (a b : Word) : bfeNW a b = BitVec.ofNat 32 (a.toNat / 2 ^ (b.toNat % 256) % 2 ^ min (b.toNat / 256 % 256) 32) := by
  simp [bfeNW, word, wbits, bits, bfeWidth]
/-- Saturation below at zero (R184). -/
theorem sat_nonneg (a : Word) : sat 0 maxI a.toInt = if a.toInt < 0 then 0 else a := by
  have hi := BitVec.toInt_lt (x := a)
  norm_num at hi
  unfold sat maxI wordI
  split
  · rw [min_eq_right (by omega), max_eq_left (by omega)]; rfl
  · rw [min_eq_right (by omega), max_eq_right (by omega)]; simp
/-- Saturation of an unsigned word to the signed range (R184). -/
theorem sat_signed (a : Word) : sat 0 maxI a.toNat = if 2 ^ 31 ≤ a.toNat then 0x7FFFFFFF else a := by
  unfold sat maxI wordI
  split
  · rw [min_eq_left (by omega), max_eq_right (by omega)]; rfl
  · rw [min_eq_right (by omega), max_eq_right (by omega)]; simp
theorem satN_eq (k : Nat) (a : Word) : sat 0 k a.toNat = BitVec.ofNat 32 (min k a.toNat) := by
  unfold sat wordI
  rw [max_eq_right (by omega), show min (k : Int) (a.toNat : Int) = ((min k a.toNat : Nat) : Int) by omega]; exact BitVec.ofInt_natCast ..
theorem popBits_count (n v : Nat) : popBits n v = (List.range n).countP fun i => v.testBit i := by
  induction n generalizing v with
  | zero => rfl
  | succ n ih =>
    rw [List.range_succ_eq_map, List.countP_cons, List.countP_map]
    simp only [popBits, ih]
    have : (fun i => (v / 2).testBit i) = ((fun i => v.testBit i) ∘ Nat.succ) := by
      funext i; simp [Nat.testBit_succ]
    rw [this]
    have : v % 2 = if v.testBit 0 = true then 1 else 0 := by
      rw [Nat.testBit_zero]; rcases Nat.mod_two_eq_zero_or_one v with h | h <;> simp [h]
    rw [this]; simp only [Function.comp_def]; omega
/-- popc counts the 1 bits (R184). -/
theorem popcW_eq (a : Word) : popcW a = BitVec.ofNat 32 ((List.range 32).countP fun i => a.getLsbD i) := by
  unfold popcW word; rw [popBits_count]; rfl

end Sys2Proof.Machine
end

