-- ==== Sys2Proof/Tests/Slice0.lean ====
section
/-!
SUPPORT. The sitting's own tests: ill-formed terms that are refused, words written out from the spec's formats, one step on small states, and for
each statement states and operands that meet its hypotheses.
-/
set_option maxRecDepth 100000
open Sys2Proof Sys2Proof.Machine
namespace Sys2Proof.Tests
set_option Elab.async false

/-! ## Small states -/

/-- A fragment of 32 lanes at code address 4. -/
def tFrag : Frag := { members := 0xFFFFFFFF, exec := 0xFFFFFFFF, pc := 4, hword := word plainHeader }
/-- One block of one group on core 0 in partition 0, which is active. -/
def tState (f : Frag) (g : Group → Group) (b : Block → Block) (s : State → State) : State :=
  s { State.fresh_ {} with
      groups := [(0, g { gid := 1, block := 1, units := 12, acch := 16, live := 0xFFFFFFFF, started := true, table := [(0, f)] })]
      blocks := [(1, b { cluster := 1, code := firstCode, alive := 1 })], clusters := [(1, { blocks := [1] })], fresh := 2
      cores := [(0, { division := some (16, 24, 8) })], parts := [(0, { state := .active, key := 1 })] }
/-- The current fragment's environment. -/
def envOf (s : State) : Env := (envAt s s.cur.1 s.cur.2).getD ⟨s, 0, {}, 0, {}, {}⟩
theorem at_envOf (s : State) (h : (envAt s s.cur.1 s.cur.2).isSome = true) : At s (envOf s) := by
  unfold At envOf; cases hh : envAt s s.cur.1 s.cur.2 <;> simp_all

/-- The plain state, and its environment. -/
def s0 : State := tState tFrag id id id
def x0 : Env := envOf s0
/-- The same with a fetched code block at virtual address 0. -/
def coded (bs : List Byte) : State := tState tFrag (fun g => { g with fetched := [(codeKey firstCode .user 0, bs)], preds := [(1, 0xFFFF)] }) id id
/-- At supervisor level, with user values set aside after a trap of a kind. -/
def handler (k : TrapKind) : State :=
  tState tFrag (fun g => { g with level := .supervisor, preds := [(1, 0xFFFF)]
                                  bank := some { trap := { code := 1, kind := k }, gvals := (List.range' 56 8).map fun r => (r, 0), recs := (List.range' 4 4).map fun b => (b, 0), frag := tFrag } }) id id
theorem at_s0 : At s0 x0 := at_envOf _ (by decide +kernel)
theorem at_handler : At (handler .before) (envOf (handler .before)) := at_envOf _ (by decide +kernel)
/-- Bytes laid from an address, those that are not zero: memory lists no others. -/
def nz (a : Nat) (bs : List Byte) : List Host.Cell := (cellsAt a bs).filter fun q => q.2 != 0

/-! ## Ill-formed terms -/

/-- One term for each check of WellFormed, refused for that check alone. -/
theorem test_ill_formed : ∀ i ∈ ([
    .add 0 0 96 0, .addG 0 0 64 0, .addG 64 0 0 0, .addG 0 126 0 0, .add64 0 0 1 0, .add64 1 0 0 0, .add64G 0 0 63 0, .add64G 0 63 0 0,
    .barSync 16 0, .barSync 15 17, .barArrive 16 0, .cmp 0 0 10 0 0, .cmpG 0 0 15 0 0, .fcmp 0 0 8 0 0, .fenceAcq 0 5, .fenceRel 0 7, .atom 0 0 0 15 0 0 0, .atom 0 0 1 9 0 1 0,
    .red 0 0 8 0 0 0, .red 0 0 9 0 0 0, .redDet 0 0 1 0 0 0, .cinv 0 3 0, .prefetch 0 0 0 0, .prefetch 0 4 0 0, .rsub 2 0 0, .copy 0 4 0, .arm 0 4 0, .spawn 0 2 0 0, .spawn 0 0 85 0,
    .rinv 0 0 84 0, .iwiden 0 96 0, .iwiden 0 64 1, .ishadow 64 0 1, .ishadow 0 2 0, .mwr 0 0 96 0, .clauseHeader 0 0 12 0 0, .clauseHeader 0 0 0 14 0, .kcas 0 1, .ldSpill 0 64 0 0,
    .reservedEncoding 0x00000001, .reservedEncoding 0x00000002] : List Instr), i.wellFormed = false := by decide +kernel
theorem test_well_formed : ∀ i ∈ ([
    .add 127 127 95 7, .addG 127 63 63 7, .add64 127 94 94 0, .add64G 127 62 62 0, .barSync 15 16, .cmp 0 0 9 7 7, .fcmp 0 0 7 0 0, .fenceAcq 0 4, .atom 0 0 1 9 0 94 0, .red 0 0 7 0 0 0,
    .redDet 0 0 12 0 0 0, .cinv 0 2 0, .prefetch 0 3 0 0, .rsub 60 0 0, .copy 0 56 0, .spawn 0 60 84 0, .rinv 0 63 83 0, .iwiden 62 95 0, .iwiden 62 63 1, .ishadow 127 60 0, .mwr 0 0 127 0,
    .clauseHeader 0 0 11 15 0xFFF, .kcas 0 62] : List Instr), i.wellFormed = true := by decide +kernel

/-! ## Decoding: words put together from the fields of R149 to R155 and the opcode bytes of R162 to R164 -/

/-- Bit by bit: add v1, v2, g4 (majors 0x00); its twin; cmpi.lt.n p2, v5, 40; the 16-bit addi v33, -3; a clause header that waits for flag 0. -/
theorem test_decode_by_hand : decodeTableWord 32 0b1100100_0000010_0000001_000_00000001 = some (.add 100 2 1 0) ∧
    decodeTableWord 32 0b0000100_0000010_0000001_000_10000001 = some (.addG 4 2 1 0) ∧
    decodeTableWord 32 0b0101000_0000101_0110_010_000_00111011 = some (.cmpi 40 5 6 2 0) ∧
    decodeTableWord 16 0b11101_100001_0011_0 = some (.addi16 29 33) ∧
    decodeTableWord 32 0b0000_1111_1111_000000000001_11111111 = some (.clauseHeader 0 0 15 15 1) := by decide +kernel
/-- Every constructor: three-register and pair instructions. -/
theorem test_decode_0 : ∀ q ∈ ([
    (32, 0xE79AD501, .add 115 102 90 5), (32, 0x80D13B81, .addG 64 52 39 3), (32, 0x1C07A803, .sub 14 1 117 0), (32, 0xB73E1683, .subG 91 79 66 6),
    (32, 0x52708305, .mul 41 28 16 3), (32, 0xEFAAE985, .mulG 119 106 93 1), (32, 0x88DD5E07, .mulhiN 68 55 43 6), (32, 0x2417C487, .mulhiNG 18 5 120 4),
    (32, 0xBF4E3109, .mulhiI 95 83 70 1), (32, 0x5A809F89, .mulhiIG 45 32 19 7), (32, 0xF5BB0C0B, .mad 122 110 97 4), (32, 0x90ED728B, .madG 72 59 46 2),
    (32, 0x2A27E70D, .minI 21 9 124 7), (32, 0xC75A558D, .minIG 99 86 74 5), (32, 0x6090BA0F, .maxI 48 36 23 2), (32, 0xFDC7288F, .maxIG 126 113 101 0),
    (32, 0x96FD9611, .minN 75 63 50 6), (32, 0x32300391, .minNG 25 12 0 3), (32, 0xCD6A6913, .maxN 102 90 77 1), (32, 0x689CDE93, .maxNG 52 39 27 6),
    (32, 0x5D74415, .and 2 117 104 4), (32, 0x9F09B195, .andG 79 66 54 1), (32, 0x3A401F17, .or 29 16 3 7), (32, 0xD5768C97, .orG 106 93 81 4),
    (32, 0x70ACF219, .xor 56 43 30 2), (32, 0xBE76799, .xorG 5 121 108 7), (32, 0xA719CD1B, .andn 83 70 57 5), (32, 0x40503A9B, .andnG 32 20 7 2),
    (32, 0xDD86A81D, .shl 110 97 85 0), (32, 0x76BD159D, .shlG 59 47 34 5), (32, 0x13F3831F, .shr 9 124 112 3), (32, 0xAD29E99F, .shrG 86 74 61 1),
    (32, 0x485C5E21, .sar 36 23 11 6), (32, 0xE396C4A1, .sarG 113 101 88 4), (32, 0x7EC93123, .bfeN 63 50 38 1), (32, 0x18039FA3, .bfeNG 12 0 115 7),
    (32, 0xB5360C25, .bfeI 90 77 65 4), (32, 0x506C72A5, .bfeIG 40 27 14 2), (32, 0xEBA2E727, .bfi 117 104 92 7), (32, 0x86D94DA7, .bfiG 67 54 41 5),
    (32, 0x2013BA29, .bytemix 16 4 119 2), (32, 0xBD4620A9, .bytemixG 94 81 68 0), (32, 0x567C952B, .sel 43 31 18 5), (32, 0xF3B2FBAB, .selG 121 108 95 3),
    (32, 0x8CE9682D, .divN 70 58 45 0), (32, 0x281FDEAD, .divNG 20 7 123 6), (32, 0xC356432F, .remN 97 85 72 3), (32, 0x5E88B1AF, .remNG 47 34 22 1),
    (32, 0xF9C31F31, .divI 124 112 99 7), (32, 0x94F58CB1, .divIG 74 61 49 4), (32, 0x2E2FF233, .remI 23 11 126 2), (32, 0xCB6267B3, .remIG 101 88 76 7),
    (32, 0x6698CD35, .add64 51 38 25 5), (32, 0x1CF3AB5, .add64G 0 115 103 2), (32, 0x9D05A037, .sub64 78 65 52 0), (32, 0x363815B7, .sub64G 27 14 2 5),
    (32, 0xD373DE39, .cmp 105 92 15 3 6), (32, 0x547427B9, .cmpG 42 29 0 4 7), (32, 0xD578683B, .cmpi 106 94 1 5 0), (32, 0x567CB1BB, .cmpiG 43 31 2 6 1)]
    : List (Nat × Nat × Instr)), decodeTableWord q.1 q.2.1 = some q.2.2 ∧ encode q.2.2 = some (q.1, q.2.1) := by decide +kernel
/-- Every constructor: immediates, compares, unary and predicate instructions. -/
theorem test_decode_1 : ∀ q ∈ ([
    (32, 0x1B3033D, .mov 108 96 3), (32, 0x119D5BD, .movG 70 58 5), (32, 0x284A73D, .not 33 20 7), (32, 0x3EF72BD, .notG 123 110 2),
    (32, 0x556443D, .neg 85 72 4), (32, 0x4BD16BD, .negG 47 34 6), (32, 0x627E83D, .abs 9 125 0), (32, 0x78EBABD, .absG 99 87 2),
    (32, 0x8F58C3D, .popc 61 49 4), (32, 0x8605EBD, .popcG 24 11 6), (32, 0xBCB293D, .clz 114 101 1), (32, 0xB31FBBD, .clzG 76 63 3),
    (32, 0xC98CD3D, .brev 38 25 5), (32, 0xC03A7BD, .brevG 0 116 7), (32, 0x116A713D, .cvtI8I32 90 78 1), (32, 0x10D543BD, .cvtI8I32G 53 40 3),
    (32, 0x123C153D, .cvtN8I32 15 2 5), (32, 0x13A6E0BD, .cvtN8I32G 105 92 0), (32, 0x150DB23D, .cvtI16I32 67 54 2), (32, 0x147484BD, .cvtI16I32G 29 16 4),
    (32, 0x17DF5E3D, .cvtN16I32 119 107 6), (32, 0x174628BD, .cvtN16I32G 81 69 0), (32, 0x18B0FA3D, .cvtN32I32 44 31 2),
    (32, 0x181BCCBD, .cvtN32I32G 6 121 4), (32, 0x1B829F3D, .cvtI32N32 96 83 7), (32, 0x1AE969BD, .cvtI32N32G 58 45 1), (32, 0x1C50433D, .cvtN8N32 20 8 3),
    (32, 0x1DBB15BD, .cvtN8N32G 110 98 5), (32, 0x1F21E73D, .cvtN16N32 72 60 7), (32, 0x1E8CB1BD, .cvtN16N32G 35 22 1), (32, 0x14043F, .pand 5 0 4),
    (32, 0x1C16BF, .pandG 7 2 6), (32, 0x204203F, .por 1 4 0), (32, 0x20C3ABF, .porG 3 7 2), (32, 0x4140C3F, .pxor 5 1 4), (32, 0x41C1EBF, .pxorG 7 3 6),
    (32, 0x608283F, .pandn 2 5 0), (32, 0x6103BBF, .pandnG 4 7 3), (32, 0x8180D3F, .pnot 6 1 5), (32, 0x8001FBF, .pnotG 0 3 7), (32, 0xA08313F, .pmov 2 6 1),
    (32, 0xA1003BF, .pmovG 4 0 3), (32, 0xCDC153F, .pset 55 2 5), (32, 0xC4427BF, .psetG 17 4 7), (32, 0xD77A9541, .addi 107 94 82 5),
    (32, 0x70B0FBC1, .addiG 56 44 31 3), (32, 0xDE76843, .muli 6 121 109 0), (32, 0xA71DD6C3, .muliG 83 71 58 6), (32, 0x42504345, .andi 33 20 8 3),
    (32, 0xDD8AA9C5, .andiG 110 98 85 1), (32, 0x78BD1E47, .ori 60 47 35 6), (32, 0x15F784C7, .oriG 10 125 112 4), (32, 0xAF29F149, .xori 87 74 62 1),
    (32, 0x4A605FC9, .xoriG 37 24 11 7), (32, 0xE59ACC4B, .shli 114 102 89 4), (32, 0x80CD32CB, .shliG 64 51 38 2), (32, 0x1A07A74D, .shri 13 1 116 7),
    (32, 0xB73A0DCD, .shriG 91 78 65 5), (32, 0x50707A4F, .sari 40 28 15 2), (32, 0xEDA6E8CF, .sariG 118 105 93 0)]
    : List (Nat × Nat × Instr)), decodeTableWord q.1 q.2.1 = some q.2.2 ∧ encode q.2.2 = some (q.1, q.2.1) := by decide +kernel
/-- Every constructor: floating point, lanes and control. -/
theorem test_decode_2 : ∀ q ∈ ([
    (32, 0x86DD5551, .fadd 67 55 42 5), (32, 0x2213C353, .fsub 17 4 120 3), (32, 0xBD4A2955, .fmul 94 82 69 1), (32, 0x587C9E57, .ffma 44 31 19 6),
    (32, 0xF3B70459, .fmin 121 109 96 4), (32, 0x8EE9715B, .fmax 71 58 46 1), (32, 0x2A23DF5D, .pkaddF16 21 8 123 7), (32, 0xC5564C5F, .pkmulF16 98 85 73 4),
    (32, 0x608CB261, .pkfmaF16 48 35 22 2), (32, 0xFBC32763, .pkaddBf16 125 112 100 7), (32, 0x96F98D65, .pkmulBf16 75 62 49 5),
    (32, 0x3033FA67, .pkfmaBf16 24 12 127 2), (32, 0xCD670369, .fcmp 102 89 12 0 3), (32, 0x9CD56B, .fneg 39 26 5), (32, 0x207A06B, .fabs 1 116 0),
    (32, 0x56E726B, .frcp 91 78 2), (32, 0x6D5446B, .fsqrt 53 40 4), (32, 0x83C1E6B, .frsq 15 3 6), (32, 0xBA6E86B, .fexp2 105 93 0),
    (32, 0xD11BA6B, .flog2 68 55 2), (32, 0xE788C6B, .frint 30 17 4), (32, 0x21E35F6B, .cvtF32I32 120 107 7), (32, 0x234A296B, .cvtF32N32 82 69 1),
    (32, 0x24B0FB6B, .cvtI32F32 44 31 3), (32, 0x261BD56B, .cvtN32F32 6 122 5), (32, 0x2982A76B, .cvtF16F32 96 84 7), (32, 0x2AED716B, .cvtBf16F32 59 46 1),
    (32, 0x2C54436B, .cvtF32F16 21 8 3), (32, 0x2FBF166B, .cvtF32Bf16 111 98 6), (32, 0x3125E06B, .cvtE4m3F32 73 60 0),
    (32, 0x328CBA6B, .cvtE5m2F32 35 23 2), (32, 0x35F78C6B, .cvtF32E4m3 125 113 4), (32, 0x375E5E6B, .cvtF32E5m2 87 75 6),
    (32, 0x38C9286B, .cvtBf16F16 50 37 0), (32, 0x3A33FA6B, .cvtF16Bf16 12 127 2), (32, 0x3D9ACD6B, .cvtI8F32 102 89 5), (32, 0x3F019F6B, .cvtN8F32 64 51 7),
    (32, 0x34380C71, .xpick 26 14 1 4), (32, 0xD16E7273, .xrise 104 91 78 2), (32, 0x6AA4E775, .xfall 53 41 28 7), (32, 0x7DB5577, .xflip 3 118 106 5),
    (32, 0x1422779, .qswapH 80 68 7), (32, 0x2A8F179, .qswapV 42 30 1), (32, 0x417C379, .qswapD 5 120 3), (32, 0x97E9679, .qbcast0 95 82 6),
    (32, 0xAE56079, .qbcast1 57 44 0), (32, 0xC4C3279, .qbcast2 19 6 2), (32, 0xFB70C79, .qbcast3 109 97 4), (32, 0x1C1E7B, .xall 7 3 6),
    (32, 0x204287B, .xany 1 5 0), (32, 0x4103A7B, .xsame 4 7 2), (32, 0x61A4D7B, .xmask 6 73 5), (32, 0x8C11F7B, .xeq 48 35 7),
    (32, 0xA2BE97B, .xeqall 10 125 1), (32, 0xC12C37B, .xcount 4 88 3), (32, 0xF9957D, .rdxAdd 62 50 5), (32, 0x264677D, .rdxMinI 25 12 7),
    (32, 0x5CF317D, .rdxMaxI 115 102 1), (32, 0x736047D, .rdxMinN 77 64 4), (32, 0x89CD67D, .rdxMaxN 39 26 6)]
    : List (Nat × Nat × Instr)), decodeTableWord q.1 q.2.1 = some q.2.2 ∧ encode q.2.2 = some (q.1, q.2.1) := by decide +kernel
/-- Every constructor: memory, records and shadows. -/
theorem test_decode_3 : ∀ q ∈ ([
    (32, 0xA07A87D, .rdxAnd 1 117 0), (32, 0xD6E7A7D, .rdxOr 91 79 2), (32, 0xED54C7D, .rdxXor 53 41 4), (32, 0x10401E7D, .rdxFadd 16 3 6),
    (32, 0x13AAE87D, .rdxFmin 106 93 0), (32, 0x1511BB7D, .rdxFmax 68 55 3), (32, 0x3C44287F, .readlane 30 17 5 0), (32, 0x597E967F, .writelane 12 95 82 6),
    (32, 0x80E5607F, .readfirst 57 44 0), (32, 0x8FEB69D1, .ldX1 1 7 122 109 1), (32, 0x10ED72D3, .ldX2 0 8 59 46 2), (32, 0x91F37BD5, .ldX4 1 8 124 111 3),
    (32, 0x12F583D7, .stX1 0 9 61 48 3), (32, 0x95FB8CD9, .stX2 1 10 126 113 4), (32, 0x16FD95DB, .stX4 0 11 63 50 5),
    (32, 0xA79AD5DD, .atom 1 0 1 3 102 90 5), (32, 0xE6C71DF, .red 0 0 7 27 14 1), (32, 0xB73E16DF, .redDet 1 0 11 79 66 6),
    (32, 0xB8401FE1, .ldg 1 28 16 3 7), (32, 0x3B4627E3, .stg 0 29 81 68 7), (32, 0x8BE367E5, .atomg 1 0 0 5 120 108 7),
    (32, 0x60E568E7, .ldAcq 0 6 57 45 0), (32, 0xF3EB71E7, .stRel 1 7 122 110 1), (32, 0x40001E7, .fenceAcq 0 0), (32, 0xE40002E7, .fenceRel 1 6),
    (32, 0x540003E7, .fenceAr 0 5), (32, 0x860000E7, .icinv 1), (32, 0x780003E7, .cinv 0 7 3), (32, 0x2AF400E7, .prefetch 0 2 61 0),
    (32, 0xC5C56E7, .stSpill 0 23 10 6), (32, 0x8F96C3E7, .ldSpill 1 101 88 3), (32, 0x1C10E9, .ldrec 7 2), (32, 0x29860E9, .rsub 38 1 4),
    (32, 0x40398E9, .rdrec 0 115), (32, 0x79AD1E9, .iwiden 102 90 1), (32, 0x80208E9, .iunpin 65 0), (32, 0xA9CD8E9, .ishadow 39 27 0),
    (32, 0xC0009E9, .itop 1 1), (32, 0xFA021E9, .ichk 104 4 1), (32, 0x426361EB, .brcV 66 1590 1), (32, 0x41D8EB, .brcG 1053 0),
    (32, 0x75A406ED, .bra 3854851), (32, 0xEE81EFED, .call 7815415), (32, 0xEF, .ret), (32, 0x3A800EF, .calli 106), (32, 0x40005EF, .exit 5),
    (32, 0x60000EF, .yield), (32, 0x94400EF, .brk 81), (32, 0xB1000EF, .trap 68 0), (32, 0xCAC00EF, .setfmt 43), (32, 0xE00F0EF, .getfmt 30),
    (32, 0x104800EF, .setexec 18), (32, 0x120028EF, .getexec 5), (32, 0x15E760EF, .barSync 121 108), (32, 0x177E98EF, .barArrive 95 83),
    (32, 0x180000EF, .cbarSync), (32, 0x1A19C8EF, .kget 6 57), (32, 0x1C3500EF, .kset 13 32), (32, 0x1E1038EF, .kadd 4 7), (32, 0x202B70EF, .kcas 10 110)]
    : List (Nat × Nat × Instr)), decodeTableWord q.1 q.2.1 = some q.2.2 ∧ encode q.2.2 = some (q.1, q.2.1) := by decide +kernel
/-- Every constructor: matrix, copies, tasks, the system and 16-bit instructions. -/
theorem test_decode_4 : ∀ q ∈ ([
    (32, 0x815243F1, .mbarInit 1 84 72 3), (32, 0x8288A9F1, .mbarArrive 1 34 21 1), (32, 0x5C31EF1, .mbarWait 0 112 99 6),
    (32, 0x6F584F1, .mbarTest 0 61 48 4), (32, 0x5C00F3, .gang 23), (32, 0xF8AD81F3, .mma 1 30 1 5 88), (32, 0x7D3192F3, .tmma 0 31 2 6 25),
    (32, 0x3F3, .mzero 0 0), (32, 0x9D3604F3, .mld 1 7 2 13 1), (32, 0x21B9ADF3, .mst 0 8 3 14 0 53), (32, 0x713D86F3, .mrd 0 28 79 3),
    (32, 0x267406F3, .mrdSt 0 9 29), (32, 0xDDD07F3, .mwr 0 3 119 2), (32, 0x14404F5, .copy 0 81 4), (32, 0x2AC07F5, .cstep 0 43 7),
    (32, 0x41401F5, .cwait 0 5 1), (32, 0x77C18F5, .ctest 0 95 3), (32, 0x8E800F5, .cadd 0 58), (32, 0x8080A7F7, .spawn 1 32 20 7),
    (32, 0x83B801F7, .join 1 110 1), (32, 0x840000F7, .exitJ 1), (32, 0x6ED7AF7, .rinv 0 59 47 2), (32, 0x827E0F7, .rinvT 0 9 124 0),
    (32, 0x8B5E50F7, .arm 1 87 74), (32, 0x8CC520F7, .disarm 1 49 36), (32, 0x8E2FF2F7, .post 1 11 126 2), (32, 0xA43A65F9, .lit 10762853),
    (32, 0xFB, .rteFix), (32, 0x400FB, .rteSkip), (32, 0x800FB, .rteRetry), (32, 0xC00FB, .rteKill), (32, 0x36267FB, .sread 88 76 7),
    (32, 0x4C931FB, .swrite 50 38 1), (32, 0x63400FB, .saveGroup 13 0), (32, 0x7CC0FFB, .saveBlock 115 7), (32, 0x96806FB, .restoreGroup 90 6),
    (32, 0x9040CFB, .restoreBlock 65 4), (32, 0xAA0D8FB, .pgrefRead 40 27), (32, 0xA3811FB, .pgrefInc 14 2), (32, 0xBD74AFB, .pgrefDec 117 105),
    (32, 0xD7278FB, .cresume 92 79), (32, 0x123243FD, .nop32 1192515), (32, 0xD0D04FF, .clauseHeader 0 0 13 0 3332), (16, 0xBD40, .mov16 23 42),
    (16, 0xF222, .add16 30 17), (16, 0x2F04, .sub16 5 56), (16, 0x5BE6, .addi16 11 31), (16, 0x90A8, .and16 18 5), (16, 0xCD8A, .or16 25 44),
    (16, 0x26C, .xor16 0 19), (16, 0x374E, .shli16 6 58), (16, 0x6C30, .shri16 13 33), (16, 0xA0F2, .sari16 20 7), (16, 0xDDD4, .minI16 27 46),
    (16, 0xAB6, .maxI16 1 21), (16, 0x4798, .fadd16 8 60), (16, 0x7C5A, .fsub16 15 34), (16, 0xB13C, .fmul16 22 9), (16, 0xEE1E, .fmax16 29 48)]
    : List (Nat × Nat × Instr)), decodeTableWord q.1 q.2.1 = some q.2.2 ∧ encode q.2.2 = some (q.1, q.2.1) := by decide +kernel

/-! ## One step -/

/-- The plain state with v0, v1 and g0, g1 holding given words in lane 0, after one instruction: v3 in lane 0, and g3. -/
def after (a b : Word) (i : Instr) : Option (Word × Word × Word) :=
  match exec i (tState tFrag (fun g => { g with vregs := [(0, a), (32, b)], gregs := [(0, a), (1, b)] }) id id) with
  | .next t => (envAt t 0 0).map fun x => (vreg x.g 3 0, greg x.g 3, x.f.pc)
  | _ => none
/-- R180: -7 divided by 2 gives -3 with remainder -1. R99: a zero divisor. R177: width 0. R183: -1 as an unsigned immediate. -/
theorem test_divI : after (0 - 7) 2 (.divI 1 0 3 0) = some (0 - 3, 0, 8) := by decide +kernel
theorem test_remI : after (0 - 7) 2 (.remIG 1 0 3 0) = some (0, 0 - 1, 8) := by decide +kernel
theorem test_divN_zero : after 5 0 (.divN 1 0 3 0) = some (0xFFFFFFFF, 0, 8) := by decide +kernel
theorem test_bfe_width_zero : after 0xFFFFFFFF 0 (.bfeI 1 0 3 0) = some (0, 0, 8) := by decide +kernel
theorem test_shift_out : after 0xFFFFFFFF 32 (.shl 1 0 3 0) = some (0, 0, 8) := by decide +kernel
theorem test_sar_out : after 0x80000000 40 (.sar 1 0 3 0) = some (0xFFFFFFFF, 0, 8) := by decide +kernel
theorem test_add_wraps : after 0xFFFFFFFF 1 (.addG 1 0 3 0) = some (0, 0, 8) := by decide +kernel
theorem test_mulhi : after 0x80000000 0x80000000 (.mulhiI 1 0 3 0) = some (0x40000000, 0, 8) := by decide +kernel
/-- 1.5 plus 2.25 is 3.75, and a half is exact in fp16. -/
theorem test_fadd : after 0x3FC00000 0x40100000 (.fadd 1 0 3 0) = some (0x40700000, 0, 8) := by decide +kernel
theorem test_cvtF16F32 : after 0x3F000000 0 (.cvtF16F32 0 3 0) = some (0x3800, 0, 8) := by decide +kernel

/-! ## Directories and home slices -/

/-- "The directory at work": cores 3, 9, 17 and 20 of a die read line 1,000, then 41 and 58; core 9's write then sends 39 invalidations and
splits the 64 KiB entry into the line's own and nine siblings; granted, the line's entry holds core 9 alone. -/
def readBy (hs : List Nat) : State := hs.foldl (fun s h => readDir s 2 1000 h) s0
theorem test_directory_readers : (dirOf (readBy [3, 9, 17, 20]) 2).1 = [{ base := 512, size := 9, ptrs := [3, 9, 17, 20] }] ∧
    (dirOf (readBy [3, 9, 17, 20, 41]) 2).1 = [{ base := 512, size := 9, coarse := true, vector := 0x27 }] ∧
    (dirOf (readBy [3, 9, 17, 20, 41, 58]) 2).1 = [{ base := 512, size := 9, coarse := true, vector := 0xA7 }] := by decide +kernel
/-- With ten entries or fewer in its bank, a split frees none. -/
theorem makeEntries_few {s : State} {dir line : Nat} (h : ((dirOf s dir).1.filter fun e => dirBank dir e.base == dirBank dir line).length +
    (match ((dirOf s dir).1.filter fun e => dirBank dir e.base == dirBank dir line).find? (·.covers line) with | some e => e.size | none => 0) ≤ 10) :
    makeEntries s dir line = s := by
  have none : ∀ (n m : Nat) (l : List DirEntry), n ≤ 10 → l.take (n - (10 + m)) = [] := fun n m l h => by
    rw [Nat.sub_eq_zero_of_le (Nat.le_trans h (Nat.le_add_right _ _)), List.take_zero]
  unfold makeEntries bankRoom
  exact congrArg (List.foldl (fun s e => freeRegion s dir e) s) (none _ _ _ h)
theorem conflictAt_few {s : State} {dir line w : Nat} {os : List Nat} (h : makeEntries s dir line = s) :
    conflictAt s dir line w os = setDir s dir (dirUse ((dirOf s dir).1.flatMap fun x => if x.covers line then splitDown x.size x line else [x]) line id)
      ((dirOf s dir).2 ++ [{ line := line, writer := w, waiting := os }]) := by
  unfold conflictAt; rw [h]
/-- The holders that core 9's write asks, and the state once it has been made. -/
def askedOf : List Nat := (allHolders 2 { base := 512, size := 9, coarse := true, vector := 0xA7 }).filter (· != 9)
theorem test_directory_conflict :
    let s := conflictAt (readBy [3, 9, 17, 20, 41, 58]) 2 1000 9 askedOf
    let asked := (dirOf s 2).2.flatMap (·.waiting)
    let t := asked.foldl (fun s h => match execInvalidationAnswer 2 1000 h s with | .next t => t | _ => s) s
    asked.length = 39 ∧ (dirOf s 2).1.length = 10 ∧ (dirOf s 2).1.all (·.vector == 0xA7) = true ∧
    (dirOf t 2).1.find? (fun e => e.size == 0 && e.base == 1000) = some { base := 1000, size := 0, ptrs := [9] } ∧ (dirOf t 2).2 = [] := by
  rw [conflictAt_few (makeEntries_few (by decide +kernel))]; decide +kernel
/-- "Splitting a domain": four lines' homes under the four masks of descriptor 3, and under the three of its new ranges. -/
def splitWords (slice : Nat) (i : Nat) : Nat :=
  match i with | 4 => slice | 6 => 0x201 | 8 => 0x402 | 10 => 0x804 | 12 => 0x1008 | _ => 0
theorem test_home_slices :
    [0x11FFE0000, 0x11FFE0400, 0x120000000, 0x120000400, 0x120000080].map (domHome (splitWords 0x80000430)) = [62, 54, 48, 56, 49] ∧
    [0x11FFE0000, 0x11FFE0400].map (domHome (splitWords 0x80000330)) = [54, 54] ∧
    [0x120000000, 0x120000400, 0x120000080].map (domHome (splitWords 0x80000338)) = [56, 56, 57] := by decide +kernel

/-! ## States that meet the hypotheses of the statements -/

theorem witness_ThreeRegisterResults : At s0 x0 ∧ Vec2Ok x0 127 126 0 7 false ∧ Vec2Ok x0 95 0 95 0 false ∧ Grp2Ok x0 127 63 63 7 false := by
  refine ⟨at_s0, ?_⟩; unfold Vec2Ok Grp2Ok Ready; decide +kernel
theorem witness_PairAndSelectResults : At s0 x0 ∧ Vec2Ok x0 127 0 95 7 true ∧ VecBfiOk x0 94 95 95 7 ∧ Vec64Ok x0 94 127 94 7 ∧
    Grp2Ok x0 63 127 63 7 true ∧ GrpBfiOk x0 62 63 63 7 ∧ Grp64Ok x0 62 127 62 7 := by
  refine ⟨at_s0, ?_⟩; unfold Vec2Ok VecBfiOk Vec64Ok Grp2Ok GrpBfiOk Grp64Ok Ready; decide +kernel
theorem witness_ImmediateAndLitResults : At s0 x0 ∧ Vec1Ok x0 127 95 7 ∧ Grp1Ok x0 127 63 7 ∧
    (let x := envOf (coded (List.replicate 8 0 ++ leOut 4 0x10001841))
     let w := peekWord x.s x.b x.g (x.f.pc + 4)
     At x.s x ∧ w.toNat % 256 = 0x41 ∧ bodyOffset x.f (x.f.pc.toNat + 8) ≤ 64 ∧
     Vec1Ok x (BitVec.ofNat 7 (w.toNat / 2 ^ 18)) (BitVec.ofNat 7 (w.toNat / 2 ^ 11)) (BitVec.ofNat 3 (w.toNat / 2 ^ 8))) ∧
    (let x := envOf (coded (List.replicate 12 0))
     At x.s x ∧ (peekWord x.s x.b x.g (x.f.pc + 4)).toNat % 2 = 0) := by
  refine ⟨at_s0, ?_, ?_, ⟨at_envOf _ (by decide +kernel), ?_⟩, ⟨at_envOf _ (by decide +kernel), ?_⟩⟩ <;> (try unfold Vec1Ok) <;> (try unfold Grp1Ok) <;> (try unfold Ready) <;> decide +kernel
theorem witness_CompareAndPredicateResults : At s0 x0 ∧ VecCmpOk x0 (some 127) 127 9 7 7 ∧ VecCmpOk x0 none 0 0 0 0 ∧ GrpCmpOk x0 (some 63) 127 9 7 7 ∧
    GrpCmpOk x0 none 0 0 0 0 ∧ PlainOk x0 true [pcode 7, pcode 0] [pcode 7] ∧ PlainOk x0 true ([pcode 7] ++ vguard 7) [pcode 0] ∧
    PlainOk x0 (srcOk x0.g 127) ([vcode 127] ++ vguard 7) [pcode 7] ∧ PlainOk x0 true [gpcode 7, gpcode 0] [gpcode 0] ∧
    PlainOk x0 true ([gpcode 7] ++ gguard 7) [gpcode 7] ∧ PlainOk x0 (gsOk 127) ([gcode 127] ++ gguard 7) [gpcode 7] := by
  refine ⟨at_s0, ?_⟩; unfold VecCmpOk GrpCmpOk PlainOk Ready; decide +kernel
theorem witness_UnaryResults : At s0 x0 ∧ Vec1Ok x0 126 95 7 ∧ Grp1Ok x0 63 63 7 := by
  refine ⟨at_s0, ?_⟩; unfold Vec1Ok Grp1Ok Ready; decide +kernel
theorem witness_SixteenBitResults : At s0 x0 ∧ HalfOk x0 (some 31) 63 false ∧ HalfOk x0 (some 0) 0 true ∧ HalfOk x0 none 63 true := by
  refine ⟨at_s0, ?_⟩; unfold HalfOk Ready; decide +kernel
theorem witness_FloatResults : At s0 x0 ∧ Vec2Ok x0 127 95 95 7 false ∧ Vec2Ok x0 95 95 95 7 true ∧
    PlainOk x0 ((7#4).toNat ≤ 7 && srcOk x0.g 127 && srcOk x0.g 95) ([vcode 127, vcode 95] ++ vguard 7) [pcode 7] ∧ Vec1Ok x0 95 95 7 := by
  refine ⟨at_s0, ?_⟩; unfold Vec2Ok Vec1Ok PlainOk Ready; decide +kernel
theorem witness_CrossLaneMoves : At s0 x0 ∧ (dstOk x0.g 95 && srcOk x0.g 127 && srcOk x0.g 0) = true ∧
    ReadyFor x0 ([vcode 127, vcode 0] ++ [95] ++ vguard 7) [95] (pickReads x0 127 0 95 7 fun l => some (l - l % 32)) ∧
    Ready x0 ([vcode 127] ++ gguard 7) [128 + 63] (lane1 31) ∧ (gdOk 63 && srcOk x0.g 127) = true ∧
    PlainOk x0 (gdOk 63 && srcOk x0.g 0) ([vcode 0] ++ gguard 0) [128 + 63] ∧ PlainOk x0 (dstOk x0.g 95 && gsOk 127) ([gcode 127] ++ gguard 7) [95] ∧
    (gpred x0.g 0 && !absent x0 31) = true ∧ inMask x0.f.members 31 = true := by
  refine ⟨at_s0, ?_⟩; unfold PlainOk Ready; decide +kernel
/-- writelane to a lane of the group outside the fragment's members. -/
theorem witness_CrossLaneMoves_outside :
    let x := envOf (tState { tFrag with members := 1, exec := 1 } id id id)
    At x.s x ∧ PlainOk x (dstOk x.g 95 && gsOk 127) ([gcode 127] ++ gguard 0) [95] ∧ (gpred x.g 0 && !absent x 31) = true ∧ inMask x.f.members 31 = false := by
  refine ⟨at_envOf _ (by decide +kernel), ?_⟩; unfold PlainOk Ready; decide +kernel
theorem witness_VotesAndReductions : At s0 x0 ∧ PlainOk x0 true ([pcode 7] ++ vguard 7) [pcode 7] ∧ PlainOk x0 (dstOk x0.g 95) ([pcode 0] ++ vguard 0) [95] ∧
    Vec1Ok x0 127 95 7 ∧ PlainOk x0 (gdOk 63 && srcOk x0.g 127) ([vcode 127] ++ vguard 7) [128 + 63] := by
  refine ⟨at_s0, ?_⟩; unfold PlainOk Vec1Ok Ready; decide +kernel
/-- Branches: none taken, all taken, a split, a split that cannot meet; on a group predicate either way. -/
theorem witness_JumpsCallsAndBranches : At s0 x0 ∧ PlainOk x0 true [] [95] ∧ PlainOk x0 true (vguard 0) [] ∧ x0.f.exec &&& pmask x0.g 0 = x0.f.exec ∧
    x0.f.exec &&& pmask x0.g 7 = 0 ∧ PlainOk x0 true (gguard 7) [] ∧ gpred x0.g 7 = false ∧ gpred x0.g 0 = true ∧
    (let x := envOf (coded [])
     At x.s x ∧ PlainOk x true (vguard 1) [] ∧ x.f.exec &&& pmask x.g 1 = 0xFFFF ∧ x.g.level = .user) := by
  refine ⟨at_s0, ?_, ?_, ?_, ?_, ?_, ?_, ?_, at_envOf _ (by decide +kernel), ?_⟩ <;> (try unfold PlainOk) <;> (try unfold Ready) <;> decide +kernel
/-- What is found at a code address. -/
def findsB (x : Env) (a : Word) (p : Sum FetchStop Nat → Bool) : Bool := p (codeAt x a).1
theorem finds_of {x : Env} {a : Word} {p : Sum FetchStop Nat → Bool} (h : findsB x a p = true) : ∃ r z, codeAt x a = (r, z) ∧ p r = true := ⟨_, _, rfl, h⟩
def isWord (p : Nat → Bool) (r : Sum FetchStop Nat) : Bool := match r with | .inr w => p w | .inl _ => false
/-- The first context with two words of code at 8 and 16, its code record reaching 32 bytes, and byte 1 of the entry of its page. -/
def codePage (w8 w16 : Nat) (pte0 pte1 : Byte) (s : State → State) : State :=
  let t := firstContext State.reset
  s { t with
    cores := kput t.cores 0 { division := some (16, 24, 8) }
    groups := kmod t.groups 0 fun g => { g with preds := [(1, 0xFFFF)] }
    blocks := kmod t.blocks 1 fun b => { b with code := BitVec.ofNat 128 (32 * 2 ^ 64 + 2 ^ 120) }
    mem := mputAll t.mem (nz (5 * 65536 + 8) (leOut 4 w8) ++ nz (5 * 65536 + 16) (leOut 4 w16) ++ [(65536 * 4, pte0), (65536 * 4 + 1, pte1)]) }
/-- At 8 a header, at 12 none; past the record's end nothing is fetched; a peer's page is asked for, and a migrating one waited for. -/
theorem witness_JumpsCallsAndBranches_found :
    let x := fun (p0 p1 : Byte) => afterReads (envOf (codePage 0x0FF000FF 0 p0 p1 id)) (vguard 1)
    (∃ r z, codeAt (x 0x1F 0) 8 = (r, z) ∧ isWord (· % 256 == 0xFF) r = true) ∧ (∃ r z, codeAt (x 0x1F 0) 12 = (r, z) ∧ isWord (· % 256 != 0xFF) r = true) ∧
    (∃ r z, codeAt (x 0x1F 0) 32 = (r, z) ∧ decide (r = .inl (.trap 6 3 32)) = true) ∧ (∃ r z, codeAt (x 0x9F 0) 8 = (r, z) ∧ decide (r = .inl .waits) = true) ∧
    (∃ r z, codeAt (x 0x1F 0x80) 8 = (r, z) ∧ decide (r = .inl (.park (65536 * 4))) = true) := by
  refine ⟨finds_of ?_, finds_of ?_, finds_of (p := fun r => decide (r = .inl (.trap 6 3 32))) ?_, finds_of (p := fun r => decide (r = .inl .waits)) ?_,
    finds_of (p := fun r => decide (r = .inl (.park (65536 * 4)))) ?_⟩ <;> decide +kernel
theorem witness_ReturnsAndIndirectCalls : At s0 x0 ∧ Ready x0 [95] [] (targetLanes x0) ∧ x0.f.exec ≠ 0 ∧
    (∀ l, inMask x0.f.exec l = true → vreg x0.g 95 l = 0) ∧ srcOk x0.g 127 = true ∧ Ready x0 [vcode 127] [95] (targetLanes x0) ∧
    (let x := envOf (tState { tFrag with exec := 0 } id id id)
     At x.s x ∧ Ready x [95] [] (targetLanes x) ∧ x.f.exec = 0 ∧ (List.range 32).find? (inMask x.f.members) = some 0) ∧
    (let x := envOf (tState tFrag (fun g => { g with vregs := [(32 * 95, 8)] }) id id)
     At x.s x ∧ x.g.level = .user ∧ Ready x [95] [] (targetLanes x) ∧ targetSets x.f.exec (vreg x.g 95) = [(8, 1), (0, 0xFFFFFFFE)] ∧
     srcOk x.g 95 = true ∧ targetSets x.f.exec (vsrc x.g 95) = [(8, 1), (0, 0xFFFFFFFE)]) := by
  refine ⟨at_s0, ?_, ?_, fun _ _ => rfl, ?_, ?_, ⟨at_envOf _ (by decide +kernel), ?_⟩, at_envOf _ (by decide +kernel), ?_⟩ <;> (try unfold Ready) <;> decide +kernel
theorem witness_EndsTrapsFormatAndExec : At s0 x0 ∧ x0.g.level = .user ∧ PlainOk x0 true (vguard 0) [] ∧ x0.f.exec &&& pmask x0.g 0 ≠ 0 ∧
    x0.f.exec &&& pmask x0.g 7 = 0 ∧ x0.f.members &&& ~~~(x0.f.exec &&& pmask x0.g 7) ≠ 0 ∧ x0.f.members &&& ~~~(x0.f.exec &&& pmask x0.g 0) = 0 ∧
    PlainOk x0 true (vguard 7) [] ∧ PlainOk x0 (gsOk 127) [gcode 127] [] ∧ PlainOk x0 (gdOk 63) [] [128 + 63] := by
  refine ⟨at_s0, ?_⟩; unfold PlainOk Ready; decide +kernel
theorem witness_ReservedWordsTrap : At s0 x0 ∧ x0.g.level = .user := ⟨at_s0, by decide +kernel⟩
theorem witness_BarriersAndBlockRegisters : At s0 x0 ∧ releaseHeld x0 = false ∧ x0.f.wait = .none ∧ x0.f.again = false ∧
    (15#7).toNat ≤ 15 ∧ (16#7).toNat ≤ 16 ∧ x0.f.arrived.contains 15 = false ∧
    (let x := envOf (tState { tFrag with arrived := [15] } id id id)
     At x.s x ∧ releaseHeld x = false ∧ x.f.wait = .none ∧ x.f.again = false ∧ x.f.arrived.contains 15 = true) ∧
    PlainOk x0 (gdOk 63) [] [128 + 63] ∧ kregHeld x0 = false ∧ PlainOk x0 (gsOk 127) [gcode 127] [] ∧ PlainOk x0 (gdOk 63) [128 + 63] [128 + 63] ∧
    PlainOk x0 (gdPairOk 62) [128 + 62, 128 + (62 + 1)] [128 + 62] := by
  refine ⟨at_s0, ?_, ?_, ?_, ?_, ?_, ?_, ⟨at_envOf _ (by decide +kernel), ?_⟩, ?_⟩ <;> (try unfold PlainOk) <;> (try unfold Ready) <;> decide +kernel

/-! ## Memory -/

/-- The first context of `withFetchWord`, where virtual page 0 is frame 5: records b0 of words, b1 of 8-byte counters, b2 of spill slots, b3 of
scratchpad words, b4 of a scratchpad tile; b5 is not valid, b6 has no element and b7 permits nothing. -/
def memState (g : Group → Group) (b : Block → Block) : State :=
  let s := firstContext State.reset
  let recs : KMap Rec := [(0, mkLinear 7 0 1024 2 0 false 4096), (1, mkLinear 7 0 64 3 0 false 8192), (2, mkLinear 7 136 4 2 0 false 16384),
    (3, mkLinear 7 0 1024 2 0 true 0), (5, 2 ^ 124), (6, mkLinear 7 0 0 2 0 false 4096), (7, mkLinear 0 0 1024 2 0 false 4096)]
  { s with
    groups := kmod s.groups 0 fun h => g { h with brecs := recs }
    blocks := kmod s.blocks 1 fun c => b { c with spsize := 65536 }
    cores := kput s.cores 0 { division := some (16, 24, 8) } }
def xm : Env := envOf (memState id id)
theorem at_xm : At xm.s xm := at_envOf _ (by decide +kernel)

/-- The page of virtual address 0 migrates, or is a peer's: bit 15, or the tier, of its entry. -/
def migrating (s : State) : State := { s with mem := mput s.mem (65536 * 4 + 1) 0x80 }
def atPeer (s : State) : State := { s with mem := mput s.mem (65536 * 4) 0x9F }
/-- `Quiet`, as a test. -/
def quietB (s : State) : Bool :=
  s.slices.all (fun q => q.2.sums == [] && q.2.waiters == [] && q.2.filters == []) && (s.parts.all (fun q => q.2.held == []) && s.hostErrors == [])
theorem quiet_of {s : State} (h : quietB s = true) : Quiet s := by
  obtain ⟨h1, h2⟩ := Bool.and_eq_true_iff.mp h
  obtain ⟨h2, h3⟩ := Bool.and_eq_true_iff.mp h2
  exact ⟨fun q hq => by simpa [and_assoc] using List.all_eq_true.mp h1 q hq, fun q hq => by simpa using List.all_eq_true.mp h2 q hq, by simpa using h3⟩

/-- Whether `Reached` holds of some environment and check. -/
def reachedB (x : Env) (r : Rec) (b idx : Nat) (off : Int) (n : Nat) (who : List Nat) (val : Nat → Word) (perm : Bool) (kind : AccKind) (sc align : Nat)
    (data wide : Bool) (p : Env → Checked → Bool) : Bool :=
  match plumbed x r b idx off n who val false perm with
  | .inl _ => false
  | .inr (es, y) => match check y (inScratch r) kind sc align data (piecesOf r es) wide with
    | .inl _ => false
    | .inr ck => decide (ck.trap = none ∧ ck.failed = 0 ∧ ck.parked = 0) && ck.segs.all (fun q => q.2.all (·.tier != 2)) && p y ck
theorem reached_of {x : Env} {r : Rec} {b idx : Nat} {off : Int} {n : Nat} {who : List Nat} {val : Nat → Word} {perm : Bool} {kind : AccKind}
    {sc align : Nat} {data wide : Bool} {p : Env → Checked → Bool} (h : reachedB x r b idx off n who val perm kind sc align data wide p = true) :
    ∃ es y ck, Reached x r b idx off n who val perm kind sc align data wide es y ck ∧ p y ck = true := by
  unfold reachedB at h
  cases h1 : plumbed x r b idx off n who val false perm with
  | inl t => simp [h1] at h
  | inr q =>
    obtain ⟨es, y⟩ := q
    cases h2 : check y (inScratch r) kind sc align data (piecesOf r es) wide with
    | inl t => simp [h1, h2] at h
    | inr ck =>
      simp only [h1, h2, Bool.and_eq_true, decide_eq_true_eq, List.all_eq_true, bne_iff_ne] at h
      exact ⟨es, y, ck, ⟨h1, h2, h.1.1, h.1.2⟩, h.2⟩

/-- A load through b0 by every lane at its last element, and a group-wide one through the scratchpad. -/
theorem witness_LoadsStart :
    At xm.s xm ∧ validRec (brec xm.g 0) = true ∧ fitCodes xm.g 92 (recSize (brec xm.g 0)) 4 = some [92, 93, 94, 95] ∧
    MemOk xm false ((dstOk xm.g 92 && srcOk xm.g 127) && true) [vcode 127] [92, 93, 94, 95] 1 ∧ xm.acting false ≠ 0 ∧
    (∃ es y ck, Reached (afterReads xm [127]) (brec xm.g 0) 0 127 0 4 (lanesOf (xm.acting false)) (vsrc xm.g 127) (pread (brec xm.g 0)) .load 0 1 true false es y ck ∧ true) ∧
    fitCodes xm.g (gcode 63) (recSize (brec xm.g 3)) 1 = some [191] ∧ MemOk xm true (gdOk 63 && gsOk 127 && true) [127] [191] 0 ∧ xm.acting true ≠ 0 ∧
    (∃ es y ck, Reached (afterReads xm [127]) (brec xm.g 3) 3 127 31 1 (lanesOf (xm.acting true)) (fun _ => gsrc xm.g 127) (pread (brec xm.g 3)) .load 0 1 true true es y ck ∧ true) := by
  refine ⟨at_xm, ?_, ?_, ?_, ?_, reached_of (p := fun _ _ => true) ?_, ?_, ?_, ?_, reached_of (p := fun _ _ => true) ?_⟩ <;>
    (try unfold MemOk) <;> (try unfold OpOk AccessOk PlainOk Ready) <;> decide +kernel
theorem witness_StoresWrite :
    At xm.s xm ∧ validRec (brec xm.g 0) = true ∧ fitCodes xm.g (vcode 0) (recSize (brec xm.g 0)) 1 = some [0] ∧
    MemOk xm false ((srcOk xm.g 0 && srcOk xm.g 127) && (4#3).toNat ≤ 4) (127 :: [0]) [] 1 ∧ xm.acting false ≠ 0 ∧ releaseHeld xm = false ∧
    remoteHeld xm = false ∧ xm.f.replay = none ∧
    ∃ es y ck, Reached (afterReads xm [127, 0]) (brec xm.g 0) 0 127 0 1 (lanesOf (xm.acting false)) (vsrc xm.g 127) (pwrite (brec xm.g 0)) .store 4 1 false false es y ck ∧
      (quietB (noteFootprint ck.x (brec xm.g 0) 127 0 1 1).s && ck.done.all (fun q => watched q.2 == [])) = true := by
  refine ⟨at_xm, ?_, ?_, ?_, ?_, ?_, ?_, ?_, reached_of (p := fun _ ck => quietB (noteFootprint ck.x (brec xm.g 0) 127 0 1 1).s && ck.done.all (fun q => watched q.2 == [])) ?_⟩ <;>
    (try unfold MemOk) <;> (try unfold OpOk AccessOk PlainOk Ready) <;> decide +kernel
/-- Spill slots: both checks pass on the clean slot 3. -/
def slotB (x : Env) (srcs : List Nat) (perm : Bool) (kind : AccKind) (data : Bool) (k : Int) : Bool :=
  let r := brec x.g 2
  match plumbed (afterReads x srcs) r 2 127 0 1 [0] (fun _ => gsrc x.g 127) false perm with
  | .inl _ => false
  | .inr (es, y) => es == [(0, 0, some k)] && match check y (inScratch r) kind 0 1 data (slotPieces (elemAt r k) (lanesOf (x.acting false))) with
    | .inl _ => false
    | .inr ck => decide (ck.trap = none ∧ ck.failed = 0 ∧ ck.parked = 0) && ck.segs.all (fun q => q.2.all (·.tier != 2)) && quietB (noteFootprint ck.x r 127 0 1 1).s &&
        ck.done.all (fun q => watched q.2 == [])
theorem witness_SpillsReloadsAndTheirEnd : At xm.s xm ∧ xm.acting false ≠ 0 ∧ spillRec (brec xm.g 2) = true ∧ xm.f.replay = none ∧
    MemOk xm false (srcOk xm.g 95 && gsOk 127) [127, 95] [] 1 ∧ slotB xm [127, 95] (pwrite (brec xm.g 2)) .store false 0 = true ∧
    MemOk xm false (dstOk xm.g 95 && gsOk 127) [127] [95] 0 ∧ slotB xm [127] (pread (brec xm.g 2)) .load true 0 = true := by
  refine ⟨at_xm, ?_⟩; unfold MemOk; decide +kernel
/-- An operation of the plain group at its completion point. -/
def ending (o : Op) (g : Group → Group) : State := tState tFrag g id fun s => { s with ops := [o] }
theorem witness_SpillCompletion :
    let o : Op := { id := 7, kind := .load false true, group := 0, gid := 1, vshadow := [95], ws := 0xFFFFFFFF, vwrites := [(8192, 0), (8193, 5)] }
    let s := ending o id
    AtCompletion s o (envOf s).g ∧ o.ws ≠ 0 ∧ o.ws &&& (envOf s).g.live = o.ws ∧ o.ws = (envOf s).g.live ∧
      ¬(∀ l, l < 32 → inMask o.ws l = true → (6 : Int) ≤ (kget 0 o.vwrites (32 * 95 + l)).toInt) := by
  unfold AtCompletion; decide +kernel
theorem witness_FencesCachesAndMemoryBarriers : At xm.s xm ∧ OpOk xm (decide ((4#3).toNat ≤ 4)) [] [] 1 ∧ OpOk xm ((2#3) = 1 || (2#3) = 2) [] [] 0 ∧
    (validRec (brec xm.g 0) && !inScratch (brec xm.g 0) && (reach (brec xm.g 0)).isSome) = true ∧
    (validRec (brec xm.g 3) && !inScratch (brec xm.g 3) && (reach (brec xm.g 3)).isSome) = false ∧ AccessOk xm true [] [] ∧
    AccessOk xm (1 ≤ (3#3).toNat && (3#3).toNat ≤ 3 && srcOk xm.g 127) [] [vcode 127] ∧ (reach (brec xm.g 0)).isSome = true := by
  refine ⟨at_xm, ?_⟩; unfold OpOk AccessOk PlainOk Ready; decide +kernel
/-- Whether `WordAt` holds of some place. -/
def wordAtB (x : Env) (b idx : Nat) (index : Word) (k : AccKind) (sc : Nat) (perm : Rec → Bool) : Bool :=
  match controlWord x b idx index k sc 8 perm counterRec with
  | .inl _ => false
  | .inr (y, g) => g.len == 8 && (g.tier ≤ 1 || g.tier == 3) && quietB y.s && watched [g] == [] && x.f.wait == .none
theorem wordAt_of {x : Env} {b idx : Nat} {index : Word} {k : AccKind} {sc : Nat} {perm : Rec → Bool} (h : wordAtB x b idx index k sc perm = true) :
    ∃ y g, WordAt x b idx index k sc perm y g := by
  unfold wordAtB at h
  cases h1 : controlWord x b idx index k sc 8 perm counterRec with
  | inl t => simp [h1] at h
  | inr q => simp [h1] at h; exact ⟨q.1, q.2, h1, h.1.1.1.1, h.1.1.1.2, quiet_of h.1.1.2, h.1.2, h.2⟩
theorem witness_MemoryBarriers : At xm.s xm ∧ releaseHeld xm = false ∧ AccessOk xm (gsOk 127 && gsOk 63) [127, 191] [] ∧
    (∃ y g, WordAt (afterReads xm [127, 191]) 1 127 (gsrc xm.g 127) .store 0 pwrite y g) ∧
    AccessOk xm (gsOk 127 && gdOk 63) [127] [191] ∧ (∃ y g, WordAt (afterReads xm [127]) 1 127 (gsrc xm.g 127) .rmw 3 patom y g) ∧
    (∃ y g, WordAt (afterReads xm [127, 191]) 1 127 (gsrc xm.g 127) .load 3 pread y g) ∧ AccessOk xm (gsOk 127 && gdOk 63) [127, 191] [191] := by
  refine ⟨at_xm, ?_, ?_, wordAt_of ?_, ?_, wordAt_of ?_, wordAt_of ?_, ?_⟩ <;> (try unfold AccessOk PlainOk Ready) <;> decide +kernel
/-- Completion points: a load, an atomic, a reduction, a cadd, a store, fences that may and may not complete, and cinv. -/
theorem witness_AccessesComplete :
    (∀ k ∈ ([.load true false, .atomic true, .reduction, .atomic false, .cadd false 0 0, .store, .fence 3 4, .cinv 2 4096 8191] : List OpKind),
      let o : Op := { id := 7, kind := k, group := 0, gid := 1 }
      AtCompletion (ending o id) o (envOf (ending o id)).g ∧ o.vshadow = [] ∧ o.gshadow = []) ∧
    s0.ops.find? (fun q => q.id == 7) = none ∧
    (let o : Op := { id := 7, kind := .fence 2 1, group := 0, gid := 1 }
     let p : Op := { id := 3, kind := .store, group := 0, gid := 1 }
     fenceReady (ending o id) o = true ∧ fenceReady { ending o id with ops := [p, o] } o = false ∧ AtCompletion { ending o id with ops := [p, o] } o (envOf (ending o id)).g) ∧
    (let o : Op := { id := 7, kind := .fence 1 3, group := 0, gid := 1 }
     let s := ending o fun g => { g with icinv := true }
     fenceReady s o = true ∧ AtCompletion s o (envOf s).g ∧ (envOf s).g.icinv = true) ∧
    (let o : Op := { id := 7, kind := .cinv 2 4096 8192, group := 0, gid := 1 }
     let s := { xm.s with ops := [o] }
     AtCompletion s o xm.g ∧ linesIn s o.part 4096 8192 (512 * 5 + 32) = true) ∧
    (let o : Op := { id := 7, kind := .store, group := 0, gid := 1, touched := [1024] }
     let s := { s0 with ops := [o], dies := [(0, { conflicts := [{ line := 8, writer := 0, waiting := [2] }] })] }
     s.ops.find? (fun p => p.id == o.id) = some o ∧ granted s o = false ∧ granted { s with dies := [] } o = true) := by
  unfold AtCompletion; decide +kernel
/-- One operation at its location, and whole atomic instructions: a returning add and compare-exchange, a reduction and one red.det. -/
def atomB (x : Env) (k : RmwKind) (p : Nat) (ret : Bool) (codes : List Nat) (b idx : Nat) : Bool :=
  let rc := brec x.g b
  reachedB (afterReads x (idx :: codes)) rc b idx 0 1 (lanesOf (x.acting false)) (vsrc x.g idx) (patom rc) .rmw 3 (recSize rc) ret false fun _ ck =>
    match rmwAll ck.x k p (recSize rc) (fun _ => 1) (fun _ => 0) ck.done with
    | some (_, z) => z.s.slices.all (fun q => q.2.waiters == []) && z.s.parts.all (fun q => q.2.held == []) && ck.done.all (fun q => watched q.2 == [])
    | _ => false
theorem witness_Atomics : At xm.s xm ∧ Quiet xm.s ∧ validRec (brec xm.g 0) = true ∧ (opSizes 0).contains (recSize (brec xm.g 0)) = true ∧
    inScratch (brec xm.g 0) = false ∧ fitCodes xm.g 94 4 2 = some [94, 95] ∧ fitCodes xm.g 95 4 1 = some [95] ∧ xm.acting false ≠ 0 ∧ xm.f.wait = .none ∧ xm.g.parked = none ∧
    MemOk xm false (dstOk xm.g 94 && srcOk xm.g 127 && opAllowed .atom 9 && !(true && (94 % 2 == 1))) (127 :: [94, 95]) [94] 1 ∧
    MemOk xm false (srcOk xm.g 95 && srcOk xm.g 127 && opAllowed .red 0 && !(false && true)) (127 :: [95]) [] 1 ∧
    MemOk xm false (srcOk xm.g 95 && srcOk xm.g 127 && opAllowed .det 0 && !(false && true)) (127 :: [95]) [] 1 ∧
    atomB xm .atom 9 true [94, 95] 0 127 = true ∧ atomB xm .atom 0 true [95] 0 127 = true ∧ atomB xm .red 0 false [95] 0 127 = true ∧ atomB xm .det 0 false [95] 0 127 = true := by
  refine ⟨at_xm, quiet_of (by decide +kernel), ?_⟩; unfold MemOk; decide +kernel
/-- An invalid record (b5), one with no element under the trap mode (b6) and one without permission (b7). -/
theorem witness_AccessTraps : At xm.s xm ∧ xm.g.level = .user ∧ xm.acting false ≠ 0 ∧ MemOk xm false (dstOk xm.g 95 && srcOk xm.g 127) [127] [95] 1 ∧
    validRec (brec xm.g 5) = false ∧ validRec (brec xm.g 6) = true ∧ recSize (brec xm.g 6) ≤ 4 ∧
    (plumb (afterReads xm [127]) (brec xm.g 6) 6 127 0 1 (lanesOf (xm.acting false)) (vsrc xm.g 127) false).1 = none ∧
    validRec (brec xm.g 7) = true ∧ pread (brec xm.g 7) = false ∧
    (plumb (afterReads xm [127]) (brec xm.g 7) 7 127 0 1 (lanesOf (xm.acting false)) (vsrc xm.g 127) false).1.isSome = true := by
  refine ⟨at_xm, ?_⟩; unfold MemOk; decide +kernel
theorem witness_BoundsModes : (0 : Int) ≤ 3 ∧ (3 : Int) < 4 ∧ (-1 : Int) < 0 ∧ ((4 : Nat) : Int) ≤ 4 ∧ ((0 : Nat) : Int) ≤ 0 := by decide
theorem witness_TranslationMarksOnly : ∃ r t, translate xm.s 0 0 .user .write 4096 = (r, t) := ⟨_, _, rfl⟩

/-! ## Records, tiles, matrices and copies -/

theorem witness_RecordsAndShadows : At xm.s xm ∧ xm.g.level = .user ∧
    PlainOk xm ((60#6).toNat % 4 = 0 && (60#6).toNat ≤ 60) ((List.range 4).map fun i => 128 + 60 + i) [] ∧ validRec (brec xm.g 5) = false ∧
    (match subRec (brec xm.g 0) (greg xm.g 60) (greg xm.g 61) (greg xm.g 62) (greg xm.g 63) with
     | some (r, fr, fc) => validRec r && narrower (brec xm.g 0) r fr fc | none => false) = true ∧
    PlainOk xm ((60#7).toNat % 4 = 0 && (60#7).toNat ≤ 60) [] ((List.range 4).map fun i => 128 + 60 + i) ∧
    namedDst xm 95 0 = some 95 ∧ namedDst xm 63 1 = some 191 ∧ PlainOk xm ((62#7).toNat % 2 = 0 && (62#7).toNat ≤ 62) [128 + 62, 128 + (62 + 1), 95] [] ∧
    PlainOk xm true [191] [] ∧ namedSrc xm 127 0 = some 127 ∧ PlainOk xm ((60#7).toNat % 4 = 0 && (60#7).toNat ≤ 60) [127] ((List.range 3).map fun i => 128 + 60 + i) ∧
    validRec (brec xm.g 0) = true ∧ validRec (brec xm.g 6) = true := by
  refine ⟨at_xm, ?_⟩; unfold PlainOk Ready; decide +kernel
/-- ichk: lane 0 holds an index just past the record's end. -/
theorem witness_IndexCheck :
    let x := envOf (memState (fun g => { g with vregs := [(0, 1024)] }) id)
    At x.s x ∧ namedSrc x 127 0 = some 127 ∧ PlainOk x true [127] [] ∧ namedSrc x 0 0 = some 0 ∧ PlainOk x true [0] [] ∧ x.g.level = .user ∧
    (∀ l, l < 32 → 0 ≤ (codeVal x.g 127 l).toInt ∧ (codeVal x.g 127 l).toInt < extent (brec x.g 0)) ∧
    inMask x.f.exec 0 = true ∧ ¬((codeVal x.g 0 0).toInt < extent (brec x.g 0)) := by
  refine ⟨at_envOf _ (by decide +kernel), ?_⟩; unfold PlainOk Ready; decide +kernel

/-- A context with a tile record of 64 by 64 16-bit elements in b4, one of floats in b5, a gang register and more groups. -/
def matState (gang : Word) (s : State → State) : State :=
  s (memState (fun g => { g with gang := gang, brecs := kputAll g.brecs [(4, BitVec.ofNat 128 (2 ^ 123 + 7 * 2 ^ 67 + 128 * 2 ^ 45 + 64 * 2 ^ 33 + 64 * 2 ^ 21))],
                                 gregs := [(0, 0x04000000)] })
    (fun b => { b with groups := 2, alive := 3 }))
def xt : Env := envOf (matState 0 id)
theorem at_xt : At xt.s xt := at_envOf _ (by decide +kernel)
theorem witness_TileRegisterOperations : At xt.s xt ∧ PlainOk xt (gsOk 63) [gcode 63] [] ∧ TileOk xt 1 7 true [] [] none ∧ TileOk xt 0 0 (gdOk 63) [] [128 + 63] none ∧
    TileOk xt 0 7 (decide (88 + 7 ≤ 95) && ((List.range 8).map (88 + ·)).all (nameable xt.g)) [] ((List.range 8).map (88 + ·)) none ∧
    errorHalf xt.g 0 7 (grid (lanesOf xt.active) ((List.range 8).map (8 * 7 + ·))) = none ∧
    TileOk xt 0 7 (decide (0 + 7 ≤ 95) && ((List.range 8).map (0 + ·)).all (nameable xt.g)) ((List.range 8).map (0 + ·)) [] none ∧ TileOk xt 0 7 true [127] [] none := by
  refine ⟨at_xt, ?_⟩; unfold TileOk OpOk AccessOk PlainOk Ready; decide +kernel
/-- mld and mst through b4 with the coordinates and scale in g30 and g31, both zero; mst by lanes and by an index register. -/
theorem witness_TileLoadsAndStores :
    let r := brec xt.g 4
    let cells := (grid lanes (List.range 64)).map fun (q : Nat × Nat) => (q.1, q.2, resolveC (tRcirc r) (tRows r) (bmode r) (0 + q.1 : Nat), resolveC (tCcirc r) (tCols r) (bmode r) (0 + q.2 : Nat))
    At xt.s xt ∧ tileRecord xt 4 15 = some (r, 0, 0, f32 0) ∧ TileOk xt 1 7 true [158, 159] [] none ∧ pread r = true ∧ pwrite r = true ∧
    (∀ q ∈ cells, q.2.2.1 ≠ none ∧ q.2.2.2 ≠ none) ∧
    (scratchBad (afterReads xt [158, 159]) .load true (cells.filterMap fun q => match q.2.2.1, q.2.2.2 with
      | some (some i), some (some j) => some ⟨q.1, q.2.1, (tileAddr r i j : Int), 2⟩ | _, _ => none)).isNone = true ∧
    TileOk xt 0 7 (nameable xt.g 62) ([158, 159] ++ [62]) [] none ∧
    errorHalf xt.g 0 7 ((grid lanes (List.range 64)).map fun q => (q.1, q.2)) = none ∧ (scratchBad (afterReads xt [158, 159]) .store true [⟨31, 63, 64 * 128 - 2, 2⟩]).isNone = true := by
  refine ⟨at_xt, ?_⟩; unfold TileOk OpOk AccessOk PlainOk Ready; decide +kernel
/-- mma outside a gang; a gang of two of which this group is the first to arrive; an invalid gang register. -/
def gathers (x : Env) : Bool := match gather (afterReads x [127, 128, 129]) false 0 0 4 0 127 with | .inr _ => true | .inl _ => false
theorem witness_MatrixIssues : At xt.s xt ∧ xt.g.gang.toNat % 8 = 0 ∧ gathers xt = true ∧ lockFree xt.s xt.core 1 = true ∧ xt.g.index < 16 ∧ xt.f.wait = .none ∧
    TileOk xt 0 0 (srcOk xt.g 127 && (shapeOf false (fAf xt.f) (fBf xt.f) (fAcc xt.f)).isSome) [127, 128, 129] [] (some false) ∧
    (let x := envOf (matState 0x102 id)
     At x.s x ∧ x.g.gang.toNat % 8 ≠ 0 ∧ gangValid x = true ∧ gathers x = true ∧ (∀ i ∈ gangMembers x.g.gang, x.b.alive.getLsbD i = true) ∧
     TileOk x 0 0 (srcOk x.g 127 && (shapeOf false (fAf x.f) (fBf x.f) (fAcc x.f)).isSome) [127, 128, 129] [] (some false) ∧
     (kget ({} : Core) x.s.cores x.core).keystones.all (fun q => q.2.block != x.g.block) = true ∧
     (List.range 4).find? (fun n => (kfind (kget ({} : Core) x.s.cores x.core).keystones n).isNone) = some 0) ∧
    (let x := envOf (matState 1 id)
     At x.s x ∧ x.g.gang.toNat % 8 ≠ 0 ∧ gangValid x = false ∧ x.g.level = .user) := by
  refine ⟨at_xt, ?_, ?_, ?_, ?_, ?_, ?_, ⟨at_envOf _ (by decide +kernel), ?_⟩, at_envOf _ (by decide +kernel), ?_⟩ <;> (try unfold TileOk OpOk AccessOk PlainOk Ready) <;> decide +kernel
def arrival : KArrival :=
  { group := 0, entry := 0, index := 0, ternary := false, fmt := 0, md := 0, flag := 0, pc := 4, recB := brec xt.g 4, kb := 0, nb := 0, dir := false
    recS := 0, sigB := 0, rows := [none, some []], sa := [], sb := [] }
theorem witness_MatrixIssues_keystone :
    let q : Keystone := { block := 1, set := 3, members := [arrival], jointDue := true }
    let s := matState 0 fun s => { s with cores := [(0, { keystones := [(3, q), (2, { q with jointDue := false })] })] }
    kfind (kget ({} : Core) s.cores 0).keystones 3 = some q ∧ (∀ r ∈ q.members, r.index < 16 ∧ (kfind s.groups r.group).isSome = true) ∧ q.members ≠ [] ∧
    q.jointDue = true ∧ lockFree s 0 1 = true ∧ kfind (kget ({} : Core) s.cores 0).keystones 2 = some { q with jointDue := false } := by decide +kernel
theorem witness_TileCompletions :
    (∀ k ∈ ([.matrix arrival [] [], .tile 0 true, .tile 7 false] : List OpKind),
      let o : Op := { id := 7, kind := k, group := 0, gid := 1, tiles := [0, 1] }
      AtCompletion (ending o id) o (envOf (ending o id)).g ∧ o.vshadow = [] ∧ o.gshadow = [] ∧
      (kget ({} : Core) (ending o id).cores 0).locks.any (fun l => l.matrix && l.owner == o.dest) = false ∧
      (earlier (ending o id) o).any (fun q => overlap q.tiles o.tiles) = false) ∧
    arrival.rows[1]? = some (some []) ∧ arrival.rows[0]? = some none ∧ tileError x0.g 0 0 1 63 = false := by
  unfold AtCompletion; decide +kernel

/-- A command in g8 to g15: descriptor 0 of b0 (a vector of four words), the global record b1, the scratchpad record b3 and the counter record b2. -/
def descriptor : List Byte := leOut 4 (1 + 2 * 4096) ++ leOut 4 16 ++ List.replicate 32 0 ++ leOut 2 4 ++ List.replicate 22 0
def copyState (s : State → State) : State :=
  let t := memState (fun g => { g with brecs := [(0, mkLinear 7 64 4 2 0 false 4096), (1, mkLinear 7 0 1024 2 0 false 8192), (2, mkLinear 7 0 4 3 0 false 16384), (3, mkLinear 7 0 64 2 0 true 0)]
                                       gregs := [(9, 0x4C8)] }) id
  s { t with mem := mputAll t.mem (nz (5 * 65536 + 4096) descriptor) }
def xc : Env := envOf (copyState id)
theorem at_xc : At xc.s xc := at_envOf _ (by decide +kernel)
/-- Whether a command passes every check, for a copy that moves bytes. -/
def commandB (x : Env) : Bool :=
  let cw := (List.range 8).map fun i => greg x.g (8 + i)
  match copyCheck x.s x.k x.b x.g.level cw (brec x.g (cT cw)) (brec x.g (cG cw)) (brec x.g (cP cw)) (brec x.g (cC cw)) with
  | (.ok c, u) => dBytes c.desc == 16 && engineRoom u x.core x.b && c.group == x.k && freeCopy x.b == some 0
  | _ => false
theorem witness_CopyIssue : At xc.s xc ∧ OpOk xc (gblockOk 8 8) ((List.range 8).map (fun i => 128 + 8 + i) ++ gguard 7) [] 1 ∧ gpred xc.g 7 = false ∧
    OpOk xc (gblockOk 8 8) ((List.range 8).map (fun i => 128 + 8 + i) ++ gguard 0) [] 1 ∧ gpred xc.g 0 = true ∧ releaseHeld xc = false ∧ commandB xc = true := by
  refine ⟨at_xc, ?_⟩; unfold OpOk AccessOk PlainOk Ready; decide +kernel
/-- A copy under way that ends, one whose page is absent and one whose source holds a double-bit error. -/
def moving (g : Rec) (b : Block → Block) : State × Block × Copy :=
  let c : Copy := { group := 0, command := [0, 0x4C8], desc := descriptor, recT := brec xc.g 0, recG := g, recP := brec xc.g 3, recC := brec xc.g 2 }
  let s := copyState fun s => { s with blocks := kmod s.blocks 1 fun q => b { q with copies := [(0, c)] } }
  (s, kget {} s.blocks 1, c)
theorem witness_CopyEnds : movable s0 1 0 = none ∧
    (let q := moving (brec xc.g 1) id
     movable q.1 1 0 = some q.2 ∧ (copyNext q.1 1 0 q.2.1 q.2.2).1 = .done) ∧
    (let q := moving (mkLinear 7 0 1024 2 0 false 65536) id
     movable q.1 1 0 = some q.2 ∧ (match copyNext q.1 1 0 q.2.1 q.2.2 with
       | (.fault _ _ _, t) => (match kfind t.blocks 1 with | some b => (match kfind b.copies 0 with | some d => (kfind t.groups d.group).isSome | none => false) | none => false)
       | _ => false) = true) ∧
    (let q := moving (brec xc.g 1) fun b => { b with copies := b.copies.map fun c => (c.1, { c.2 with lost := [0] }) }
     movable q.1 1 0 = some (q.2.1, { q.2.2 with lost := [0] }) ∧ (match copyNext q.1 1 0 q.2.1 { q.2.2 with lost := [0] } with
       | (.bad _, t) => (match kfind t.blocks 1 with | some b => (match kfind b.copies 0 with | some d => (kfind t.groups d.group).isSome | none => false) | none => false)
       | _ => false) = true) := by decide +kernel
/-- A stage that is released, in a block whose roots are the records of `copyState`. -/
theorem witness_CopiesAndStages_stage :
    let e : List Byte := leOut 2 1 ++ leOut 2 0 ++ leOut 4 0x4C8 ++ List.replicate 56 0
    let s := copyState fun s => { s with blocks := kmod s.blocks 1 fun q => { q with sched := [e], roots := xc.g.brecs } }
    let b := kget ({} : Block) s.blocks 1
    let cw := stageCmd b (kget {} s.clusters b.cluster) e 0
    kfind s.blocks 1 = some b ∧ nextStage b = some (0, 0) ∧ engineRoom s b.core b = true ∧ freeCopy b = some 0 ∧ b.preempting = false ∧
    (match copyCheck s (stageGroup s b 1 0) b .user cw (kget 0 b.roots (cT cw)) (kget 0 b.roots (cG cw)) (kget 0 b.roots (cP cw)) (kget 0 b.roots (cC cw)) with
     | (.ok c, u) => dBytes c.desc != 0 && kfind u.blocks 1 == some b | _ => false) = true ∧ nextStage (kget ({} : Block) s0.blocks 1) = none := by decide +kernel
/-- Whether `CounterAt` holds of some place. -/
def counterAtB (x : Env) (c : Nat) (k : AccKind) (perm : Rec → Bool) : Bool :=
  match counterOperand x c k perm with
  | .inl _ => false
  | .inr (y, g) => g.len == 8 && (g.tier ≤ 1 || g.tier == 3) && quietB y.s && watched [g] == [] && x.f.wait == .none && x.g.parked == none
theorem counterAt_of {x : Env} {c : Nat} {k : AccKind} {perm : Rec → Bool} (h : counterAtB x c k perm = true) :
    ∃ y g, CounterAt x c k perm y g := by
  unfold counterAtB at h
  cases h1 : counterOperand x c k perm with
  | inl t => simp [h1] at h
  | inr q => simp [h1] at h; exact ⟨q.1, q.2, h1, h.1.1.1.1.1, h.1.1.1.1.2, quiet_of h.1.1.1.2, h.1.1.2, h.1.2, h.2⟩
/-- Counters named by g60 to g63 through b2, with count 0 and, at g4, a value it has not reached. -/
def xk : Env := envOf (copyState fun s => { s with groups := kmod s.groups 0 fun g => { g with gregs := [(60, 2), (4, 2), (6, 1)] } })
theorem witness_CounterInstructions : At xk.s xk ∧
    AccessOk xk (gblockOk 4 60) ((List.range 4).map (fun i => 128 + 60 + i) ++ gguard 7) [] ∧ gpred xk.g 7 = false ∧ gpred xk.g 0 = true ∧
    AccessOk xk (gblockOk 4 60) ((List.range 4).map fun i => 128 + 60 + i) [gpcode 7] ∧ OpOk xk (gblockOk 4 4) ((List.range 4).map fun i => 128 + 4 + i) [] 1 ∧
    (∃ y g, CounterAt (afterReads xk [188, 189, 190, 191]) 60 .load pread y g) ∧ (∃ y g, CounterAt (afterReads xk [132, 133, 134, 135]) 4 .load pread y g) ∧
    (∃ y g, CounterAt (afterReads xk [132, 133, 134, 135]) 4 .rmw patom y g) ∧ AccessOk xk (gsOk 63) ([gcode 63] ++ gguard 7) [] ∧ releaseHeld xk = false := by
  refine ⟨at_envOf _ (by decide +kernel), ?_, ?_, ?_, ?_, ?_, counterAt_of ?_, counterAt_of ?_, counterAt_of ?_, ?_⟩ <;>
    (try unfold OpOk) <;> (try unfold AccessOk PlainOk Ready) <;> decide +kernel

/-! ## Headers, waiting traps and tasks -/

/-- A header with the wait mask of flag 11: met, and not met; a field of 12; a calli target without budget; a watchdog's and a pre-emption's trap. -/
theorem witness_HeadersAndWaitingTraps :
    At s0 x0 ∧ x0.f.arrive = .none ∧ x0.f.wait = .none ∧ (11#4).toNat ≤ 11 ∧ ¬((12#4).toNat ≤ 11 ∨ (12#4) = 15) ∧
    (x0.g.level = .user → x0.g.watchdog = false ∧ x0.g.traps.any isCopyTrap = false ∧ x0.g.preempt = none) ∧
    (∀ i, i < 12 → (0x800#12).getLsbD i = true → kget 0 x0.g.flags i = 0) ∧
    (let x := envOf (tState tFrag (fun g => { g with flags := [(11, 1)] }) id id)
     At x.s x ∧ ¬(∀ i, i < 12 → (0x800#12).getLsbD i = true → kget 0 x.g.flags i = 0)) ∧
    (let x := envOf (codePage 0x0FF002FD 0 0x1F 0 fun s => { s with groups := kmod s.groups 0 fun g => { g with table := [(0, { tFrag with arrive := .calli })] } })
     At x.s x ∧ x.f.arrive = .calli ∧ x.g.level = .user ∧ findsB x 8 (isWord fun w => budgetOk x.g w) = true) ∧
    (let x := fun (a : Arrival) (p0 p1 : Byte) (n : Nat) => envOf (codePage 0 0 p0 p1 fun s => { s with
       groups := kmod s.groups 0 fun g => { g with table := [(0, { tFrag with arrive := a })] }, blocks := kmod s.blocks 1 fun b => { b with code := BitVec.ofNat 128 (n * 2 ^ 64 + 2 ^ 120) } })
     findsB (x .calli 0x1F 0 32) 8 (isWord fun w => !budgetOk (x .calli 0x1F 0 32).g w) = true ∧ findsB (x .calli 0x1F 0 8) 8 (fun r => decide (r = .inl (.trap 6 3 8))) = true ∧
     findsB (x .calli 0x9F 0 32) 8 (fun r => decide (r = .inl .waits)) = true ∧ findsB (x .calli 0x1F 0x80 32) 8 (fun r => decide (r = .inl (.park (65536 * 4)))) = true) ∧
    (let x := envOf (tState tFrag (fun g => { g with watchdog := true }) id id)
     At x.s x ∧ x.g.watchdog = true ∧ x.g.level = .user ∧ x.f.wait = .none) ∧
    (let x := envOf (tState tFrag (fun g => { g with preempt := some (2, 65535, 3) }) id id)
     At x.s x ∧ x.g.watchdog = false ∧ x.g.traps.any isCopyTrap = false ∧ x.g.preempt = some (2, 65535, 3)) := by
  refine ⟨at_s0, ?_, ?_, ?_, ?_, ?_, ?_, ⟨at_envOf _ (by decide +kernel), ?_⟩, ⟨at_envOf _ (by decide +kernel), ?_⟩, ?_, ⟨at_envOf _ (by decide +kernel), ?_⟩, at_envOf _ (by decide +kernel), ?_⟩ <;> decide +kernel
theorem witness_WaitingTraps :
    (envAt (handler .before) 0 0).any (fun x => x.g.level != .user) = true ∧
    (let tr : Trap := { code := 5, entry := 0 }
     let x := envOf (tState tFrag (fun g => { g with traps := [tr] }) id id)
     x.g.level = .user ∧ x.g.parked = none ∧ x.g.resuming = none ∧ x.g.left = false ∧ x.g.traps.find? (fun t => !isCopyTrap t) = some tr ∧ tr.entry = 0) ∧
    (let x := envOf (tState { tFrag with wait := .cbar } (fun g => { g with watchdog := true }) id id)
     x.g.traps.find? (fun t => !isCopyTrap t) = none ∧ x.f.wait ≠ .none ∧ x.g.watchdog = true) ∧
    (let x := envOf (tState { tFrag with wait := .cbar } (fun g => { g with preempt := some (0, 0, 0) }) id id)
     x.f.wait ≠ .none ∧ x.g.watchdog = false ∧ x.g.traps = [] ∧ x.g.preempt = some (0, 0, 0)) ∧
    (let s := tState { tFrag with wait := .cbar } id id fun s => { s with clock := 65536, parts := [(0, { state := .active, regs := [(0x21, 1)] })] }
     kfind s.blocks 1 = some (envOf s).b ∧ (preg s 0 0x21).toNat ≠ 0 ∧ (envOf s).b.preempting = false ∧ (envOf s).b.lastIssue + 65536 * (preg s 0 0x21).toNat ≤ s.clock ∧
     (∀ q ∈ s.groups, q.2.block = 1 → q.2.level = .user ∧ allWait q.2 = true)) ∧ (preg s0 0 0x21).toNat = 0 ∧
    (let x := envOf (tState { tFrag with wait := .reconv, reconv := some 8 } id id id)
     x.g.level = .user ∧ x.g.parked = none ∧ x.g.resuming = none ∧ x.g.left = false ∧ x.g.traps.find? (fun t => !isCopyTrap t) = none ∧ x.f.wait = .reconv ∧ x.g.live ≠ 0) ∧
    (envOf (tState tFrag (fun g => { g with parked := some ⟨0, 0, 15, []⟩ }) id id)).g.parked.isSome = true ∧
    (let x := envOf (tState { tFrag with wait := .join } (fun g => { g with live := 0, preempt := some (3, 0, 1) }) id id)
     x.g.live = 0 ∧ x.g.traps = [] ∧ x.g.watchdog = false ∧ x.g.preempt = some (3, 0, 1)) := by decide +kernel

/-- A bin of node 7 on die 0 with some records, so that the node's descriptor is known without its table of 8 nodes. -/
def oneRec : TaskRec := { node := 7, args := [1, 2] }
def withBin (n : Nat) (s : State) : State :=
  { s with dies := [(0, { bins := [(7, { recs := List.replicate n oneRec, hw := true })] })], parts := kmod s.parts 0 fun p => { p with regs := kput p.regs 0x202 8 } }
theorem witness_SpawnAndPost :
    let x := envOf (tState tFrag (fun g => { g with gregs := [(60, 7)] }) id (withBin 1))
    At x.s x ∧ OpOk x (gblockOk 4 60 && vblockOk x.g 84 12) ((List.range 4).map (fun i => 128 + 60 + i) ++ (List.range 12).map (84 + ·) ++ vguard 0) [] 1 ∧
    x.f.exec &&& pmask x.g 0 ≠ 0 ∧ x.f.exec &&& pmask x.g 7 = 0 ∧ releaseHeld x = false ∧ x.g.level = .user ∧
    wbits (greg x.g 60) 31 21 = 0 ∧ wbits (greg x.g 60) 17 16 < 2 ∧ (greg x.g 60).getLsbD 18 = false ∧ greg x.g 61 = 0 ∧ greg x.g 63 = 0 ∧
    wbits (greg x.g 60) 15 0 = 7 ∧ (nodeFor x.s (dieOf x.core) x.b.part 7).isSome = true ∧ nodeFor x.s (dieOf x.core) x.b.part 8 = none := by
  refine ⟨at_envOf _ (by decide +kernel), ?_⟩; unfold OpOk AccessOk PlainOk Ready; decide +kernel
/-- The same with a join counter through b1; a scope of 2 is a fault of the fields. -/
theorem witness_SpawnAndPost_join :
    let x := envOf (withBin 1 (memState (fun g => { g with gregs := [(60, 7 + 2 ^ 18), (61, 1)] }) id))
    At x.s x ∧ OpOk x (gblockOk 4 60 && vblockOk x.g 84 12) ((List.range 4).map (fun i => 128 + 60 + i) ++ (List.range 12).map (84 + ·) ++ vguard 7) [] 1 ∧
    (greg x.g 60).getLsbD 18 = true ∧ inScratch (brec x.g 1) = false ∧ inScratch (brec x.g 3) = true ∧ ¬(wbits (0x20000#32) 17 16 < 2) ∧
    (match controlWord (afterReads x ((List.range 4).map (fun i => 128 + 60 + i) ++ (List.range 12).map (84 + ·) ++ vguard 0)) 1 190 (greg x.g 62) .rmw 3 8 patom counterRec with
     | .inr (y, _) => (nodeFor y.s (dieOf x.core) x.b.part 7).isSome | .inl _ => false) = true := by
  refine ⟨at_envOf _ (by decide +kernel), ?_⟩; unfold OpOk AccessOk PlainOk Ready; decide +kernel
/-- The node table lies at virtual address 0, whose page migrates; the quarry's ring table too. -/
def heldTable (s : State) : State := migrating { s with parts := kmod s.parts 0 fun p => { p with regs := kput p.regs 0x202 8 } }
theorem witness_SpawnAndPost_held : nodeHeld (heldTable xm.s) (dieOf xm.core) xm.b.part 7 = true ∧ nodeHeld xm.s (dieOf xm.core) xm.b.part 7 = false ∧
    (let f : Frame := { recs := List.replicate 32 oneRec, gslot := 0, core := 0 }
     pushWaits { heldTable xm.s with cores := [(0, { quarry := List.replicate 40 f })] } 0 f = true ∧ pushWaits s0 0 f = false) ∧
    (∀ n, n ≤ 1 → watched [joinSeg (n * 2 ^ 60 + 4096) 0] = []) := by decide +kernel
theorem witness_SpawnAndPostCompletions :
    (let o : Op := { id := 7, kind := .spawn [oneRec] none, group := 0, gid := 1 }
     let p : Op := { id := 7, kind := .spawn [oneRec] (some 4096), group := 0, gid := 1 }
     AtCompletion (ending o id) o (envOf (ending o id)).g ∧ sramUse (ending o id) 0 + frameSize { recs := [oneRec], gslot := 0, core := 0 } ≤ 32768 ∧
     AtCompletion (ending p id) p (envOf (ending p id)).g ∧ (4096 : Nat) / 2 ^ 60 ≤ 1 ∧ quietB (ending p id) = true) ∧
    (let f : Frame := { recs := List.replicate 32 oneRec, gslot := 0, core := 0 }
     let s := fun s : State => { s with cores := [(0, { quarry := List.replicate 40 f })] }
     pushFrame (s s0) 0 f = none ∧ kfind (envOf (s s0)).g.table 0 = some tFrag) ∧
    (let o : Op := { id := 7, kind := .post [oneRec] none, group := 0, gid := 1 }
     let s := withBin 31 (ending o id)
     AtCompletion s o (envOf s).g ∧ (nodeFor s 0 0 7).isSome = true ∧ (placeAll s 0 0 [] [oneRec]).isSome = true ∧ homeDie s 0 7 = 7 ∧
     (binAt s (homeDie s 0 7) 0 7).ring = [] ∧ (binAt s 0 0 7).hw = true ∧ (binAt s 0 0 7).recs.length < 32 ∧ placeAll (withBin 32 (ending o id)) 0 0 [] [oneRec] = none) := by
  unfold AtCompletion; decide +kernel
theorem witness_JoinAndExit :
    At s0 x0 ∧ AccessOk x0 true [] [] ∧ releaseHeld x0 = false ∧ x0.g.level = .user ∧ inMask x0.f.exec 0 = true ∧ kfind x0.g.links 0 = none ∧
    (let x := envOf (tState { tFrag with exec := 0 } id id id)
     At x.s x ∧ AccessOk x true [] [] ∧ x.f.exec = 0) ∧
    (let x := envOf (memState (fun g => { g with links := [(0, 8192)], table := [(0, { tFrag with exec := 1 })] }) id)
     At x.s x ∧ AccessOk x true [] [] ∧ x.f.exec ≠ 0 ∧ (∀ l, inMask x.f.exec l = true → (kfind x.g.links l).isSome = true) ∧ releaseHeld x = false ∧ x.g.level = .user) := by
  refine ⟨at_s0, ?_, ?_, ?_, ?_, ?_, ⟨at_envOf _ (by decide +kernel), ?_⟩, at_envOf _ (by decide +kernel), ?_, ?_, ?_, ?_⟩
  case refine_9 =>
    intro l h
    have : l = 0 := by
      rcases l with _ | l
      · rfl
      · exfalso; revert h; change ¬ (BitVec.getLsbD (1#32) (l + 1) = true); simp
    subst this; decide +kernel
  all_goals ((try unfold AccessOk PlainOk Ready); decide +kernel)
/-- The checks of exit.j's counters: passed, on an absent page, and on a migrating one; and one that is not aligned. -/
def linkedB (s : State → State) (a : Nat) (p : Env → Checked → Bool) : Bool :=
  let x := envOf (s (memState (fun g => { g with links := [(0, a)], table := [(0, { tFrag with exec := 1 })] }) id))
  match check x false .rmw 3 8 false ((lanesOf x.f.exec).map fun l => (⟨l, 0, (kget 0 x.g.links l : Nat), 8⟩ : Piece)) with
  | .inr ck => p x ck
  | .inl _ => false
theorem witness_JoinAndExit_counters :
    linkedB id 8192 (fun x ck => ck.trap.isNone && ck.parked == 0 && (ck.segs.filterMap fun q => q.2.head?).all (fun g => g.tier ≤ 1 && watched [g] == []) &&
      quietB ck.x.s && x.f.wait == .none && x.g.parked == none) = true ∧ linkedB id 65536 (fun _ ck => ck.trap.isSome) = true ∧
    linkedB migrating 8192 (fun _ ck => ck.trap.isNone && ck.parked != 0) = true ∧
    lowestBad [⟨0, 0, (8196 : Nat), 8⟩] (outside xm false) = none ∧ lowestBad [⟨0, 0, (8196 : Nat), 8⟩] (fun p => p.addr.toNat % 8 != 0) = some 8196 := by decide +kernel
theorem witness_JoinAndExit_join : At xk.s xk ∧ AccessOk xk (gblockOk 4 60) ((List.range 4).map (fun i => 128 + 60 + i) ++ gguard 7) [] ∧ gpred xk.g 7 = false ∧ gpred xk.g 0 = true ∧
    inScratch (brec xk.g (wbits (greg xk.g 60) 2 0)) = false ∧ (∃ y g, CounterAt (afterReads xk ([188, 189, 190, 191] ++ gguard 0)) 60 .rmw patom y g) ∧
    (let x := envOf (copyState fun s => { s with groups := kmod s.groups 0 fun g => { g with gregs := [(60, 3)] } })
     At x.s x ∧ inScratch (brec x.g (wbits (greg x.g 60) 2 0)) = true ∧ x.g.level = .user) := by
  refine ⟨at_envOf _ (by decide +kernel), ?_, ?_, ?_, ?_, counterAt_of ?_, at_envOf _ (by decide +kernel), ?_⟩ <;> (try unfold AccessOk PlainOk Ready) <;> decide +kernel
theorem witness_Beacons_held :
    (let x := envOf (ending { id := 7, kind := .store, group := 0, gid := 1, tags := [3] } fun g => { g with gregs := [(63, 2 ^ 18)] })
     At x.s x ∧ releaseHeld x = false ∧ remoteHeld x = true ∧ (gsrc x.g 63).getLsbD 18 = true) ∧ remoteHeld x0 = false := by
  refine ⟨⟨at_envOf _ (by decide +kernel), ?_⟩, ?_⟩ <;> decide +kernel
theorem witness_Beacons : At s0 x0 ∧ releaseHeld x0 = false ∧ x0.g.level = .user ∧
    OpOk x0 (gsOk 127 && vblockOk x0.g 83 13) (gcode 127 :: (List.range 13).map (83 + ·)) [pcode 7] 1 ∧ wbits (gsrc x0.g 127) 31 19 = 0 ∧
    (let x := envOf (tState tFrag (fun g => { g with gregs := [(63, 2 ^ 19)] }) id id)
     At x.s x ∧ OpOk x (gsOk 63 && vblockOk x.g 0 13) (gcode 63 :: (List.range 13).map (0 + ·)) [] 0 ∧ wbits (gsrc x.g 63) 31 19 ≠ 0) ∧
    (let o : Op := { id := 7, kind := .beacon 7 true, group := 0, gid := 1 }
     AtCompletion (ending o id) o (envOf (ending o id)).g ∧ o.sent = 0 ∧ o.refused = 0) ∧
    (let o : Op := { id := 7, kind := .beacon 0 true, group := 0, gid := 1, refused := 1 }
     AtCompletion (ending o id) o (envOf (ending o id)).g ∧ o.sent = 0 ∧ o.refused ≠ 0 ∧ (envOf (ending o id)).g.level = .user ∧ kfind (envOf (ending o id)).g.table o.entry = some tFrag) := by
  refine ⟨at_s0, ?_, ?_, ?_, ?_, ⟨at_envOf _ (by decide +kernel), ?_⟩, ?_, ?_⟩ <;> (try unfold OpOk AccessOk PlainOk Ready) <;> (try unfold AtCompletion) <;> decide +kernel
def aCairn : Cairn := { part := 0, base := 0, size := 64, total := 2, write := true, wordVa := 8192, value := 5 }
theorem witness_ArmAndDisarm :
    (let x := envOf (copyState fun s => { s with groups := kmod s.groups 0 fun g => { g with gregs := [(8, 2 ^ 9 + 8 * 2), (9, 1)] } })
     let codes := (List.range 8).map fun i => 128 + 8 + i
     At x.s x ∧ OpOk x (gblockOk 8 8 && gdOk 63) codes [191] 1 ∧ x.g.level = .user ∧
     (match armChecks (afterReads x codes) ((List.range 8).map fun i => greg x.g (8 + i)) with | .inr _ => true | .inl _ => false) = true ∧
     OpOk x (gblockOk 8 56 && gdOk 63) ((List.range 8).map fun i => 128 + 56 + i) [191] 1 ∧ cmd ((List.range 8).map fun i => greg x.g (56 + i)) 1 = 0 ∧
     OpOk x (gsOk 127 && gdOk 63) [gcode 127] [191] 1) ∧
    (let o : Op := { id := 7, kind := .arm 0 0 64 2 8192 5 1 none, group := 0, gid := 1, dest := 63 }
     AtCompletion (ending o id) o (envOf (ending o id)).g ∧ freeCairn (ending o id) ((homeSlice (ending o id) 0).getD 0) = some 0 ∧
     (∀ q ∈ domSlices (ending o id) 0, (kget ({} : Slice) (ending o id).slices q).filters.length < 256) ∧
     freeCairn { ending o id with slices := [(0, { cairns := (List.range 64).map fun i => (i, aCairn) })] } 0 = none ∧ (envOf (ending o id)).g.level = .user) ∧
    (let o : Op := { id := 7, kind := .disarm 3, group := 0, gid := 1, dest := 63 }
     let s := { ending o id with slices := [(0, { cairns := [(3, aCairn)], filters := [3] })] }
     AtCompletion s o (envOf s).g ∧ o.vshadow = [] ∧ o.gshadow = [] ∧ ownCairn s 0 3 = some aCairn ∧ ownCairn s 0 4 = none) := by
  refine ⟨⟨at_envOf _ (by decide +kernel), ?_⟩, ?_, ?_⟩ <;> (try unfold OpOk AccessOk PlainOk Ready) <;> (try unfold AtCompletion) <;> decide +kernel
/-- Counts held for a cairn, below and at its total; a post that waits for room. -/
theorem witness_CairnCountsAndFirings :
    let s := fun (c : Cairn) (k : Nat) (s : State) => { s with slices := [(0, { cairns := [(3, c)], notes := [(3, k)] })] }
    let post := { aCairn with write := false, post := true, spent := true, owed := 2, task := some oneRec }
    (∀ k, k < 3 → cairnAt (s aCairn k s0) 3 = some aCairn ∧ kfind (kget ({} : Slice) (s aCairn k s0).slices 0).notes 3 = some k) ∧
    kfind (kget ({} : Slice) (s aCairn 1 s0).slices 1).notes 3 = none ∧ aCairn.spent = false ∧ aCairn.sum + 1 < aCairn.total ∧ aCairn.total ≤ aCairn.sum + 2 ∧
    aCairn.owed = 0 ∧ aCairn.rearm = false ∧ aCairn.wordVa + 8 ≤ 2 ^ 57 ∧ (∀ q ∈ (s aCairn 2 xm.s).slices, q.2.sums = [] ∧ q.2.waiters = []) ∧
    (match judge (s aCairn 2 xm.s) 0 .supervisor .write 8192 (walk (s aCairn 2 xm.s) 0 8192) with | .ok 0 15 5 _ => true | _ => false) = true ∧
    cairnAt (s post 0 s0) 3 = some post ∧ (let u := fun n => { s post 0 (withBin 1 s0) with dies := [(homeDie s0 0 7, { bins := [(7, { recs := List.replicate n oneRec, hw := true })] })] }
     (nodeFor (u 1) (homeDie (u 1) 0 7) 0 7).isSome = true ∧ (placeRec (u 1) 0 (homeDie (u 1) 0 7) [] oneRec).isSome = true ∧
     (placeRec (u 32) 0 (homeDie (u 32) 0 7) [] oneRec) = none) := by decide +kernel

/-! ## The system, groups, placement and queues -/

def xh : Env := envOf (handler .before)
theorem witness_ReturnsFromTraps : At s0 x0 ∧ x0.g.level = .user ∧ At xh.s xh ∧ xh.g.level = .supervisor ∧ xh.b.resumed = false ∧
    xh.outstanding.any (fun o => match o.kind with | .saveRestore _ _ => true | _ => false) = false ∧
    (∃ k, xh.g.bank = some k ∧ k.trap.kind ≠ .preempt ∧ k.trap.kind ≠ .resume ∧ (∀ n, k.trap.kind ≠ .copy n) ∧
      k.gvals.map (·.1) = List.range' 56 8 ∧ k.recs.map (·.1) = List.range' 4 4) ∧
    (let x := envOf (handler .preempt)
     At x.s x ∧ x.g.bank.any (fun k => k.trap.kind == .preempt) = true ∧ x.g.saved = false ∧ x.b.resumed = false) ∧
    (let x := envOf (tState tFrag (fun g => { g with level := .supervisor }) id id)
     At x.s x ∧ x.g.level = .supervisor ∧ x.g.bank = none) ∧ rteHeld xh = false ∧
    (let x := envOf { handler .before with blocks := [(1, { xh.b with resumed := true })] }
     At x.s x ∧ x.g.level = .supervisor ∧ x.g.bank.isSome = true ∧ rteHeld x = true) := by
  refine ⟨at_s0, ?_, at_handler, ?_, ?_, ?_, ⟨_, rfl, ?_, ?_, ?_, ?_, ?_⟩, ⟨at_envOf _ (by decide +kernel), ?_⟩, ⟨at_envOf _ (by decide +kernel), ?_⟩, ?_, ⟨at_envOf _ (by decide +kernel), ?_⟩⟩
  case refine_7 => intro n h; cases h
  all_goals decide +kernel
/-- System register 0 at both halves of the fields; one that does not exist; frames owned and not; a suspended copy with and without its trap. -/
theorem witness_SystemRegistersAndCounts : At xh.s xh ∧ xh.g.level = .supervisor ∧ sysReg 0 = true ∧ (sysReg (127 + 128 * 7) || groupReg (127 + 128 * 7)) = false ∧
    groupReg 0x111 = true ∧ sysReg 0x111 = false ∧
    PlainOk xh ((sysReg 0 || groupReg 0) && gdOk 63) [] [128 + 63] ∧ PlainOk xh ((sysReg 0 || groupReg 0) && gsOk 63) [gcode 63] [] ∧
    PlainOk xh (gsPairOk 62 && gdOk 63) [gcode 62, gcode (pairHi 62)] [128 + 63] ∧ ¬(0 < hbmFrames xh.s.mgmt.config ∧ frameOwner xh.s 0 = xh.b.part) ∧
    (let x := envOf (memState (fun g => { g with level := .supervisor, gregs := [(62, 5)] }) id)
     At x.s x ∧ 5 < hbmFrames x.s.mgmt.config ∧ frameOwner x.s 5 = x.b.part ∧ freeWaits x.s x.b.part = false ∧
       freeWaits (migrating { x.s with parts := kmod x.s.parts 0 fun p => { p with regs := kput p.regs 0x212 4 }, mgmt := { x.s.mgmt with fcount := [(5, 1)] } }) x.b.part = true) ∧
    PlainOk xh (gsOk 127 && gdOk 63) [gcode 127] [128 + 63] ∧ (kfind xh.b.copies 0).all (fun c => c.state != .suspended) = true ∧
    (let c : Copy := { group := 0, state := .suspended }
     let x := fun ts => envOf (tState tFrag (fun g => { g with level := .supervisor, traps := ts }) (fun b => { b with copies := [(0, c)] }) id)
     At (x []).s (x []) ∧ kfind (x []).b.copies 0 = some c ∧ c.group = (x []).k ∧ c.locked = true ∧ owedTrap (x []).g 0 = none ∧
     owedTrap (x [{ code := 5, kind := .copy 0 }]).g 0 = some { code := 5, kind := .copy 0 }) := by
  refine ⟨at_handler, ?_, ?_, ?_, ?_, ?_, ?_, ?_, ?_, ?_, ⟨at_envOf _ (by decide +kernel), ?_⟩, ?_, ?_, at_envOf _ (by decide +kernel), ?_⟩ <;>
    (try unfold PlainOk Ready) <;> decide +kernel
/-- An image of the smallest group fits b0, made a record of bytes; a restore of it is refused, its words being zero; a good one is accepted. -/
def saveState (mem : List Host.Cell) (g : Group → Group) (b : Block → Block) : State :=
  let s := memState (fun h => g { h with level := .supervisor, units := 1, acch := 0, brecs := [(0, mkLinear 7 0 65536 0 0 false 0)] }) (fun c => b { c with spsize := 256, slot := some 0 })
  { s with mem := mputAll s.mem mem }
theorem witness_SaveAndRestore :
    let x := envOf (saveState [] id id)
    let y := envOf (saveState [] (fun g => { g with resumed := true }) fun b => { b with resumed := true })
    let z := envOf (saveState (nz (5 * 65536) [3, 0, 0, 0, 0, 0x18, 0, 0]) (fun g => { g with resumed := true }) fun b => { b with resumed := true })
    let w := envOf (saveState (nz (5 * 65536) [3, 0, 0, 0, 0, 1, 0, 0]) (fun g => { g with resumed := true }) fun b => { b with resumed := true })
    let at' := fun (x : Env) (n : Nat) (wr : Bool) => match imageAt (afterReads x [gcode 127]) 127 0 n wr with
      | .inr (y, sg) => sg.all (fun q => q.tier ≤ 1) && quietB y.s && y.f.wait == .none && y.g.parked == none | .inl _ => false
    let image := fun (x : Env) (n : Nat) => match imageAt (afterReads x [gcode 127]) 127 0 n false with | .inr (y, sg) => getImage y.s sg | .inl _ => []
    At x.s x ∧ x.g.level = .supervisor ∧ PlainOk x (gsOk 127) [gcode 127] [] ∧ x.outstanding = [] ∧ x.g.pending = [] ∧ copiesMove x.b (some x.k) = false ∧
    at' x (5120 + 1024 * x.g.units + 4096 * x.g.acch) true = true ∧ PlainOk x (gsOk 127 && x.g.index == 0) [gcode 127] [] ∧ copiesMove x.b none = false ∧
    at' x (0x2000 + x.b.spsize) true = true ∧ (blockGroups y.s y.g.block).all (fun k => (kget {} (envOf (saveState [] (fun g => { g with saved := true }) id)).s.groups k).saved) = true ∧
    At y.s y ∧ PlainOk y (gsOk 127 && y.g.resumed) [gcode 127] [] ∧ at' y (5120 + 1024 * y.g.units + 4096 * y.g.acch) false = true ∧ leAt (image y 6144) 0 1 ≠ 3 ∧
    At z.s z ∧ leAt (image z 6144) 0 1 = 3 ∧ leAt (image z 6144) 20 4 = z.b.part ∧ leAt (image z 6144) 4 4 = imageSize z.g ∧
    PlainOk y (gsOk 127 && y.g.resumed && y.g.index == 0) [gcode 127] [] ∧ at' y (0x2000 + y.b.spsize) false = true ∧
    At w.s w ∧ leAt (image w 8448) 0 1 = 3 ∧ bits (leAt (image w 8448) 0 4) 22 17 = w.b.part ∧ leAt (image w 8448) 4 4 = w.b.spsize ∧
    engineCopies w.s w.core + leAt (image w 8448) 12 4 ≤ 32 := by
  refine ⟨at_envOf _ (by decide +kernel), ?_, ?_, ?_, ?_, ?_, ?_, ?_, ?_, ?_, ?_, at_envOf _ (by decide +kernel), ?_, ?_, ?_, at_envOf _ (by decide +kernel), ?_, ?_, ?_, ?_, ?_,
    at_envOf _ (by decide +kernel), ?_⟩ <;> (try unfold PlainOk Ready) <;> decide +kernel
/-- An image on a peer's page is asked for; its operation, with the bytes come, of a good image and of none. -/
def peerImage (kind : OpKind) (head : Nat) (g : Group → Group) : State :=
  { saveState [] (fun h => g { h with resumed := true }) (fun b => { b with resumed := true }) with
    ops := [{ id := 7, kind := kind, group := 0, gid := 1, held := true, vwrites := [(0, 3), (1, word head)] }] }
theorem witness_SaveAndRestore_peer :
    (let x := envOf (atPeer (saveState [] (fun g => { g with resumed := true }) fun b => { b with resumed := true }))
     At x.s x ∧ (match imageAt (afterReads x [gcode 127]) 127 0 6144 false with | .inr (_, sg) => sg.any (·.tier == 2) | .inl _ => false) = true) ∧
    (let s := peerImage (.saveRestore false true) 6144 id
     let y := envOf s
     let im := wordsImage (imageSize y.g) [(0, 3), (1, word 6144)]
     At s y ∧ y.g.level = .supervisor ∧ imageSize y.g = 6144 ∧ leAt im 0 1 = 3 ∧ leAt im 4 4 = 6144 ∧ leAt im 20 4 = y.b.part) ∧
    (let s := peerImage (.saveRestore false true) 0 id
     leAt (wordsImage (imageSize (envOf s).g) [(0, 3), (1, 0)]) 4 4 ≠ imageSize (envOf s).g) ∧
    (let s := peerImage (.saveRestore true true) 256 id
     let im := wordsImage (0x2000 + 256) [(0, 3), (1, 256)]
     (envOf s).b.spsize = 256 ∧ leAt im 0 1 = 3 ∧ bits (leAt im 0 4) 22 17 = (envOf s).b.part ∧ leAt im 4 4 = 256 ∧ engineCopies s 0 + leAt im 12 4 ≤ 32 ∧
     (kfind s.groups 0 = some (envOf s).g ∧ (envOf s).g.gid = 1 ∧ s.ops.map (·.tags) = [[]])) := by
  refine ⟨⟨at_envOf _ (by decide +kernel), ?_⟩, ⟨at_envOf _ (by decide +kernel), ?_⟩, ?_, ?_⟩ <;> decide +kernel
theorem witness_SaveRestoreCompletion : ∀ k ∈ ([.saveRestore false false, .saveRestore true true] : List OpKind),
    let o : Op := { id := 7, kind := k, group := 0, gid := 1 }
    AtCompletion (ending o id) o (envOf (ending o id)).g ∧ kfind (ending o id).blocks 1 = some (envOf (ending o id)).b := by
  unfold AtCompletion; decide +kernel
theorem witness_GroupStarts :
    let g := fun f => (envOf (tState tFrag f id id)).g
    (kfind s0.groups 0 = some (g id) ∧ (g id).started = true) ∧
    ((g fun g => { g with started := false }).started = false ∧ (g fun g => { g with started := false }).resumed = false ∧ (g fun g => { g with started := false }).task = none) ∧
    (g fun g => { g with started := false, task := some (1, 7, 3) }).task = some (1, 7, 3) ∧ (g fun g => { g with started := false, resumed := true }).resumed = true := by decide +kernel
/-- A group that is over, alone in its block and with another; one that is not; a rotation due; a fragment that may proceed; launches. -/
theorem witness_EndsAndFragments :
    (let s := tState tFrag (fun g => { g with live := 0 }) id id
     let g := (envOf s).g
     kfind s.groups 0 = some g ∧ g.started = true ∧ g.live = 0 ∧ g.level = .user ∧ g.traps = [] ∧ g.parked = none ∧ ownCopies s 0 g = false ∧
     s.ops.any (fun o => o.gid == g.gid) = false ∧ (kget ({} : Core) s.cores (kget ({} : Block) s.blocks g.block).core).keystones.all (fun q => q.2.block != g.block) = true ∧
     blockGroups s g.block = [0] ∧ (blockGroups { s with groups := s.groups ++ [(1, g)] } g.block).any (· != 0) = true ∧ (kget ({} : Block) s.blocks g.block).preempting = false) ∧
    x0.g.live ≠ 0 ∧
    (let s := tState tFrag (fun g => { g with table := (List.range Config.tableEntries).map (·, tFrag), spill := [tFrag] }) id fun s => { s with clock := 2048 }
     let g := settle (envOf s).g
     g.level = .user ∧ g.spill ≠ [] ∧ freeEntry g = none ∧ g.rotClock + Config.rotationClocks ≤ s.clock ∧ s.ops.any (fun o => o.gid == g.gid && o.held) = false ∧
     g.parked = none ∧ g.resuming = none ∧ rotationVictim g = some 0 ∧ g.spill.getLast? = some tFrag) ∧
    (let x := envOf (tState { tFrag with wait := .reconv, reconv := some 4 } id id id)
     x.g.level = .user ∧ mayProceed x.g 0 x.f = true) ∧ mayProceed x0.g 0 x0.f = false ∧
    (let q : Launch := { killed := true, bytes := List.replicate 72 0 ++ leOut 8 8192 ++ leOut 8 1 ++ leOut 8 8200 }
     let s := { xm.s with launches := [(9, q)], clusters := [] }
     kfind s.launches 9 = some q ∧ launchOver q s 9 = true ∧ launchOver { q with killed := false, bytes := List.replicate 20 1 ++ leOut 8 0x100010001 } s 9 = false ∧
     (match releaseWrite s (lPart q.bytes) (leAt q.bytes 88 8) (.set 3) with
      | some t => (releaseWrite t (lPart q.bytes) (leAt q.bytes 72 8) (.add 1)).isSome | none => false) = true ∧
     releaseWrite (migrating s) (lPart q.bytes) (leAt q.bytes 88 8) (.set 3) = none) := by decide +kernel
/-- A node table at virtual 28672 whose node 1 is valid, the core's division being the default. -/
def nodeDesc : List Byte := List.replicate 26 0 ++ [1, 1] ++ List.replicate 8 0 ++ leOut 4 1 ++ leOut 8 0 ++ leOut 4 16 ++ List.replicate 12 0
def nodes (s : State) : State :=
  { s with mem := mputAll s.mem (nz (5 * 65536 + 28672 + 64) nodeDesc)
           parts := kmod s.parts 0 fun p => { p with regs := kputAll p.regs [(0x200, 28672), (0x202, 2), (0x208, 1), (0x209, 2)] } }
def rec1 : TaskRec := { node := 1, scope := 1, args := [5] }
/-- A bin waits for a core; the only core that fits belongs to a pre-emptible block. -/
def waitingBin : Die := { waiting := [.bin 0 1 0], bins := [(1, { recs := [rec1], desc := nodeDesc })] }
def crowded : State :=
  nodes { xm.s with
    dies := [(0, waitingBin)], groups := kput (kmod xm.s.groups 0 fun g => { g with acch := 0 }) 64 { gid := 5, block := 2 }
    clusters := [(1, { blocks := [1] }), (2, { blocks := [2] })], blocks := [(1, { xm.b with pri := 4, spsize := 0 }), (2, { cluster := 2, core := 1 })]
    cores := [(0, { division := some (4, 28, 16) }), (1, { division := some (4, 28, 16) })] }
theorem witness_PlacementAndPreemption :
    (kget ({} : Die) s0.dies 0).waiting = [] ∧ (kget ({} : Die) s0.dies 0).reservation.all (fun r => decide (s0.clock < r.due) || workWaits s0 0 r.work) = true ∧
    inOrder waitingBin.waiting = [.bin 0 1 0] ∧ (kget ({} : Die) crowded.dies 0).reservation = none := by decide +kernel
theorem witness_PlacementAndPreemption_reserve :
    let s := nodes { xm.s with dies := [(0, waitingBin)] }
    reserve s 0 (some (.bin 0 1 0)) (needsOf s 0 (.bin 0 1 0)) [] = some [1] := by decide +kernel
/-- A launch no core of whose partition can take, before a bin that a core can take. -/
theorem witness_PlacementAndPreemption_stuck :
    let s := nodes { xm.s with
      dies := [(0, { waitingBin with waiting := [.launch 9 0, .bin 0 1 0] })]
      launches := [(9, { bytes := List.replicate 20 0 ++ leOut 2 1 ++ leOut 2 1 ++ leOut 2 1 ++ List.replicate 6 0 ++ leOut 4 (1 + 1024 + 32768) ++ leOut 4 (10 * 65536) ++ List.replicate 16 0 ++ leOut 2 1 ++ List.replicate 198 0 })] }
    inOrder (kget ({} : Die) s.dies 0).waiting = [.launch 9 0, .bin 0 1 0] ∧ reserve s 0 (some (.launch 9 0)) (needsOf s 0 (.launch 9 0)) [] = none ∧
    victims s 0 (.launch 9 0) = none ∧ reserve s 0 (some (.bin 0 1 0)) (needsOf s 0 (.bin 0 1 0)) [] = some [1] := by decide +kernel
theorem witness_PlacementAndPreemption_victims :
    reserve crowded 0 (some (.bin 0 1 0)) (needsOf crowded 0 (.bin 0 1 0)) [] = none ∧ victims crowded 0 (.bin 0 1 0) = some ([1], [0]) ∧ (preemptAll crowded 0 0 [1]).isSome = true := by decide +kernel
def reserved : Reservation := { work := .launch 9 0, cores := [1], due := 0 }
theorem witness_PlacementAndPreemption_commit :
    (kget ({} : Die) { s0 with dies := [(0, { reservation := some reserved })] }.dies 0).reservation = some reserved ∧ reserved.due ≤ s0.clock ∧
    workWaits s0 0 reserved.work = false := by decide +kernel
/-- A pair shared by partitions 0 and 1, whose slice has run. -/
def sharedPair : State := { s0 with clock := 65536, mgmt := { s0.mgmt with mcpair := [(0, 3)] }, parts := [(0, { state := .active, regs := [(0x20A, 1)] })], dies := [(0, { waiting := [.bin 1 7 0] })], blocks := [] }
theorem witness_PlacementAndPreemption_slice :
    holderOf sharedPair 0 = some 0 ∧ (preg sharedPair 0 0x20A).toNat = 1 ∧ kget 0 sharedPair.mgmt.sliceStart 0 + 65536 ≤ sharedPair.clock ∧ popBits 64 3 = 2 ∧
    ((List.range 64).map fun i => (0 + 1 + i) % 64).find? (fun p => bitOf 3 p && p != 0 && (kget ({} : Die) sharedPair.dies 0).waiting.any fun w => w.part sharedPair == p) = some 1 ∧
    ((List.range 64).map fun i => (0 + 1 + i) % 64).find? (fun p => bitOf 3 p && p != 0 && (kget ({} : Die) s0.dies 0).waiting.any fun w => w.part s0 == p) = none := by decide +kernel
theorem witness_PlacementAndPreemption_host : preemptAll s0 0 2 [1] = none ∧ (preemptAll crowded 0 2 [1]).isSome = true := by decide +kernel

def bins (b : Bin) : State := { s0 with dies := [(0, { bins := [(7, b)] }), (homeDie s0 0 7, { bins := [(7, b)] })] }
theorem witness_BinsAndQuarries :
    (binAt (bins { recs := [oneRec], desc := nodeDesc }) 0 0 7).ready = false ∧ (binAt (bins { recs := [oneRec], desc := nodeDesc }) 0 0 7).recs ≠ [] ∧ nCoal nodeDesc ≤ 1 ∧
    (binAt (bins { ready := true }) 0 0 7).ready = true ∧ (binAt (bins {}) (homeDie s0 0 7) 0 7).ring = [] ∧
    (binAt (bins { hw := true, ring := [(0, oneRec)] }) (homeDie s0 0 7) 0 7).hw = true ∧
    (let s := fun w => { bins { hw := w, ring := [(0, oneRec)], recs := [oneRec] } with parts := [(0, { state := .active, regs := [(0x202, 8)] })] }
     (nodeFor (s true) (homeDie (s true) 0 7) 0 7).isSome = true ∧ (binAt (s false) (homeDie (s false) 0 7) 0 7).hw = false) ∧
    (let s := nodes { xm.s with dies := [(homeDie xm.s 0 1, { bins := [(1, { ring := [(4, rec1)] }), (8, { ring := [(3, oneRec)] })] })] }
     longestWait s (homeDie s 0 1) = some (binKey 0 1) ∧ longestWait s (homeDie s 0 1) ≠ some (binKey 0 8)) := by decide +kernel
def frame1 : Frame := { recs := [rec1] }
def quarried (c0 c1 : Core) : State := nodes { xm.s with cores := [(0, c0), (1, c1)], groups := [], blocks := [] }
theorem witness_BinsAndQuarries_take :
    (kget ({} : Core) (quarried {} { quarry := [frame1] }).cores 1).quarry.reverse.find? (fun f => !f.transit) = some frame1 ∧ frame1.cont = false ∧
    (frameFits (quarried {} { quarry := [frame1] }) 1 frame1).isSome = true ∧ frameFits s0 1 frame1 = none := by decide +kernel
theorem witness_BinsAndQuarries_request :
    (kget ({} : Core) (quarried {} { quarry := [frame1] }).cores 0).steal = none ∧ framesOf (quarried {} { quarry := [frame1] }) 0 = [] ∧
    framesOf (quarried {} { quarry := [frame1] }) 1 = [(frame1, false)] ∧ stealable (quarried {} { quarry := [frame1] }) 0 1 frame1 = true := by decide +kernel
theorem witness_BinsAndQuarries_victim : victimOf (quarried {} { quarry := [frame1] }) 0 = some 1 := by decide +kernel
theorem witness_BinsAndQuarries_arrival :
    (kget ({} : Core) (quarried { steal := some ⟨1, { frame1 with transit := true }⟩ } {}).cores 0).steal = some ⟨1, { frame1 with transit := true }⟩ ∧
    (frameFits (quarried { steal := some ⟨1, { frame1 with transit := true }⟩ } {}) 0 { frame1 with transit := true }).isSome = true ∧
    (kget ({} : Core) (quarried {} { quarry := [{ frame1 with transit := true }] }).cores 1).quarry.contains { frame1 with transit := true } = true ∧
    (kget ({} : Core) s0.cores 0).steal.all (fun t => (frameFits s0 0 t.frame).isNone) = true := by decide +kernel
def joining : State :=
  tState { tFrag with wait := .join, watch := some ⟨false, 0, 4096, 0, 0⟩ } id id fun s => { s with cores := [(0, { quarry := [{ cont := true, ctr := 4096 }] })] }
theorem witness_BinsAndQuarries_join :
    (kget ({} : Core) joining.cores 0).quarry.reverse.find? (fun f => !f.transit) = some { cont := true, ctr := 4096 } ∧ (kfind joining.groups 0).isSome = true ∧
    (envOf joining).f.watch.any (fun w => w.tier == 4096 / 2 ^ 56 && w.addr == 4096 % 2 ^ 56) = true := by decide +kernel
/-- A queue of partition 0 whose ring lies at virtual 20480 and holds one entry. -/
def queued (u : Queue) (e : List Byte) : State :=
  nodes { xm.s with queues := [(5, { u with base := 20480, size := 4, ctl := 1 })], mgmt := { xm.s.mgmt with qown := [(5, 0)] }, mem := mputAll xm.s.mem (nz (5 * 65536 + 20480) e) }
def entry (k : Nat) (bs : List Byte) : List Byte := bs ++ List.replicate (63 - bs.length) 0 ++ leOut 1 k
/-- A launch record: one cluster of one block of one group of one lane. -/
def launchRec : List Byte :=
  List.replicate 20 0 ++ leOut 2 1 ++ leOut 2 1 ++ leOut 2 1 ++ List.replicate 6 0 ++ leOut 4 (1 + 1024 + 32768) ++ List.replicate 20 0 ++ leOut 2 1 ++ List.replicate 198 0
theorem witness_QueuesRun : (partAt s0 (qOwner s0 0)).state = .absent ∧ xm.s.mgmt.hostUp = true ∧ (partAt (queued {} []) (qOwner (queued {} []) 5)).state ≠ .absent ∧
    qOwner (queued {} []) 5 = 0 ∧ nextQueue s0 = none ∧ nextQueue (queued { tail := 17 } []) = some 5 ∧
    overrun (queueAt (queued { tail := 17 } []) 5) = true ∧ headEntry { queued { tail := 1 } [] with parts := [] } 5 = none ∧
    entryOk (entry 0 []) = true ∧ entryOk (entry 5 []) = false ∧ leAt (entry 1 (leOut 8 24576)) 0 8 % 256 = 0 ∧ leAt (entry 1 [1]) 0 8 % 256 ≠ 0 := by decide +kernel
/-- The head entry is read and served, whatever its kind; one already read is not read again. -/
theorem witness_QueuesRun_head : ∀ e ∈ [entry 0 [], entry 2 [1], entry 3 [], entry 4 [3], entry 5 []],
    nextQueue (queued { tail := 1 } e) = some 5 ∧ overrun (queueAt (queued { tail := 1 } e) 5) = false ∧ headEntry (queued { tail := 1 } e) 5 = some e ∧
    deviceWaits (queued { tail := 1 } e) 0 .read (headPlace (queued { tail := 1 } e) 5) 64 = false ∧
    headEntry (queued { tail := 1, held := e } []) 5 = some e ∧ (queueAt (queued { tail := 1, held := e } []) 5).held ≠ [] := by decide +kernel
/-- An entry on a migrating page is waited for: its queue is the next, for a head that cannot be read has priority 0. -/
theorem witness_QueuesRun_wait : nextQueue (migrating (queued { tail := 1 } (entry 0 []))) = some 5 ∧
    deviceWaits (migrating (queued { tail := 1 } (entry 0 []))) 0 .read (headPlace (migrating (queued { tail := 1 } (entry 0 []))) 5) 64 = true := by decide +kernel
/-- A launch's entry as it has been read, and its record's bytes. -/
def launchState (r : List Byte) : State :=
  let s := queued { tail := 1, held := entry 1 (leOut 8 24576) } (entry 1 (leOut 8 24576))
  { s with mem := mputAll s.mem (nz (5 * 65536 + 24576) r) }
theorem witness_QueuesRun_launch :
    (queueAt (launchState launchRec) 5).held.length = 64 ∧ headRecord (launchState launchRec) 5 (entry 1 (leOut 8 24576)) = some launchRec ∧
    launchCode (launchState launchRec) 5 launchRec = none ∧ headRecord (launchState []) 5 (entry 1 (leOut 8 (2 ^ 40))) = none ∧
    launchCode (launchState []) 5 (List.replicate 256 0) = some 3 ∧ (refusedStatus (launchState []) 5 3 (List.replicate 256 0)).isSome = true ∧
    refusedStatus (migrating (launchState [])) 5 3 (List.replicate 88 0 ++ leOut 8 8192 ++ List.replicate 160 0) = none ∧
    deviceWaits (migrating (launchState [])) 0 .read 24576 256 = true ∧ deviceWaits (launchState []) 0 .read 24576 256 = false := by decide +kernel
def taskState (n : Nat) : State :=
  let s := queued { tail := 1 } (entry 2 [1])
  { s with dies := [(homeDie s 0 1, { bins := [(1, { recs := List.replicate n rec1, hw := true })] })] }
theorem witness_QueuesRun_task : (nodeFor (taskState 0) (homeDie (taskState 0) 0 1) 0 1).isSome = true ∧ (placeRec (taskState 0) 0 (homeDie (taskState 0) 0 1) nodeDesc rec1).isSome = true ∧
    nodeFor (taskState 0) (homeDie (taskState 0) 0 9) 0 9 = none ∧ (nodeFor (taskState 32) (homeDie (taskState 32) 0 1) 0 1).isSome = true ∧
    nodeHeld (taskState 0) (homeDie (taskState 0) 0 1) 0 1 = false ∧ nodeHeld (migrating (taskState 0)) (homeDie (taskState 0) 0 1) 0 1 = true ∧
    placeRec (taskState 32) 0 (homeDie (taskState 32) 0 1) [] rec1 = none ∧ qRuns (queued { taskRetry := true, tail := 1 } (entry 2 [1])) 5 = true ∧
    overrun (queueAt (queued { taskRetry := true, tail := 1 } (entry 2 [1])) 5) = false ∧ overrun (queueAt (queued { taskRetry := true, tail := 17 } []) 5) = true ∧
    headEntry (queued { taskRetry := true, tail := 1, held := entry 2 [1] } []) 5 = some (entry 2 [1]) ∧
    (queueAt (queued { taskRetry := true } []) 5).taskRetry = true ∧ qRuns s0 5 = false := by decide +kernel
def armEntry : List Byte := entry 3 (leOut 8 8192 ++ leOut 4 64 ++ leOut 4 1 ++ leOut 8 16384 ++ List.replicate 16 0 ++ leOut 8 16392 ++ leOut 4 1)
theorem witness_QueuesRun_arm :
    (match entryChecks (queued { tail := 1 } armEntry) 0 armEntry with
     | (.inr (pa, _), t) => freeCairn t ((homeSlice t pa).getD 0) == some 0 && (domSlices t pa).all (fun k => (kget ({} : Slice) t.slices k).filters.length < 256) && (resultWrite t 0 16392 1).isSome
     | (.inl _, _) => false) = true ∧ (entryChecks s0 0 (entry 3 [])).1 = .inl (some 0x13) ∧ (resultWrite (queued {} []) 0 16392 0).isSome = true ∧
    resultWrite (migrating (queued {} [])) 0 16392 0 = none ∧
    freeCairn { queued {} [] with slices := [(0, { cairns := (List.range 64).map fun i => (i, aCairn) })] } 0 = none := by decide +kernel
/-- An arm entry whose region's page migrates. -/
theorem witness_QueuesRun_migrating : (entryChecks (migrating (queued { tail := 1 } armEntry)) 0 armEntry).1 = .inl none := by decide +kernel
def disarmState : State := { queued { tail := 1 } (entry 4 [3]) with slices := [(0, { cairns := [(3, aCairn)] })] }
theorem witness_QueuesRun_disarm : ownCairn disarmState 0 3 = some aCairn ∧ ownCairn disarmState 0 4 = none ∧
    (resultWrite (freeEntryOf disarmState 3 aCairn) 0 16392 1).isSome = true := by decide +kernel

/-! ## Migration, memory upkeep, links, partitions, reset and hosts -/

/-- Partition 0's migration ring at virtual 20480, capacity 16, head 0 and tail 1, whose first entry is a command of kind 1 for the PTE of page 0. -/
def migState (e : List Byte) (pte : Nat) : State :=
  { xm.s with
    parts := kmod xm.s.parts 0 fun p => { p with doorbell := true, regs := kputAll p.regs [(0x20D, 20480), (0x20F, 4)] }
    mem := mputAll xm.s.mem ((5 * 65536 + 20484, 1) :: nz (5 * 65536 + 20480 + 64) e), fresh := xm.s.fresh + pte * 0 }
def oldPte : Nat := 15 * 2 ^ 52 + 65536 * 5 + 0x1F
def command (old kind : Nat) : List Byte := leOut 8 (65536 * 4) ++ leOut 8 old ++ leOut 8 oldPte ++ List.replicate 24 0 ++ leOut 1 kind ++ List.replicate 15 0
theorem witness_Migrations : (kget ({} : Partition) s0.parts 0).doorbell = false ∧ (kget ({} : Partition) (migState [] 0).parts 0).doorbell = true ∧
    migRing s0 0 = none ∧ migRing (migState [] 0) 0 = some (20480, 16) ∧ (deviceRead (migState [] 0) 0 20480 8).map (fun b => (leAt b 0 4, leAt b 4 4)) = some (0, 1) ∧
    deviceWaits (migState [] 0) 0 .read 20480 8 = false ∧ deviceWaits (migrating (migState [] 0)) 0 .read 20480 8 = true ∧ deviceRead { migState [] 0 with mem := [] } 0 20480 8 = none ∧
    deviceRead (migState (command oldPte 1) 0) 0 (20480 + 64) 64 = some (command oldPte 1) ∧ leAt (command oldPte 0) 48 1 = 0 ∧ leAt (command oldPte 1) 48 1 ≠ 0 ∧
    commandOk (migState (command oldPte 4) 0) 0 (command oldPte 4) = false ∧ commandOk (migState (command oldPte 1) 0) 0 (command oldPte 1) = true := by decide +kernel
theorem witness_Migrations_run : migWaits (migState [] 0) (65536 * 4) oldPte = false ∧ cairnFrame (migState [] 0) 5 = false ∧ pFrame oldPte = 5 ∧ pTier oldPte = 0 ∧
    cairnFrame { s0 with slices := [(0, { cairns := [(0, { aCairn with base := 5 * 65536 })] })] } 5 = true ∧ read8 (migState [] 0) (65536 * 4) = oldPte ∧
    read8 (migState [] 0) (65536 * 4) ≠ oldPte + 2 ∧ (engineWrite (migState [] 0) 0 0 (.add 1)).isSome = true ∧
    (engineWrite (migState [] 0) 0 8192 (.add 1)).isSome = true ∧ engineWrite (migrating (migState [] 0)) 0 8192 (.add 1) = none := by decide +kernel
def aMove (bad sent : Bool) : Migration := { id := 3, part := 0, pte := 65536 * 4, old := oldPte, new := oldPte, host := 0, ctr := 0, stat := 0, kind := 1, bad := bad, sent := sent }
theorem witness_Migrations_done :
    ({ xm.s with migrations := [aMove false true] }).migrations.find? (fun m => m.id == 3) = some (aMove false true) ∧ (aMove true true).bad = true ∧ (aMove false false).sent = false ∧
    migPending { xm.s with migrations := [aMove false true] } 3 = false ∧ (finishMigration { xm.s with migrations := [aMove false true] } (aMove false true)).isSome = true ∧
    (engineWrite (writePte xm.s (65536 * 4) oldPte) 0 0 (.set 2)).isSome = true ∧ migWaits { xm.s with migrations := [aMove false true] } (65536 * 4) oldPte = true := by decide +kernel
def domState (ctl : Word) : State := { s0 with mgmt := { s0.mgmt with down := [(3, 0)], domStaged := [(16 * 3 + 5, ctl)] } }
def dirState (ws : List Nat) : State :=
  { s0 with dies := [(0, { dir := [{ base := 8, size := 1, ptrs := [1, 2] }], conflicts := if ws = [] then [] else [{ line := 8, writer := 1, waiting := ws }] })] }
theorem witness_DomainsDirectoriesAndUpkeep :
    dOwner s0 3 ≠ 0 ∧ dOwner (domState 0) 3 = 0 ∧ domBusy (domState 0) 0 = false ∧ domBusy (domState 0x101) 0 = true ∧ sdctl (domState 0x101) 3 = 0x101 ∧
    sdctl (domState 0x102) 3 = 0x102 ∧ (dirOf s0 0).1.find? (fun e => e.covers 8) = none ∧
    (dirOf (dirState []) 0).1.find? (fun e => e.covers 9) = some { base := 8, size := 1, ptrs := [1, 2] } ∧
    (allHolders 0 { base := 8, size := 1, ptrs := [1, 2] }).filter (· != 1) = [2] ∧ (dirOf (dirState [2]) 0).2.any (fun c => c.line == 8) = true ∧
    (dirOf (dirState [2, 3]) 0).2.find? (fun c => c.line == 8) = some { line := 8, writer := 1, waiting := [2, 3] } ∧
    (dirOf (dirState []) 0).2.find? (fun c => c.line == 8) = none ∧ kfind (kget ({} : Core) s0.cores 0).l1 8 = none ∧ (kget ({} : Core) s0.cores 0).l1.length ≤ 2048 ∧
    (kget ({} : Core) s0.cores 0).tlb.length ≤ 256 ∧ (kget ({} : Die) s0.dies 0).tlb.length ≤ 16384 ∧ s0.mgmt.hostUp = false ∧ xm.s.mgmt.hostUp = true ∧
    xm.s.mgmt.fbias.contains 0 = false ∧ ¬((128 * 2 ^ 45 : Nat) < 2 ^ 52 ∧ xm.s.mgmt.fbias.contains 0 = false) ∧ quietB xm.s = true := by decide +kernel
def aPacket (type : Nat) : Packet := { type := type, src := 9, dst := 0, key := 1, field := 16 * 4096, body := leOut 1 0 ++ leOut 1 4 ++ List.replicate 50 0 }
def arrived (k : Packet) : State := { xm.s with inbox := [(3, k)], mgmt := { xm.s.mgmt with fowner := kput xm.s.mgmt.fowner 16 0 } }
def rest (k : Packet) : State := { arrived k with inbox := [] }
theorem witness_RequestsServed :
    (∀ n, n < 10 → takePacket (arrived (aPacket n)) 0 (· == n) = some (3, aPacket n)) ∧ takePacket s0 0 (· == 0) = none ∧ takePacket s0 0 (9 ≤ ·) = none ∧
    takePacket (arrived (aPacket 12)) 0 (9 ≤ ·) = some (3, aPacket 12) ∧ devNum xm.s = 0 ∧ (aPacket 0).dst = 0 ∧ ({ aPacket 0 with dst := 7 } : Packet).dst ≠ devNum xm.s ∧
    target (rest (aPacket 0)) (aPacket 0) 0 32 = .inr (0, 1048576) ∧ target (rest (aPacket 0)) { aPacket 0 with key := 2 } 0 32 = .inl 3 ∧
    target (rest (aPacket 0)) { aPacket 0 with field := 0 } 0 32 = .inl 5 ∧ quietB (arrived (aPacket 1)) = true ∧ poisoned (rest (aPacket 0)) 1048576 = false ∧
    keyPart (rest (aPacket 0)) 2 = none ∧ keyPart (rest (aPacket 0)) 1 = some 0 ∧ (opOf (aPacket 0).body).2.1 = 4 ∧ ¬((opOf (aPacket 0).body).2.2.1 = 1) := by decide +kernel
def aBeacon : Packet := { aPacket 4 with field := 1, body := leOut 2 7 ++ List.replicate 50 0 }
def beaconState (n : Nat) : State := { withBin 1 (rest aBeacon) with dies := [(homeDie xm.s 0 7, { bins := [(7, { recs := List.replicate n oneRec, hw := true })] })] }
theorem witness_RequestsServed_beacon : beaconCount aBeacon = 1 ∧ (beaconOf (aBeacon.body.take 52)).node = 7 ∧
    nodeFor (rest aBeacon) (homeDie (rest aBeacon) 0 7) 0 7 = none ∧ (nodeFor (beaconState 1) (homeDie (beaconState 1) 0 7) 0 7).isSome = true ∧
    (placeRec (beaconState 1) 0 (homeDie (beaconState 1) 0 7) [] oneRec).isSome = true ∧
    nodeHeld (beaconState 1) (homeDie (beaconState 1) 0 7) 0 7 = false ∧ nodeHeld (heldTable (rest aBeacon)) (homeDie (rest aBeacon) 0 7) 0 7 = true ∧ placeRec (beaconState 32) 0 (homeDie (beaconState 32) 0 7) [] oneRec = none := by decide +kernel
def asked (type : Nat) : State :=
  { arrived (aPacket (if type = 0 then 6 else if type = 4 then 7 else if type = 2 then 8 else 7)) with
    remotes := [(0, { type := type, dst := 9, op := some 7 })], ops := [{ id := 7, kind := .load false false, group := 0 }] }
theorem witness_AnswersTaken :
    (∀ n ∈ [0, 1, 2, 3, 4], kfind (asked n).remotes 0 = some { type := n, dst := 9, op := some 7 } ∧
      (asked n).ops.find? (fun o => o.id == 7) = some { id := 7, kind := .load false false, group := 0 }) ∧
    takePacket (asked 0) 0 (· == 6) = some (3, aPacket 6) ∧ takePacket (asked 2) 0 (· == 8) = some (3, aPacket 8) ∧ takePacket (asked 1) 0 (· == 7) = some (3, aPacket 7) ∧
    (aPacket 6).status = 0 ∧ ({ aPacket 6 with status := 4 } : Packet).status ≠ 0 ∧ kfind (arrived (aPacket 6)).remotes 0 = none ∧ takePacket (arrived (aPacket 5)) 0 (· == 5) = some (3, aPacket 5) := by decide +kernel
def aFlit (ctl : Nat) (good : Bool) : List Byte :=
  let b := List.replicate 120 0 ++ leOut 2 ctl ++ leOut 2 0
  b ++ leOut 4 (crc32c b + if good then 0 else 1)
def ported (q : Port) : State := { s0 with ports := [(15, q)] }
theorem witness_PortsAndRoutes :
    s0.remotes.any (fun r => r.2.dst == 4095) = false ∧ (asked 0).remotes.any (fun r => r.2.dst == 9) = true ∧ portOff s0 16 = true ∧ portOff s0 15 = false ∧
    (kget ({} : Port) s0.ports 15).enable = false ∧ (kget ({} : Port) (ported { enable := true }).ports 15).state = .down ∧ ({ enable := true, unacked := [(0, [])] } : Port).unacked ≠ [] ∧
    (kget ({} : Port) (ported { state := .training }).ports 15).state = .training ∧ (kget ({} : Port) (ported { state := .up }).ports 15).closing = false ∧
    (ackTo { unacked := [(0, [])] } 0).unacked = [] ∧ (ackTo { unacked := [(0, []), (1, [])] } 5).unacked ≠ [] ∧ (ackTo { unacked := [(0, []), (1, [])], replays := 8 } 5).replays = 8 ∧
    (aFlit 0 true).length = 128 ∧ crc32c ((aFlit 0 true).take 124) = leAt (aFlit 0 true) 124 4 ∧ crc32c ((aFlit 0 false).take 124) ≠ leAt (aFlit 0 false) 124 4 ∧
    leAt (aFlit 0 true) 120 2 % 4096 = (({} : Port).rxSeq + 1) % 4096 ∧ leAt (aFlit 9 true) 120 2 % 4096 ≠ (({} : Port).rxSeq + 1) % 4096 ∧
    (leAt (aFlit 0 true) 120 2).testBit 15 = false ∧ (leAt (aFlit 0x8000 true) 120 2).testBit 15 = true ∧ (leAt (aFlit 0 true) 122 2).testBit 15 = false := by decide +kernel
theorem witness_PartitionStates :
    (partAt s0 63).state = .absent ∧ (partAt s0 0).state = .active ∧
    (let s := { s0 with parts := [(0, { state := .configuring, key := 1 }), (1, { state := .configuring, key := 1 }), (2, { state := .draining })], mgmt := { s0.mgmt with mcpair := [(255, 3)] } }
     (partAt s 0).state = .configuring ∧ (partAt s 0).key ≠ 0 ∧ holdsPair s 0 = true ∧ holdsPair s 2 = false ∧
     s.parts.all (fun x => x.1 == 0 || !(x.2.state == .configuring || x.2.state == .active) || x.2.key != 1) = false ∧
     (s.parts.take 1).all (fun x => x.1 == 0 || !(x.2.state == .configuring || x.2.state == .active) || x.2.key != 1) = true ∧
     (partAt s 2).state = .draining ∧ s.blocks.any (fun x => x.2.part == 2) = false ∧ s.launches.any (fun x => lPart x.2.bytes == 2) = false ∧ s.remotes.any (fun r => r.2.part == 2) = false) ∧
    s0.mgmt.scrub = none ∧ (0x2FF#32).getLsbD 9 = true ∧ (0x2FF#32).getLsbD 8 = false ∧ (0x3FF#32).getLsbD 8 = true ∧ partBusy s0 255 = false ∧ partBusy s0 0 = true ∧
    s0.parts.any (fun x => partBusy s0 x.1 && s0.mgmt.fowner.any fun o => 0 ≤ o.1 && o.1 < 0 + 1 && o.2 == x.1) = false ∧
    ({ s0 with mgmt := { s0.mgmt with scrub := some (1, 2, 3) } }).mgmt.scrub = some (1, 2, 3) := by decide +kernel
/-- What the boot ROM accepts, and the power's state, are free values; the other hypotheses hold here. -/
theorem witness_ResetRecoveryPowerAndAttestation :
    inRecovery s0.mgmt = false ∧ s0.parts.any (fun p => p.2.state != .absent) = true ∧ State.reset.parts.any (fun p => p.2.state != .absent) = false ∧
    inRecovery { s0.mgmt with boot := .recovery } = true ∧ ({ s0.mgmt with boot := .locked } : Module).boot = .locked ∧
    kfind s0.mgmt.islands 3 = none ∧
    (let i : Island := { clock := 1000, on := true }
     (263 : Nat) < 264 ∧ i.on = true ∧ 1025 ≤ State.reset.mgmt.config.fmax ∧ 1025 = i.clock + 25 ∧ ¬(i.cause = 2 ∧ 100 < i.hottest ∧ i.clock < 1025) ∧ ({ i with on := false } : Island).on = false) ∧
    State.reset.mgmt.hostUp = true ∧ s0.mgmt.hostUp = false ∧ ({ session := some 1, finished := true } : Session).session.isSome = true := by decide +kernel
theorem witness_HostAccesses :
    portUsable s0 0 = false ∧ portUsable State.reset 0 = true ∧ portUsable State.reset 1 = true ∧ portUsable State.reset 2 = false ∧ inRecovery State.reset.mgmt = false ∧ quietB State.reset = true ∧
    (2 ^ 52 - 1 : Nat) < 2 ^ 52 ∧ (2 ^ 52 : Nat) < 2 ^ 56 ∧ (partAt State.reset 63).state = .absent ∧ (partAt xm.s 0).state ≠ .absent ∧ (0x1FFC : Nat) % 4 = 0 ∧ plainReg (0x80 / 4) = true ∧
    (255 : Nat) % 32 = 31 ∧ (0 : Nat) % 32 < pairsOn State.reset.mgmt.config (0 / 32) ∧
    (List.range 64).any (fun p => bitOf 0 p != bitOf 1 p && partBusy State.reset p) = false ∧ kget 0 State.reset.mgmt.mcpair 0 ≠ 1 := by decide +kernel

/-! ## Decoding, steps and supervisor faults -/

theorem witness_DecodeOfEncode : Instr.wellFormed (.add 127 127 95 7) = true ∧ encode (.add 127 127 95 7) = some (32, 0xFFFEFF01) ∧
    Instr.wellFormed (.mov16 31 63) = true ∧ encode (.mov16 31 63) = some (16, 0xFFE0) ∧ Instr.wellFormed (.reservedEncoding 0xFFFFFFFB) = true := by decide +kernel
theorem witness_StepKeepsInv : State.reset.Inv ∧ ∃ t, step { State.reset with turns := [.tick] } = .next t :=
  ⟨⟨by decide +kernel, by decide +kernel⟩, _, rfl⟩
theorem witness_StepRunsDecodedInstruction :
    let s := State.reset.withFetchWord 32 0xC8080801
    (match s.turns, prepare { s with turns := [] } 0 0 with
     | [.issue 0 0 0], .inr (bytes, t) => match decodeBytes bytes with
       | some (i, _) => decide (i = .add 100 2 1 0) && (match exec i (opening t 0 0) with | .next u => !u.stalled && decide (((envAt u 0 0).map fun x => x.f.pc) = some 8) | _ => false)
       | none => false
     | _, _ => false) = true ∧ quadrantOpen s 0 = true ∧ quadrantOpen (passQuadrant s 0) 0 = false := by decide +kernel
/-- An instruction that waits at issue, and a fragment that may not issue. -/
theorem witness_StepRunsDecodedInstruction_waits :
    let s := State.reset.withFetchWord 32 0xC8080801
    (match prepare { s with turns := [], groups := kmod s.groups 0 fun g => { g with pending := [2] } } 0 0 with
     | .inr (bytes, t) => match decodeBytes bytes with
       | some (i, _) => match exec i (opening t 0 0) with | .next u => u.stalled | _ => false
       | none => false
     | .inl _ => false) = true ∧
    (match prepare { s with turns := [], groups := kmod s.groups 0 fun g => { g with started := false } } 0 0 with | .inl u => u.stalled | .inr _ => false) = true := by decide +kernel
theorem witness_SupervisorFaults : At xh.s xh ∧ xh.g.level = .supervisor ∧ PlainOk xh true (vguard 1) [] ∧ xh.f.exec &&& pmask xh.g 1 ≠ 0 ∧
    xh.f.exec &&& pmask xh.g 1 ≠ xh.f.exec ∧
    (let x := envOf (tState tFrag (fun g => { g with level := .supervisor, vregs := [(32 * 95, 8)] }) id id)
     At x.s x ∧ x.g.level = .supervisor ∧ Ready x [95] [] (targetLanes x) ∧ targetSets x.f.exec (vreg x.g 95) = [(8, 1), (0, 0xFFFFFFFE)] ∧
     srcOk x.g 95 = true ∧ Ready x [vcode 95] [95] (targetLanes x) ∧ targetSets x.f.exec (vsrc x.g 95) = [(8, 1), (0, 0xFFFFFFFE)]) := by
  refine ⟨at_handler, ?_, ?_, ?_, ?_, at_envOf _ (by decide +kernel), ?_⟩ <;> (try unfold PlainOk) <;> (try unfold Ready) <;> decide +kernel

/-- Result intervals and provenances: what issues at the plain state, with every lane and with none. -/
theorem witness_ShadowsAndProvenances : At s0 x0 ∧ Vec2Ok x0 127 126 0 7 false ∧ Grp2Ok x0 127 63 63 7 false ∧ Vec1Ok x0 126 95 7 ∧ Grp1Ok x0 63 63 7 ∧
    Vec2Ok x0 127 126 0 7 true ∧ HalfOk x0 (some 31) 63 false ∧ HalfOk x0 (some 31) 63 true ∧ PlainOk x0 true [] [95] ∧ PlainOk x0 (gdOk 63) [] [128 + 63] ∧
    PlainOk x0 (gdOk 63 && srcOk x0.g 127) ([vcode 127] ++ gguard 7) [128 + 63] ∧ x0.f.exec ≠ 0 ∧ guarded x0 0 ≠ 0 ∧ guarded x0 7 &&& x0.g.live = 0 ∧
    VecCmpOk x0 (some 127) 127 9 7 7 ∧ VecCmpOk x0 none 127 9 7 0 ∧ GrpCmpOk x0 (some 63) 127 9 7 7 ∧ GrpCmpOk x0 none 127 9 7 0 ∧
    PlainOk x0 ((7#4).toNat ≤ 7 && srcOk x0.g 127 && srcOk x0.g 95) ([vcode 127, vcode 95] ++ vguard 0) [pcode 7] ∧ x0.active ≠ 0 ∧
    PlainOk x0 true [pcode 7, pcode 0] [pcode 7] ∧ PlainOk x0 true ([pcode 7] ++ vguard 0) [pcode 7] ∧ PlainOk x0 (srcOk x0.g 127) ([vcode 127] ++ vguard 0) [pcode 7] ∧
    PlainOk x0 true [gpcode 7, gpcode 0] [gpcode 7] ∧ PlainOk x0 true ([gpcode 7] ++ gguard 0) [gpcode 7] ∧ PlainOk x0 (gsOk 127) ([gcode 127] ++ gguard 0) [gpcode 7] ∧
    gpred x0.g 0 = true ∧ gpred x0.g 7 = false := by
  refine ⟨at_s0, ?_, ?_, ?_, ?_, ?_, ?_, ?_, ?_, ?_, ?_, ?_, ?_, ?_, ?_, ?_, ?_, ?_, ?_, ?_, ?_, ?_, ?_, ?_, ?_, ?_⟩ <;> (try unfold Vec2Ok) <;> (try unfold Grp2Ok) <;> (try unfold Vec1Ok) <;> (try unfold Grp1Ok) <;> (try unfold HalfOk) <;> (try unfold VecCmpOk) <;> (try unfold GrpCmpOk) <;> (try unfold PlainOk) <;> (try unfold Ready) <;> decide +kernel
/-- v0 < 5 is known of every lane: p1 is false and p2 true everywhere; p3 has no provenance; g4 is compared with g5. -/
def compared (m : Mask) (s : State → State) : State :=
  s (codePage 0x0FF000FF 0 0x1F 0 fun t => { t with groups := kmod t.groups 0 fun g =>
    let pr : Prov := { valid := true, rel := .lt, signed := true, useImm := true, ra := 0, rb := 255, imm := 5, mask := 0xFFFFFFFF }
    { g with preds := [(1, m), (2, 0xFFFFFFFF)], provs := [(1, pr), (2, pr), (9, { pr with ra := 132, rb := 133, useImm := false })] } })
def mayB (x : Env) (p : Nat) : Bool :=
  let pr := kget ({} : Prov) x.g.provs p
  pr.valid && x.f.exec == x.f.members && x.f.members &&& ~~~pr.mask == 0
theorem witness_BranchRefinements :
    (let x := envOf (compared 0 id)
     At x.s x ∧ PlainOk x true (vguard 1) [] ∧ PlainOk x true (vguard 2) [] ∧ mayB x 1 = true ∧ mayB x 2 = true ∧ mayB x 3 = false ∧
     x.f.exec &&& pmask x.g 1 = 0 ∧ x.f.exec &&& pmask x.g 2 = x.f.exec ∧ x.f.exec ≠ 0 ∧ PlainOk x true (gguard 1) [] ∧ (kget ({} : Prov) x.g.provs 9).valid = true ∧
     128 ≤ (kget ({} : Prov) x.g.provs 9).ra ∧ (shadow x.g 132).pin = false ∧ (kget ({} : Prov) x.g.provs 9).rb ≠ (kget ({} : Prov) x.g.provs 9).ra) ∧
    (let x := envOf (compared 0xFFFF id)
     At x.s x ∧ x.g.level = .user ∧ PlainOk x true (vguard 1) [] ∧ x.f.exec &&& pmask x.g 1 = 0xFFFF ∧
     (match codeAt (afterReads x (vguard 1)) 8 with | (.inr w, z) => w % 256 == 0xFF && mayB z 1 | _ => false) = true) ∧
    refined .lt true ⟨0, 10⟩ ⟨5, 5⟩ = some ⟨0, 4⟩ ∧ refined (opposite .lt) true ⟨0, 10⟩ ⟨5, 5⟩ = some ⟨5, 10⟩ ∧ refined .lt false ⟨0, 10⟩ ⟨-1, 5⟩ = none := by
  refine ⟨⟨at_envOf _ (by decide +kernel), ?_⟩, ⟨at_envOf _ (by decide +kernel), ?_⟩, ?_, ?_, ?_⟩ <;> (try unfold PlainOk Ready) <;> decide +kernel
/-- Lanes 30 and 31 of v95 stand in error, twice over or once. -/
theorem witness_WordErrors :
    let e := fun (g : Group → Group) => envOf (tState tFrag g id id)
    let x := e fun g => { g with regErrors := [16 * 95 + 15] }
    let y := e fun g => { g with regSingles := [16 * 95 + 15] }
    let reads := fun (x : Env) => readsOf ([vcode 95, vcode 127] ++ vguard 0) x.f.exec
    At x.s x ∧ x.g.level = .user ∧ x.s.stalled = false ∧ (dstOk x.g 0 && srcOk x.g 95 && srcOk x.g 127) = true ∧
    ([vcode 95, vcode 127] ++ vguard 0 ++ [0]).any x.g.pending.contains = false ∧ errorWord x.g (reads x) = some (16 * 95 + 15) ∧ (16 * 95 + 15) / 16 ≤ 95 ∧
    At y.s y ∧ errorWord y.g (reads y) = none ∧ singleWords y.g (reads y) = [16 * 95 + 15] := by
  refine ⟨at_envOf _ (by decide +kernel), ?_, ?_, ?_, ?_, ?_, ?_, at_envOf _ (by decide +kernel), ?_⟩ <;> decide +kernel
/-- Predicate 0 as a destination. -/
theorem witness_PredicateZero : At s0 x0 ∧ VecCmpOk x0 (some 127) 127 9 0 7 ∧ VecCmpOk x0 none 0 0 0 0 ∧ GrpCmpOk x0 (some 63) 127 9 0 7 ∧ GrpCmpOk x0 none 0 0 0 0 ∧
    PlainOk x0 ((7#4).toNat ≤ 7 && srcOk x0.g 127 && srcOk x0.g 95) ([vcode 127, vcode 95] ++ vguard 7) [pcode 0] ∧ PlainOk x0 true [pcode 7, pcode 0] [pcode 0] ∧
    PlainOk x0 true ([pcode 7] ++ vguard 7) [pcode 0] ∧ PlainOk x0 (srcOk x0.g 127) ([vcode 127] ++ vguard 7) [pcode 0] ∧ PlainOk x0 true [gpcode 7, gpcode 0] [gpcode 0] ∧
    PlainOk x0 true ([gpcode 7] ++ gguard 7) [gpcode 0] ∧ PlainOk x0 (gsOk 127) ([gcode 127] ++ gguard 7) [gpcode 0] := by
  refine ⟨at_s0, ?_⟩; unfold VecCmpOk GrpCmpOk PlainOk Ready; decide +kernel
/-- LIT before cmpi.lt p2, v0; before an addi whose register the group does not have, a mov, a word of the system major, and past the body. -/
theorem witness_LitFollowers :
    let at' := fun (w : Nat) => envOf (coded (List.replicate 8 0 ++ leOut 4 w))
    let w := fun (x : Env) => peekWord x.s x.b x.g (x.f.pc + 4)
    let major := fun (x : Env) => (w x).toNat / 2 % 128
    (let x := at' 0x5015903B
     At x.s x ∧ major x = 0x1D ∧ bodyOffset x.f (x.f.pc.toNat + 8) ≤ 64 ∧ VecCmpOk x none 5 6 2 0) ∧
    (let x := at' 0x501590BB
     At x.s x ∧ major x = 0x5D ∧ GrpCmpOk x none 5 6 2 0) ∧
    (let x := at' 0x70B0FBC1
     At x.s x ∧ major x = 0x60 ∧ Grp1Ok x 44 31 3) ∧
    (let x := at' (0x41 + 120 * 2 ^ 11)
     At x.s x ∧ x.g.level = .user ∧ (dstOk x.g (BitVec.ofNat 7 ((w x).toNat / 2 ^ 11)) && srcOk x.g (BitVec.ofNat 7 ((w x).toNat / 2 ^ 18))) = false) ∧
    (let x := at' 0x1B3033D
     At x.s x ∧ (w x).toNat % 2 = 1 ∧ major x = 0x1E) ∧
    (let x := at' 0x000000FB
     At x.s x ∧ (w x).toNat % 2 = 1 ∧ major x = 0x7D) ∧
    (let x := envOf (tState { tFrag with pc := 128 } (fun g => { g with fetched := [(codeKey firstCode .user 132, leOut 4 0 ++ leOut 4 0xD77A9541 ++ List.replicate 24 0)] }) id id)
     At x.s x ∧ (w x).toNat % 2 = 1 ∧ ¬ bodyOffset x.f (x.f.pc.toNat + 8) ≤ 64) := by
  refine ⟨⟨at_envOf _ (by decide +kernel), ?_⟩, ⟨at_envOf _ (by decide +kernel), ?_⟩, ⟨at_envOf _ (by decide +kernel), ?_⟩, ⟨at_envOf _ (by decide +kernel), ?_⟩,
    ⟨at_envOf _ (by decide +kernel), ?_⟩, ⟨at_envOf _ (by decide +kernel), ?_⟩, at_envOf _ (by decide +kernel), ?_⟩ <;>
    (try unfold VecCmpOk) <;> (try unfold GrpCmpOk) <;> (try unfold Grp1Ok) <;> (try unfold Ready) <;> decide +kernel
/-- The last lane of a handler's fragment, after a trap that is no pre-emption, no resumption and no copy's. -/
theorem witness_EndsTrapsFormatAndExec_handler :
    let x := envOf (handler .before)
    At x.s x ∧ PlainOk x true (vguard 0) [] ∧ x.f.members &&& ~~~(x.f.exec &&& pmask x.g 0) = 0 ∧
    (∃ k, x.g.bank = some k ∧ k.trap.kind ≠ .preempt ∧ k.trap.kind ≠ .resume ∧ (∀ n, k.trap.kind ≠ .copy n) ∧
      k.gvals.map (·.1) = List.range' 56 8 ∧ k.recs.map (·.1) = List.range' 4 4) ∧ x0.g.bank = none ∧
    (let y := envOf (tState tFrag (fun g => { g with spill := [{ tFrag with pc := 64 }] }) id id)
     At y.s y ∧ y.g.bank = none ∧ y.g.spill = [{ tFrag with pc := 64 }] ∧ y.e = 0) := by
  refine ⟨at_handler, ?_, ?_, ⟨_, rfl, ?_, ?_, ?_, ?_, ?_⟩, ?_, at_envOf _ (by decide +kernel), ?_⟩ <;> (try (intro n h; cases h)) <;> (try unfold PlainOk Ready) <;> decide +kernel
/-- Some piece of an access that a test catches lies lowest. -/
theorem lowest_of {ps : List Piece} {bad : Piece → Bool} (h : ps.any bad = true) : ∃ a, LowestOf ps bad a := by
  suffices h2 : ∃ p ∈ ps, bad p = true ∧ ∀ q ∈ ps, bad q = true → p.addr ≤ q.addr by
    obtain ⟨p, hp, hb, hq⟩ := h2
    exact ⟨_, p, hp, hb, rfl, hq⟩
  induction ps with
  | nil => simp at h
  | cons q ps ih =>
    by_cases hr : ps.any bad = true
    · obtain ⟨p, hp, hb, hl⟩ := ih hr
      by_cases hq : bad q = true ∧ q.addr < p.addr
      · exact ⟨q, by simp, hq.1, fun r hr' hb' => by
          rcases List.mem_cons.mp hr' with rfl | hm
          · exact Int.le_refl _
          · have := hl r hm hb'; omega⟩
      · exact ⟨p, by simp [hp], hb, fun r hr' hb' => by
          rcases List.mem_cons.mp hr' with rfl | hm
          · exact Int.not_lt.mp fun hlt => hq ⟨hb', hlt⟩
          · exact hl r hm hb'⟩
    · have hn : ∀ r ∈ ps, bad r = false := by simpa using hr
      have hq : bad q = true := by simpa [hr] using h
      exact ⟨q, by simp, hq, fun r hr' hb' => by
        rcases List.mem_cons.mp hr' with rfl | hm
        · exact Int.le_refl _
        · simp [hn r hm] at hb'⟩
/-- The elements of a form, where its record permits the access. -/
def elems (f : Form) (x : Env) : Option (List (Nat × Nat × Option Int) × Env) := match f.plumbed x with | .inr p => some p | .inl _ => none
def piecesB (f : Form) (x : Env) (p : Env → Piece → Bool) : Bool := match elems f x with | some (es, y) => (f.pieces es).all (p y) | none => false
def somePieceB (f : Form) (x : Env) (p : Env → Piece → Bool) : Bool := match elems f x with | some (es, y) => (f.pieces es).any (p y) | none => false
/-- A group whose lane 0 holds 1023, or 16384, in v0, the other lanes 0. -/
def indexed (v : Word) (rc : Rec) (b : Block → Block) (s : State → State) : Env :=
  envOf (s (memState (fun g => { g with vregs := [(0, v)], brecs := kput g.brecs 0 rc }) b))
/-- The rows of R219 that stop an access before any effect: the records b5, b6 and b7; the scratchpad's end; an odd base; a copy's range lock; a race. -/
theorem witness_AccessTraps_rows :
    let ld := fun (x : Env) (b : BitVec 3) => loadForm x 1 (.ldX1 1 0 127 95 b) false b 127 95 0 1 none
    (At xm.s xm ∧ xm.g.level = .user ∧ (ld xm 5).issues ∧ (ld xm 6).issues ∧ (ld xm 7).issues ∧ (ld xm 5).codes = none ∧ (ld xm 6).codes.isSome = true ∧ ((ld xm 6).plumb xm).1 = none ∧
      (ld xm 7).codes.isSome = true ∧ (ld xm 7).perm = false ∧ ((ld xm 7).plumb xm).1.isSome = true) ∧
    (let x := indexed 1023 (mkLinear 7 0 1024 2 0 true 0) (fun b => { b with spsize := 4092 }) id
     let f := loadForm x 1 (.ldX1 1 0 0 95 0) false 0 0 95 0 1 none
     At x.s x ∧ x.g.level = .user ∧ f.issues ∧ f.codes.isSome = true ∧ somePieceB f x (fun y q => inScratch f.r && decide ((y.b.spsize : Int) < q.addr + q.len)) = true) ∧
    (let x := indexed 0 (mkLinear 7 0 1024 2 0 false 4098) id id
     let f := rmwForm x 1 0 (.red 1 0 0 127 95 0) .red false false 0 0 127 95
     At x.s x ∧ f.issues ∧ f.codes.isSome = true ∧ f.align = 4 ∧ somePieceB f x (fun _ q => decide (q.addr.toNat % 4 ≠ 0)) = true) ∧
    (let x := indexed 0 (mkLinear 7 0 1024 2 0 false 4096) id (fun s => { s with cores := kput s.cores 0 { kget {} s.cores 0 with locks := [{ block := 1, owner := 0, matrix := false, role := .dst, scratch := false, part := 0, lo := 4096, hi := 4100 }] } })
     let f := loadForm x 1 (.ldX1 1 0 127 95 0) false 0 127 95 0 1 none
     At x.s x ∧ f.issues ∧ somePieceB f x (fun y q => locked y false .load q) = true ∧ piecesB f x (fun _ q => decide (0 ≤ q.addr ∧ q.addr + q.len ≤ 2 ^ 57)) = true) ∧
    (let x := indexed 0 (mkLinear 7 0 1024 2 0 false 4096) (fun b => { b with rwatch := true }) (fun s =>
       let s := setPreg (setPreg (setPreg s 0 0x216 (65536 * 5 + 32768)) 0 0x218 5) 0 0x219 1
       { s with mem := mputAll s.mem [(65536 * 4 + 1, 0x08), (65536 * 5 + 32768 + 2048, 1), (65536 * 5 + 32768 + 2056, 1)] })
     let f := loadForm x 1 (.ldX1 1 0 127 95 0) false 0 127 95 0 1 none
     At x.s x ∧ f.issues ∧ f.kind = .load ∧ (match elems f x with
       | some (es, y) => let ps := f.pieces es
          let tr := translateAll y.s y.core y.b.part y.g.level .read (ps.flatMap pagesOf).eraseDups
          let z : Env := { y with s := tr.2 }
          inScratch f.r == false && ps.all (fun q => !outside y false q && q.addr.toNat % f.align == 0 && !locked y false .load q && (failOf tr.1 q).isNone &&
            (watched (segsOf tr.1 q)).all fun n => (raceState z.s x.b.part n).isSome) && x.b.rwatch && !(preg z.s x.b.part 0x20).getLsbD 0 &&
            ps.any fun q => (watched (segsOf tr.1 q)).any (races z 0)
       | none => false) = true) := by
  refine ⟨⟨at_xm, ?_, ⟨?_, ?_⟩, ⟨?_, ?_⟩, ⟨?_, ?_⟩, ?_⟩, ⟨at_envOf _ (by decide +kernel), ?_, ⟨?_, ?_⟩, ?_⟩, ⟨at_envOf _ (by decide +kernel), ⟨?_, ?_⟩, ?_⟩,
    ⟨at_envOf _ (by decide +kernel), ⟨?_, ?_⟩, ?_⟩, ⟨at_envOf _ (by decide +kernel), ⟨?_, ?_⟩, ?_⟩⟩ <;> (try unfold MemOk) <;> decide +kernel
/-- Lane 0 of a load, or of a store, reaches a page that no entry maps, or every lane a page on its way. -/
def checksB (f : Form) (x : Env) (p : Env → Checked → Bool) : Bool :=
  match elems f x with
  | some (es, y) => (match f.check y es with | .inr ck => ck.segs.all (fun q => q.2.all (·.tier != 2)) && p y ck | .inl _ => false)
  | none => false
def beyond (s : State → State) : Env := indexed 16384 (mkLinear 7 0 (2 ^ 20) 2 0 false 4096) id s
theorem witness_UnfinishedLanes :
    (let x := beyond id
     let f := loadForm x 1 (.ldX1 1 0 0 95 0) false 0 0 95 0 1 none
     At x.s x ∧ x.g.level = .user ∧ x.g.bank = none ∧ x.f.wait = .none ∧ x.g.parked = none ∧ f.issues ∧ f.codes = some [95] ∧
     checksB f x (fun y ck => ck.trap.isSome && ck.failed != 0 && !y.b.rwatch && (elems f x).any fun q => (f.pieces q.1).all fun p =>
       decide (p.lane < 32) && !outside y false p && !locked y false .load p) = true) ∧
    (let x := beyond migrating
     let f := loadForm x 1 (.ldX1 1 0 127 95 0) false 0 127 95 0 1 none
     At x.s x ∧ x.f.wait = .none ∧ x.g.parked = none ∧ f.issues ∧ f.codes = some [95] ∧ checksB f x (fun _ ck => ck.trap.isNone && ck.parked != 0) = true) ∧
    (let x := beyond id
     let f := storeForm x 1 (.stX1 1 0 0 95 0) false 0 0 95 0 1 none
     f.issues ∧ f.codes = some [95] ∧
     checksB f x (fun _ ck => ck.trap.isSome && quietB (noteFootprint ck.x f.r f.idx f.off f.n 1).s && ck.done.all fun q => watched q.2 == []) = true) ∧
    (let x := beyond migrating
     let f := storeForm x 1 (.stX1 1 0 127 95 0) false 0 127 95 0 1 none
     At x.s x ∧ f.issues ∧ f.codes = some [95] ∧
     checksB f x (fun _ ck => ck.trap.isNone && ck.parked != 0 && quietB (noteFootprint ck.x f.r f.idx f.off f.n 1).s && ck.done.all fun q => watched q.2 == []) = true) := by
  refine ⟨⟨at_envOf _ (by decide +kernel), ?_, ?_, ?_, ?_, ⟨?_, ?_⟩, ?_⟩, ⟨at_envOf _ (by decide +kernel), ?_, ?_, ⟨?_, ?_⟩, ?_⟩,
    ⟨⟨?_, ?_, ?_⟩, ?_⟩, ⟨at_envOf _ (by decide +kernel), ⟨?_, ?_, ?_⟩, ?_⟩⟩ <;> (try unfold MemOk) <;> decide +kernel
/-- Memory barriers and counters on a peer's page: the place is found, and a value of that place has come. -/
def peerB (r : Sum State (Env × Seg)) (p : Env → Seg → Bool) : Bool := match r with | .inr (y, g) => g.tier == 2 && p y g | .inl _ => false
theorem witness_PeerWords :
    let x := envOf (atPeer (memState (fun g => { g with gregs := [(0, 1), (1, 0)] }) id))
    let had := fun (g : Seg) (w : Bool) => ({ x.f with peer := some { key := g.key, value := 65537, swapped := w } } : Frag)
    let one := fun (y : Env) (g : Seg) => y.f.wait == .none && (had g false).peer.any (fun p => p.key == g.key && !p.swapped) && (had g true).peer.any (·.swapped)
    At x.s x ∧ releaseHeld x = false ∧ x.f.peer = none ∧ x.f.wait = .none ∧ AccessOk x (gsOk 127 && gsOk 63) [127, 191] [] ∧
    peerB (controlWord (afterReads x [127, 191]) 1 127 (gsrc x.g 127) .store 0 8 pwrite counterRec) one = true ∧
    AccessOk x (gsOk 127 && gdOk 63) [127] [191] ∧ peerB (controlWord (afterReads x [127]) 1 127 (gsrc x.g 127) .rmw 3 8 patom counterRec) one = true ∧
    peerB (controlWord (afterReads x [127, 191]) 1 127 (gsrc x.g 127) .load 3 8 pread counterRec) one = true ∧ AccessOk x (gsOk 127 && gdOk 63) [127, 191] [191] ∧
    peerB (counterOperand x 0 .load pread) one = true ∧ peerB (counterOperand x 0 .rmw patom) one = true := by
  refine ⟨at_envOf _ (by decide +kernel), ?_, ?_, ?_, ?_, ?_, ?_, ?_, ?_, ?_, ?_⟩ <;> (try unfold AccessOk PlainOk Ready) <;> decide +kernel
/-- Virtual page 1 is frame 5 of a peer. -/
def farPage (s : State) : State := { s with mem := mputAll s.mem (nz (65536 * 4 + 8) (leOut 8 (15 * 2 ^ 52 + 65536 * 5 + 0x9F))) }
/-- A copy whose counter is a peer's: its addition is sent, and then awaited. -/
theorem witness_CopyEnds_peer :
    let c : Copy := { group := 0, command := [0, 0x4C8], desc := descriptor, recT := brec xc.g 0, recG := brec xc.g 1, recP := brec xc.g 3, recC := mkLinear 7 0 4 3 0 false 65536 }
    let s := fun c : Copy => farPage (copyState fun s => { s with blocks := kmod s.blocks 1 fun q => { q with copies := [(0, c)] } })
    let b := kget ({} : Block) (s c).blocks 1
    movable (s c) 1 0 = some (b, c) ∧ c.locked = true ∧ c.counted = false ∧
    (match copyRun (s c) 1 0 { c with locked := true } with
     | (.done, u) => (match counterPlace u c.group b c with | (.inr g, v) => g.tier == 2 && (kfind v.blocks 1).any fun q => (kfind q.copies 0).isSome | _ => false)
     | _ => false) = true ∧
    (copyNext (s c) 1 0 b c).1 = .waits := by decide +kernel
theorem witness_StageIssues_resumed : ({ resumed := true } : Block).resumed = true ∧ ({ resumed := true } : Block).restored1 = false ∧ ({} : Block).resumed = false ∧
    kfind { s0 with blocks := [(1, { resumed := true })] }.blocks 1 = some { resumed := true } := by decide +kernel
/-- Join counters on a peer at the completion points of spawn and post, before and after they are counted, with room and without. -/
theorem witness_SpawnAndPostCompletions_peer :
    let key := 2 * 2 ^ 60 + 4096
    let f : Frame := { recs := List.replicate 32 oneRec, gslot := 0, core := 0 }
    let full := fun s : State => { s with cores := [(0, { quarry := List.replicate 40 f })] }
    let o := fun (k : OpKind) (n : Bool) => ({ id := 7, kind := k, group := 0, gid := 1, counted := n } : Op)
    let sp := OpKind.spawn [oneRec] (some key)
    let po := OpKind.post [oneRec] (some key)
    (∀ n, AtCompletion (ending (o sp n) id) (o sp n) (envOf (ending (o sp n) id)).g) ∧ key / 2 ^ 60 = 2 ∧
    pushWaits (ending (o sp false) id) 0 { recs := [oneRec] } = false ∧ (pushFrame (ending (o sp false) id) 0 { recs := [oneRec] }).isSome = true ∧
    pushFrame (full (ending (o sp true) id)) 0 { recs := [oneRec] } = none ∧ sramUse (ending (o sp true) id) 0 + frameSize { recs := [oneRec] } ≤ 32768 ∧
    (∀ n, let s := withBin 31 (ending (o po n) id); AtCompletion s (o po n) (envOf s).g ∧ nodeHeld s 0 0 7 = false ∧ (nodeFor s 0 0 7).isSome = true ∧
      (placeAll (nodeWalk s 0 0 7) 0 0 [] [oneRec]).isSome = true) ∧
    placeAll (withBin 32 (ending (o po true) id)) 0 0 [] [oneRec] = none ∧ (placeAll (withBin 31 (ending (o po true) id)) 0 0 [] [oneRec]).isSome = true ∧
    nodeHeld (heldTable (memState id id)) 0 0 7 = true := by
  unfold AtCompletion; decide +kernel
/-- join: a crowded counter, one that has a waiter, and one on a peer, whose value has come; exit.j outside a handler. -/
theorem witness_JoinAndExit_others :
    (let x := envOf (copyState fun s => { s with groups := kmod s.groups 0 fun g => { g with gregs := [(60, 2)], table := [(0, { xk.f with crowded := true })] } })
     At x.s x ∧ AccessOk x (gblockOk 4 60) ((List.range 4).map (fun i => 128 + 60 + i) ++ gguard 0) [] ∧ x.f.crowded = true ∧ x.g.level = .user ∧ gpred x.g 0 = true) ∧
    (match counterOperand (afterReads xk ([188, 189, 190, 191] ++ gguard 0)) 60 .rmw patom with
     | .inr (y, q) => q.tier != 2 && (let s := { y.s with mem := mput y.s.mem q.pa 1, slices := [(0, { waiters := [(q.key, (3, 3))] })] }
         leVal (segRead { y with s := s } q) == 1 && s.slices.any fun n => (kfind n.2.waiters q.key).isSome)
     | .inl _ => false) = true ∧ xk.f.crowded = false ∧
    (let x := fun p => envOf (farPage (memState (fun g => { g with gregs := [(60, 1)], brecs := [(1, mkLinear 7 0 64 3 0 false 65536)], table := [(0, { xm.f with peer := p })] }) id))
     (match counterOperand (afterReads (x none) ([188, 189, 190, 191] ++ gguard 0)) 60 .rmw patom with
      | .inr (y, q) => q.tier == 2 && y.f.wait == .none && !peerJoined y.s q && ([0, 5].all fun w => (x (some { key := q.key, value := w, swapped := false })).f.peer.any fun p => p.key == q.key && p.value == w)
      | .inl _ => false) = true ∧ (x none).f.peer = none) ∧
    xm.g.bank = none := by
  refine ⟨⟨at_envOf _ (by decide +kernel), ?_⟩, ?_⟩ <;> (try unfold AccessOk PlainOk Ready) <;> decide +kernel
/-- A save that reads a double-bit error; a restore's operation with its bytes come: good, bad, and with no room for the saved copies. -/
theorem witness_SaveAndRestore_errors :
    (let x := envOf (saveState [] (fun g => { g with regErrors := [16 * 5] }) id)
     At x.s x ∧ x.g.level = .supervisor ∧ PlainOk x (gsOk 127) [gcode 127] [] ∧ x.outstanding = [] ∧ copiesMove x.b (some x.k) = false ∧ (userState x.g x.e x.f).regErrors ≠ []) ∧
    (let x := envOf (saveState [] (fun g => { g with accErrors := [3] }) id)
     At x.s x ∧ x.g.accErrors ≠ [] ∧ (userState x.g x.e x.f).regErrors = []) ∧
    (∀ head ∈ [(0 : Nat), 6144], let o : Op := { id := 7, kind := .saveRestore false true, group := 0, gid := 1, held := true, sup := true, vwrites := [(0, 3), (1, word head)] }
      let s := { peerImage (.saveRestore false true) head id with ops := [o] }
      AtCompletion s o (envOf s).g ∧ o.held = true ∧ o.sup = true ∧ o.vshadow = [] ∧ o.gshadow = [] ∧ (envAt s 0 0).isSome = true ∧
      (match groupImage (envOf s) 0 (wordsImage (imageSize (envOf s).g) o.vwrites) with | .inr _ => head == 6144 | .inl _ => head == 0) = true) ∧
    (∀ head ∈ [(0 : Nat), 256], ∀ n ∈ [(0 : Nat), 33], let o : Op := { id := 7, kind := .saveRestore true true, group := 0, gid := 1, held := true, sup := true, vwrites := [(0, 3), (1, word head), (3, word n)] }
      let s := { peerImage (.saveRestore true true) head id with ops := [o] }
      AtCompletion s o (envOf s).g ∧ (envAt s 0 0).isSome = true ∧
      (match blockImage (envOf s) 0 (wordsImage (0x2000 + 256) o.vwrites) with | some (.inr _) => head == 256 && n == 0 | some (.inl _) => head == 0 | none => head == 256 && n == 33) = true) := by
  refine ⟨⟨at_envOf _ (by decide +kernel), ?_⟩, ⟨at_envOf _ (by decide +kernel), ?_⟩, ?_, ?_⟩ <;> (try unfold PlainOk Ready) <;> (try unfold AtCompletion) <;> decide +kernel
/-- Two fragments that stand at one address, with a register narrowed in both and one in one; one of them spilled; and with a third that has that address to reach. -/
theorem witness_FusionAndReload :
    let n := fun (c : Nat) (l h : Int) => ({ reg := c, lo := l, hi := h } : Narrow)
    let f := { tFrag with pc := 64, members := 0xFFFF, exec := 0xFFFF, narrow := [n 3 0 5, n 4 1 1], reached := 2 }
    let h := { tFrag with pc := 64, members := 0xFFFF0000, exec := 0xFF0000, narrow := [n 3 2 9], wait := .reconv, reconv := some 64, encl := some 96, reached := 5 }
    let g := fun r : List Frag => { x0.g with table := [(0, tFrag), (2, f)], spill := h :: r }
    let at' := fun f : Frag => f.pc == 64 && (f.wait == .none || f.wait == .reconv)
    ((g []).table.map (·.1)).Nodup ∧ (g []).table.filter (fun q => at' q.2) = [(2, f)] ∧ (g []).spill.filter at' = [h] ∧
    ((groupFrags (g [])).filter fun f => !at' f).any (fun f => f.reconv == some 64) = false ∧
    ((groupFrags (g [{ tFrag with reconv := some 64 }])).filter fun f => !at' f).any (fun f => f.reconv == some 64) = true ∧
    kfind (g []).table 1 = none ∧ (∀ i, i < 1 → (kfind (g []).table i).isSome = true) ∧ x0.g.spill = [] := by decide +kernel
/-- What may become resident: a ready bin's task group and a saved cluster; a host's request of an absent partition, and one whose launch's block stays or leaves. -/
theorem witness_PlacementAndPreemption_others :
    (let r : Reservation := { work := .bin 0 1 0, cores := [1], due := 0 }
     let s := nodes { xm.s with dies := [(0, { waitingBin with reservation := some r })] }
     (kget ({} : Die) s.dies 0).reservation = some r ∧ workWaits s 0 r.work = false ∧ freeGroupSlots s 1 1 = [0] ∧ (binAt s 0 0 1).recs = [rec1]) ∧
    (let r : Reservation := { work := .saved 3 0, cores := [1], due := 0 }
     let s := { s0 with dies := [(0, { reservation := some r })], saved := [(9, { block := { cluster := 3, slot := some 0 }, groups := [], die := 0 })] }
     (kget ({} : Die) s.dies 0).reservation = some r ∧ savedOf s 3 = [(9, { block := { cluster := 3, slot := some 0 }, groups := [], die := 0 })]) ∧
    (kget ({} : Partition) s0.parts 1).state = .absent ∧ (kget ({} : Partition) xm.s.parts 0).state ≠ .absent ∧ xm.s.mgmt.hostUp = true ∧
    (let s := fun b => setPreg { crowded with clusters := [(1, { blocks := [1], launch := some 4 }), (2, { blocks := [2] })], launches := [(4, { identity := 6 })], blocks := [(1, { xm.b with pri := 4, spsize := 0, preempting := b }), (2, { cluster := 2, core := 1 })] } 0 0x220 6
     let all := fun b => (setPreg (s b) 0 0x221 0).blocks.filter fun q => match (kget ({} : Cluster) (setPreg (s b) 0 0x221 0).clusters q.2.cluster).launch with
       | some l => q.2.part == 0 && (kget ({} : Launch) (setPreg (s b) 0 0x221 0).launches l).identity == preg2 (setPreg (s b) 0 0x221 0) 0 0x220 | none => false
     ((s false).parts.all fun p => p.2.state != .absent) = true ∧ (all false).map (·.1) = [1] ∧ (all true).map (·.1) = [1] ∧ (preemptAll (setPreg (s false) 0 0x221 0) 0 2 [1]).isSome = true ∧
     preemptAll (setPreg { s false with parts := [(0, {})] } 0 0x221 0) 0 2 [1] = none ∧ (preemptAll (setPreg (s true) 0 0x221 0) 0 2 []).isSome = true) := by decide +kernel
/-- A frame in a spill ring whose page takes no more writes. -/
theorem witness_BinsAndQuarries_ring :
    (∀ f ∈ [frame1], storeSpilled s0 1 0 [f] = none) ∧ (storeSpilled (quarried {} { quarry := [frame1] }) 1 0 []).isSome = true := by decide +kernel
/-- Holders of an LLC slice, a region that merges and one in which a write waits; the host's space and hidden lines. -/
theorem witness_DirectoriesAndSnoops :
    (dirState [2]).dies.any (fun d => d.2.conflicts.any fun c => 8 ≤ c.line && c.line < 8 + 2 ^ (1 + 1)) = true ∧ ((dirOf (dirState []) 0).2.any fun c => 8 ≤ c.line && c.line < 8 + 2 ^ (1 + 1)) = false ∧
    (let s := { s0 with slices := [(0, { dir := [{ base := 8, size := 1, vector := 3 }], conflicts := [{ line := 9, writer := 0, waiting := [1] }] })] }
     (dirOf s 8).1.find? (fun e => e.covers 9) = some { base := 8, size := 1, vector := 3 } ∧ ((dirOf s 8).2.find? fun c => c.line == 9) = some { line := 9, writer := 0, waiting := [1] }) ∧
    (let s := State.reset
     s.mgmt.hostUp = true ∧ quietB s = true ∧ ¬(3 * 2 ^ 52 ≤ 128 * 2 ^ 45) ∧ (2 ^ 52 : Nat) ≤ 128 * 2 ^ 45 ∧ ({ s with mgmt := { s.mgmt with fbias := [0] } }).mgmt.fbias.contains 0 = true ∧
     s.mgmt.fbias.contains 0 = false) := by decide +kernel
theorem witness_CachesHoldLines : (0x400 : Nat).testBit 10 = true ∧ (0x200 : Nat) / 256 % 4 = 2 ∧ ((0x800 : Nat).testBit 11 = true ∧ (0x800 : Nat).testBit 10 = false ∧ (0x800 : Nat) / 256 % 4 ≠ 2) ∧
    ((0x1F : Nat).testBit 10 = false ∧ (0x1F : Nat) / 256 % 4 = 0 ∧ (0x1F : Nat).testBit 11 = false) ∧ risingFrom 0 (kget ({} : Core) s0.cores 0).l1 = true := by decide +kernel
/-- Packets of one request of which the last is yet to come; a line that holds a cached page-table entry with accesses outstanding; two beacons, of a node with a
hardware bin and of none. -/
def morePacket : Packet := { aPacket 2 with body := leOut 1 0 ++ leOut 1 4 ++ leOut 1 2 ++ List.replicate 49 0 }
theorem witness_RequestsServed_runs :
    moreFollows morePacket = true ∧ takePacket (arrived morePacket) 0 (· == 2) = some (3, morePacket) ∧ requestRun 64 (arrived morePacket) 0 = none ∧
    moreFollows (aPacket 2) = false ∧ requestRun 64 (arrived (aPacket 2)) 0 = some [0] ∧
    (let far := 15 * 2 ^ 52 + 65536 * 5 + 0x9F
     let s := { rest (aPacket 1) with dies := [(0, { tlb := [{ part := 0, vpage := 0, big := false, pte := far, path := [16 * 65536] }] })], remotes := [(1, { type := 1, dst := 15, pa := 5 * 65536 })] }
     target s (aPacket 1) 0 32 = .inr (0, 16 * 65536) ∧ pteHeld s [16 * 65536 / 128] = true ∧ pteHeld (rest (aPacket 1)) [16 * 65536 / 128] = false) ∧
    (let k := { aBeacon with field := 2, body := leOut 2 7 ++ List.replicate 50 0 ++ leOut 2 9 ++ List.replicate 50 0 }
     let s := beaconState 1
     let b := fun (i : Nat) (v : State) => let q := beaconOf ((k.body.drop (52 * i)).take 52); { q with stamp := beaconStamp v k q }
     min 4 (beaconCount k) = 2 ∧ keyPart s k.key = some 0 ∧ (b 0 s).node = 7 ∧ (b 1 s).node = 9 ∧ nodeHeld s (homeDie s 0 7) 0 7 = false ∧ nodeHeld s (homeDie s 0 9) 0 9 = false ∧
     (match nodeFor s (homeDie s 0 7) 0 7 with | some d => (match placeRec s 0 (homeDie s 0 7) d (b 0 s) with | some v => nodeFor v (homeDie v 0 9) 0 9 == none | none => false) | none => false) = true) := by decide +kernel

/-- Answers to a control word, a copy, a migration, a code fetch and a watch; combined operations. -/
theorem witness_AnswersTaken_others :
    let put := fun (type : Nat) (q : Remote) (f : State → State) => f { arrived (aPacket type) with remotes := [(0, q)] }
    (∀ n ∈ [0, 2], let o : Op := { id := 7, kind := .peerWord 5 (some 9), group := 0, gid := 1, tags := [0] }
      let s := put (if n = 0 then 6 else 8) { type := n, dst := 9, op := some 7 } fun s => { s with ops := [o] }
      takePacket s 0 (· == if n = 0 then 6 else 8) = some (3, aPacket (if n = 0 then 6 else 8)) ∧ (aPacket 6).tag = 0 ∧ kfind s.remotes 0 = some { type := n, dst := 9, op := some 7 } ∧
      s.ops.find? (fun o => o.id == 7) = some o ∧ (envAt s 0 0).any (fun x => x.g.gid == 1 && x.g.level == .user) = true) ∧
    (let c : Copy := { group := 0, tags := [0] }
     let s := put 6 { type := 0, dst := 9, copy := some (1, 2), patches := [(0, 5, 0)] } fun s => { s with blocks := kmod s.blocks 1 fun b => { b with copies := [(2, c)] } }
     (kfind s.blocks 1).any (fun b => kfind b.copies 2 == some c) = true ∧ kfind s.remotes 0 = some { type := 0, dst := 9, copy := some (1, 2), patches := [(0, 5, 0)] }) ∧
    (let s := put 6 { type := 0, dst := 9, mig := some 3, pa := 64 } fun s => { s with migrations := [aMove false true] }
     s.migrations.find? (fun m => m.id == 3) = some (aMove false true) ∧ (pageAt s 0 oldPte 0 64).1 ≤ 1 ∧ quietB s = true) ∧
    (let s := put 6 { type := 0, dst := 9, code := some (0, 5) } id
     (kfind s.groups 0).any (fun g => (kget ({} : Block) s.blocks g.block).part == 0) = true ∧ kfind s.remotes 0 = some { type := 0, dst := 9, code := some (0, 5) }) ∧
    (∀ w ∈ [WaitKind.cwait, .mbar], let f := { xm.f with wait := w, watch := some ⟨false, 2, 9 * 2 ^ 52 + 24, 1, 0⟩ }
      let s := put 6 { type := 0, dst := 9, watch := some 1 } fun s => { s with groups := kmod s.groups 0 fun g => { g with table := [(0, f)] } }
      (s.groups.find? fun x => x.2.gid == 1) = (kfind s.groups 0).map (fun g => (0, g)) ∧ (kfind s.groups 0).any (fun g => kfind g.table 0 == some f) = true) := by decide +kernel
/-- A port that closes, a flit with a nak, and one that is not in its place. -/
theorem witness_PortsAndRoutes_closing :
    ({ state := .up, closing := true } : Port).closing = true ∧ ({ state := .up } : Port).closing = false ∧
    (let b := List.replicate 120 0 ++ leOut 2 0 ++ leOut 2 0x8005
     let c := b ++ leOut 4 (crc32c b)
     c.length = 128 ∧ crc32c (c.take 124) = leAt c 124 4 ∧ leAt c 120 2 % 4096 = (({ rxSeq := 4095 } : Port).rxSeq + 1) % 4096 ∧ (leAt c 122 2).testBit 15 = true ∧
     (ackTo { unacked := [(0, []), (9, [])] } (leAt c 122 2 % 4096)).unacked ≠ []) ∧ ({} : Module).forwarded.any (fun r => r.2.1 == 4095) = false := by decide +kernel
theorem witness_PartitionStatesStep : (∃ t, exec .yield s0 = .next t) ∧ (∀ n, Instr.yield ≠ .partitionConfigure n ∧ Instr.yield ≠ .partitionDrained n) := by
  refine ⟨⟨_, rfl⟩, fun n => ⟨?_, ?_⟩⟩ <;> intro h <;> cases h
/-- The reset in steps, one that is due after an accepted recovery, and the answers of a host's window. -/
theorem witness_ResetAndRecovery :
    (let s := { State.reset with mgmt := { State.reset.mgmt with boot := .booting 3 }, turns := [] }
     s.turns = [] ∧ s.mgmt.boot = .booting 3 ∧ (match step s with | .next _ => true | _ => false) = true) ∧
    (let m := { State.reset.mgmt with boot := .recovery, resetDue := true }
     inRecovery m = true ∧ m.resetDue = true ∧ ({ m with resetDue := false, boot := .locked } : Module).boot = .locked) ∧
    (partAt State.reset 0).state = .absent ∧ xm.s.mgmt.hostUp = true ∧ inRecovery xm.s.mgmt = false := by decide +kernel
end Sys2Proof.Tests
end

section
/-!
PROOFS. The two-source arithmetic, mad, bfi, sel and the 64-bit sums, on vector and on group-wide registers (R175 to R181). One lemma for
each operand form says what it leaves; the instructions of a form differ in their word operation only.
-/
namespace Sys2Proof.Machine

/-! ## bytemix in the spec's terms -/

/-- A result byte: the selected byte of A, zero, its sign or all ones (R178). -/
theorem mixByte_eq (a : Word) (f : Nat) : mixByte a f =
    let c := a.toNat / 256 ^ (f % 4) % 256
    if f / 4 = 0 then c else if f / 4 = 1 then 0 else if f / 4 = 2 then (if 128 ≤ c then 255 else 0) else 255 := by
  have src : wbits a (8 * (f % 4) + 7) (8 * (f % 4)) = a.toNat / 256 ^ (f % 4) % 256 := by
    rw [wbits, bits, pow_mul, show 8 * (f % 4) + 7 + 1 - 8 * (f % 4) = 8 by omega]; rfl
  unfold mixByte
  rw [src]
  split <;> simp_all
/-- The four result bytes side by side, each chosen by four bits of B (R178). -/
theorem bytemixW_eq (a b : Word) : bytemixW a b = BitVec.ofNat 32 ((List.range 4).map fun i =>
    let f := b.toNat / 16 ^ i % 16
    let c := a.toNat / 256 ^ (f % 4) % 256
    256 ^ i * (if f / 4 = 0 then c else if f / 4 = 1 then 0 else if f / 4 = 2 then (if 128 ≤ c then 255 else 0) else 255)).sum := by
  have field : ∀ i, wbits b (4 * i + 3) (4 * i) = b.toNat / 16 ^ i % 16 := fun i => by
    rw [wbits, bits, pow_mul, show 4 * i + 3 + 1 - 4 * i = 4 by omega]; rfl
  simp only [bytemixW, word, field, pow_mul, mixByte_eq, Nat.reducePow]

/-! ## Instructions of a shared form -/

/-- At a state, an instruction is an operand form run with an operation, which is the stated function of two words. -/
def Computes (form : (Word → Word → Word) → (Iv → Iv → Iv → Iv) → Env → State) (s : State) (i : Instr) (val : Word → Word → Word) : Prop :=
  ∃ (op : Word → Word → Word) (iv : Iv → Iv → Iv → Iv), exec i s = withFrag s (form op iv) ∧ ∀ u v, op u v = val u v
/-- What the form leaves for every operation, the instruction leaves for its own. -/
theorem Computes.completes {form : (Word → Word → Word) → (Iv → Iv → Iv → Iv) → Env → State} {s : State} {i : Instr}
    {val : Word → Word → Word} {x : Env} {P : State → Prop} (c : Computes form s i val) (h : At s x) (done : ∀ iv, P (form val iv x)) :
    Completes i s P := by
  obtain ⟨op, iv, arm, eq⟩ := c
  obtain rfl : op = val := funext₂ eq
  exact ⟨_, arm.trans (withFrag_at h _), done iv⟩

section
variable {s : State} {x : Env} {b a d : BitVec 7} {g : BitVec 3}

/-! ## bfi and sel -/

theorem vecBfi_done (h : At s x) (ok : VecBfiOk x b a d g) :
    VecDone s x d.toNat (guarded x g) (fun l => bfiW (vsrc x.g b.toNat l) (vsrcHi x.g b.toNat l) (vsrc x.g a.toNat l)) 4
      (vecBfi x b a d g) := by
  unfold vecBfi; erw [issue_ready _ _ _ _ _ ok]
  exact vecw_done h (afterReads_regs x _) _ _ _ _ _ rfl
theorem grpBfi_done (h : At s x) (ok : GrpBfiOk x b a d g) :
    GrpDone s x (gpred x.g g.toNat) d.toNat (bfiW (gsrc x.g b.toNat) (gsrc x.g (pairHi b.toNat)) (gsrc x.g a.toNat)) 4
      (grpBfi x b a d g) := by
  unfold grpBfi; erw [issue_ready _ _ _ _ _ ok]
  exact grp_done h (afterReads_regs x _) _ _ _ _ _ rfl
/-- sel writes every executing lane: its guard field selects and does not guard (R179). -/
theorem vecSel_done (h : At s x) (ok : Vec2Ok x b a d g false) :
    VecDone s x d.toNat x.active (fun l => if inMask (pmask x.g g.toNat) l then vsrc x.g a.toNat l else vsrc x.g b.toNat l) 4
      (vecSel x b a d g) := by
  rw [← active_all]
  unfold vecSel; erw [issue_ready _ _ _ _ _ ok]
  exact vecw_done h (afterReads_regs x _) _ _ _ _ _ rfl
theorem grpSel_done (h : At s x) (ok : Grp2Ok x b a d g false) :
    GrpDone s x true d.toNat (if gpred x.g g.toNat then gsrc x.g a.toNat else gsrc x.g b.toNat) 4 (grpSel x b a d g) := by
  unfold grpSel; erw [issue_ready _ _ _ _ _ ok]
  exact grp_done h (afterReads_regs x _) _ true _ _ _ rfl

/-! ## Pairs -/

/-- Two vector writes to neighbouring registers give the first its word and the second its own. -/
theorem vwriteAt_pair_vreg (z : Env) (d : Nat) (m : Mask) (lo hi : Nat → Word) (i j : Iv) (r l : Nat) (hl : l < 32) :
    vreg ((z.vwriteAt d m lo i).vwriteAt (d + 1) m hi j).g r l =
      if inMask m l ∧ r = d then lo l else if inMask m l ∧ r = d + 1 then hi l else vreg z.g r l := by
  have apart : ¬(r = d ∧ r = d + 1) := by omega
  rw [vwriteAt_vreg _ _ _ _ _ _ _ hl, vwriteAt_vreg _ _ _ _ _ _ _ hl]
  split_ifs <;> simp_all
/-- A vector pair written in the executing lanes of a mask. -/
theorem vpair_done {z : Env} (h : At s x) (r : RegsOf x z) (d : Nat) (m : Mask) (val : Nat → Nat) (i j : Iv) (same : z.g = x.g) :
    PairDone s x d (x.active &&& m) val
      (((z.vwrite d m (fun l => word (val l)) i).vwrite (d + 1) m (fun l => word (val l / 2 ^ 32)) j).skip 4).commit := by
  have first := r.trans (vwriteAt_regs z d (x.active &&& m) (fun l => word (val l)) i)
  rw [vwrite_mask z, active_regs r, vwrite_mask, active_regs first]
  refine ⟨_, only_of h (first.trans (vwriteAt_regs ..)) 4, fun q l hl => ?_, ?_⟩
  · rw [← same]; exact vwriteAt_pair_vreg z d _ _ _ i j q l hl
  · obtain ⟨g₁, p₁, q₁⟩ := vwriteAt_others z d (x.active &&& m) (fun l => word (val l)) i
    obtain ⟨g₂, p₂, q₂⟩ := vwriteAt_others (z.vwriteAt d (x.active &&& m) (fun l => word (val l)) i) (d + 1) (x.active &&& m)
      (fun l => word (val l / 2 ^ 32)) j
    rw [← same]; exact ⟨g₂.trans g₁, p₂.trans p₁, q₂.trans q₁⟩
theorem wrote_regs (x : Env) (ds : List Nat) : RegsOf x (x.wrote ds) := ⟨rfl, rfl, rfl, rfl, rfl, rfl⟩
/-- Two writes to neighbouring g registers give each its word. -/
theorem gwrite_pair_greg (z : Env) (d : Nat) (lo hi : Word) (i j : Iv) (r : Nat) :
    greg ((z.gwrite d lo i).gwrite (d + 1) hi j).g r = (kfind [(d, lo), (d + 1, hi)] r).getD (greg z.g r) := by
  have apart : ¬(r = d ∧ r = d + 1) := by omega
  rw [gwrite_greg, gwrite_greg]
  simp only [kfind]
  split_ifs <;> simp_all
/-- A group-wide pair written together, or not at all. -/
theorem gpair_done {z : Env} (h : At s x) (r : RegsOf x z) (d : Nat) (w : Bool) (v : Nat) (i j : Iv) (same : z.g = x.g) :
    GrpsDone s x (if w = true then [(d, word v), (d + 1, word (v / 2 ^ 32))] else []) 4
      ((if w = true then ((z.gwrite d (word v) i).gwrite (d + 1) (word (v / 2 ^ 32)) j).wrote [d, d + 1] else z).skip 4).commit := by
  cases w with
  | false => exact ⟨_, only_of h r 4, fun q => by rw [← same]; rfl, by rw [← same]; exact ⟨rfl, rfl, rfl⟩⟩
  | true =>
    refine ⟨_, only_of h (((r.trans (gwrite_regs ..)).trans (gwrite_regs ..)).trans (wrote_regs ..)) 4, fun q => ?_, ?_⟩
    · rw [← same]; exact gwrite_pair_greg z d _ _ i j q
    · obtain ⟨g₁, p₁, q₁⟩ := gwrite_others z d (word v) i
      obtain ⟨g₂, p₂, q₂⟩ := gwrite_others (z.gwrite d (word v) i) (d + 1) (word (v / 2 ^ 32)) j
      rw [← same]; exact ⟨g₂.trans g₁, p₂.trans p₁, q₂.trans q₁⟩
theorem vec64_done (h : At s x) (op : Nat → Nat → Nat) (ok : Vec64Ok x b a d g) :
    PairDone s x d.toNat (guarded x g) (fun l =>
      op (pairVal (vsrc x.g a.toNat l) (vsrcHi x.g a.toNat l)) (pairVal (vsrc x.g b.toNat l) (vsrcHi x.g b.toNat l)))
      (vec64 x b a d g op) := by
  unfold vec64; erw [issue_ready _ _ _ _ _ ok]
  exact vpair_done h (afterReads_regs x _) _ _ _ _ _ rfl
theorem grp64_done (h : At s x) (op : Nat → Nat → Nat) (ok : Grp64Ok x b a d g) :
    let v := op (pairVal (gsrc x.g a.toNat) (gsrc x.g (pairHi a.toNat))) (pairVal (gsrc x.g b.toNat) (gsrc x.g (pairHi b.toNat)))
    GrpsDone s x (if gpred x.g g.toNat then [(d.toNat, word v), (d.toNat + 1, word (v / 2 ^ 32))] else []) 4
      (grp64 x b a d g op) := by
  unfold grp64; erw [issue_ready _ _ _ _ _ ok]
  exact gpair_done h (afterReads_regs x _) _ _ _ _ _ rfl
end

/-! ## The claims -/

/-- Each row of the table: its arm of `exec`, and its word operation in the spec's terms. -/
theorem vectorThreeRegisterResults : Claims.VectorThreeRegisterResults := by
  intro s x b a d g h ok p hp
  refine Computes.completes (form := fun op iv x => vec2 x b a d g (fun u v _ => op u v) iv) ?_ h fun iv =>
    vec2_done h b a d g (fun u v _ => p.2 u v) iv false ok
  revert p
  simp only [List.forall_mem_cons, List.not_mem_nil, false_imp_iff, implies_true, and_true]
  have same : ∀ {op : Word → Word → Word} (u v : Word), op u v = op u v := fun _ _ => rfl
  exact ⟨
    ⟨_, _, rfl, same⟩, ⟨_, _, rfl, same⟩, ⟨_, _, rfl, same⟩,                                        -- add, sub, mul
    ⟨_, _, rfl, same⟩, ⟨_, _, rfl, same⟩,                                                           -- mulhi.n, mulhi.i
    ⟨_, _, rfl, minIW_eq⟩, ⟨_, _, rfl, maxIW_eq⟩, ⟨_, _, rfl, minNW_eq⟩, ⟨_, _, rfl, maxNW_eq⟩,
    ⟨_, _, rfl, same⟩, ⟨_, _, rfl, same⟩, ⟨_, _, rfl, same⟩, ⟨_, _, rfl, same⟩,                     -- and, or, xor, andn
    ⟨_, _, rfl, shlW_eq⟩, ⟨_, _, rfl, shrW_eq⟩, ⟨_, _, rfl, sarW_eq⟩,
    ⟨_, _, rfl, bfeNW_eq⟩, ⟨_, _, rfl, same⟩, ⟨_, _, rfl, bytemixW_eq⟩,                             -- bfe.n, bfe.i, bytemix
    ⟨_, _, rfl, same⟩, ⟨_, _, rfl, same⟩, ⟨_, _, rfl, same⟩, ⟨_, _, rfl, same⟩⟩                     -- div.n, rem.n, div.i, rem.i
/-- The same of the twins. -/
theorem groupThreeRegisterResults : Claims.GroupThreeRegisterResults := by
  intro s x b a d g h ok p hp
  refine Computes.completes (form := fun op iv x => grp2 x b a d g (fun u v _ => op u v) iv) ?_ h fun iv =>
    grp2_done h b a d g (fun u v _ => p.2 u v) iv false ok
  revert p
  simp only [List.forall_mem_cons, List.not_mem_nil, false_imp_iff, implies_true, and_true]
  have same : ∀ {op : Word → Word → Word} (u v : Word), op u v = op u v := fun _ _ => rfl
  exact ⟨
    ⟨_, _, rfl, same⟩, ⟨_, _, rfl, same⟩, ⟨_, _, rfl, same⟩,                                        -- add, sub, mul
    ⟨_, _, rfl, same⟩, ⟨_, _, rfl, same⟩,                                                           -- mulhi.n, mulhi.i
    ⟨_, _, rfl, minIW_eq⟩, ⟨_, _, rfl, maxIW_eq⟩, ⟨_, _, rfl, minNW_eq⟩, ⟨_, _, rfl, maxNW_eq⟩,
    ⟨_, _, rfl, same⟩, ⟨_, _, rfl, same⟩, ⟨_, _, rfl, same⟩, ⟨_, _, rfl, same⟩,                     -- and, or, xor, andn
    ⟨_, _, rfl, shlW_eq⟩, ⟨_, _, rfl, shrW_eq⟩, ⟨_, _, rfl, sarW_eq⟩,
    ⟨_, _, rfl, bfeNW_eq⟩, ⟨_, _, rfl, same⟩, ⟨_, _, rfl, bytemixW_eq⟩,                             -- bfe.n, bfe.i, bytemix
    ⟨_, _, rfl, same⟩, ⟨_, _, rfl, same⟩, ⟨_, _, rfl, same⟩, ⟨_, _, rfl, same⟩⟩                     -- div.n, rem.n, div.i, rem.i
theorem vectorPairAndSelectResults : Claims.VectorPairAndSelectResults := fun _ _ b a d g h =>
  ⟨fun ok => ⟨_, withFrag_at h _, vec2_done h b a d g (fun u v w => u * v + w) ivMad true ok⟩,
   fun ok => ⟨_, withFrag_at h _, vecBfi_done h ok⟩,
   fun ok => ⟨_, withFrag_at h _, vecSel_done h ok⟩,
   fun ok => ⟨_, withFrag_at h _, vec64_done h add64W ok⟩,
   fun ok => ⟨_, withFrag_at h _, vec64_done h sub64W ok⟩⟩
theorem groupPairAndSelectResults : Claims.GroupPairAndSelectResults := fun _ _ b a d g h =>
  ⟨fun ok => ⟨_, withFrag_at h _, grp2_done h b a d g (fun u v w => u * v + w) ivMad true ok⟩,
   fun ok => ⟨_, withFrag_at h _, grpBfi_done h ok⟩,
   fun ok => ⟨_, withFrag_at h _, grpSel_done h ok⟩,
   by
    simp only [List.forall_mem_cons, List.not_mem_nil, false_imp_iff, implies_true, and_true]
    exact ⟨fun ok => ⟨_, withFrag_at h _, grp64_done h add64W ok⟩, fun ok => ⟨_, withFrag_at h _, grp64_done h sub64W ok⟩⟩⟩

/-- Settles O29. -/
theorem threeRegisterResults : Obligations.ThreeRegisterResults := ⟨vectorThreeRegisterResults, groupThreeRegisterResults⟩
/-- Settles O30. -/
theorem pairAndSelectResults : Obligations.PairAndSelectResults := ⟨vectorPairAndSelectResults, groupPairAndSelectResults⟩

end Sys2Proof.Machine
end
